-- ==== Sys2Proof/Word.lean ====
section
/-!
DEFINITION. The widths of the Izloth (R3, R4, R77, R189): plain names for bit vectors, nothing more.
-/

namespace Sys2Proof

/-- A scalar register, address or CSR: 64 bits. -/
abbrev Word := BitVec 64

/-- One byte. -/
abbrev Byte := BitVec 8

/-- One 32-bit instruction word (R60). -/
abbrev IWord := BitVec 32

/-- A vector register or vector-queue entry: 256 bytes (R189). -/
abbrev Vec := BitVec 2048

/-- A predicate register: one bit for each byte of a vector (R189). -/
abbrev Pred := BitVec 256

/-- A token value: generation [15:9], slot [8:0] (R395). -/
abbrev Tok := BitVec 16

/-- A cause code (R454). -/
abbrev Cause := BitVec 10

end Sys2Proof
end

