-- ==== Sys2Proof/Syntax.lean ====
section
/-!
DEFINITION. The syntax of one step of the machine: one constructor for each row of the table of operations and events.
The first 230 are the instructions of R88–R101 with the operand fields of their encodings (encodings themselves are
Decode.lean's); the other 125 are the steps of the other agents (the engines, the front end, the memory processor, the
handle authority, the fabric, the host and the physical function), with what their environment supplies as arguments.
-/

namespace Sys2Proof

/-- The ring nibble [31:28] of word 0 (R61, R64). -/
structure Ring where
  wp : Bool
  wn : Bool
  sp : Bool
  sn : Bool
  deriving DecidableEq, Repr

/-- Bytes supplied by the environment, lowest address first. -/
abbrev Bytes := List (BitVec 8)

/-- A list of unit numbers supplied by the environment. -/
abbrev NatList := List Nat

/-- Pairs of a unit number and a value supplied by the environment. -/
abbrev NatPairs := List (Nat × Nat)

/-- Page-table entries that the memory processor writes: physical address and the 16-byte entry. -/
abbrev PteWrites := List (Nat × BitVec 128)

/-- The answer of fault service (R256): map (with the entries the memory processor writes) or refuse with a cause. -/
inductive ServiceAns where
  | map (ptes : List (Nat × BitVec 128))
  | refuse (cause : BitVec 10)
  deriving DecidableEq, Repr

/-- What the other ranks of a communicator contribute to one collective step (R350–R353): whether every rank's matching
operation agrees, whether a peer has ended, and the bytes of each rank's source stream, by rank; what it gives for a rank of this module is
not used. -/
structure PeerData where
  agree : Bool
  ended : Bool
  srcs  : List (List (BitVec 8))
  deriving DecidableEq, Repr

/-- RRR family (R67) where d, a and b are all named and x is the variant bit. -/
structure RRR where
  ring : Ring
  d : BitVec 6
  a : BitVec 6
  b : BitVec 6
  ta : Bool
  tb : Bool
  deriving DecidableEq, Repr

/-- RRR family with one source: the unary groups (R94, R95) and JL (R89). -/
structure RR where
  ring : Ring
  d : BitVec 6
  a : BitVec 6
  ta : Bool
  deriving DecidableEq, Repr

/-- RRI family (R68). -/
structure RRI where
  ring : Ring
  d : BitVec 6
  a : BitVec 6
  ta : Bool
  imm : BitVec 8
  deriving DecidableEq, Repr

/-- The shift immediates of the RRI family: imm8[5:0] (R88). -/
structure RSh where
  ring : Ring
  d : BitVec 6
  a : BitVec 6
  ta : Bool
  sh : BitVec 6
  deriving DecidableEq, Repr

/-- BFX and BFI (R69, R166): `wm1` is width − 1; `sx` is bit [12], which only BFX may set. -/
structure BFld where
  ring : Ring
  d : BitVec 6
  a : BitVec 6
  ta : Bool
  pos : BitVec 6
  wm1 : BitVec 6
  sx : Bool
  deriving DecidableEq, Repr

/-- RL family without a source: LI and BRL (R69). -/
structure RL0 where
  ring : Ring
  d : BitVec 6
  imm : BitVec 28
  deriving DecidableEq, Repr

/-- RL family with a source: LIS and ADDL (R69). -/
structure RL1 where
  ring : Ring
  d : BitVec 6
  a : BitVec 6
  ta : Bool
  imm : BitVec 28
  deriving DecidableEq, Repr

/-- PAND, POR, PXOR (R170). -/
structure PPP where
  ring : Ring
  pd : BitVec 3
  pa : BitVec 3
  pb : BitVec 3
  deriving DecidableEq, Repr

/-- PNOT (R170). -/
structure PP where
  ring : Ring
  pd : BitVec 3
  pa : BitVec 3
  deriving DecidableEq, Repr

/-- PFROM (R171). -/
structure PFrom where
  ring : Ring
  pd : BitVec 3
  n : BitVec 2
  tq : Bool
  j : BitVec 2
  z : Bool
  deriving DecidableEq, Repr

/-- PTO (R172). -/
structure PTo where
  ring : Ring
  ps : BitVec 3
  n : BitVec 2
  j : BitVec 2
  deriving DecidableEq, Repr

/-- FSET and FINC (R321): flag name f and value v (n in FINC). -/
structure Flag2 where
  ring : Ring
  f : BitVec 6
  tf : Bool
  v : BitVec 6
  tv : Bool
  deriving DecidableEq, Repr

/-- FRD (R321). -/
structure FRdF where
  ring : Ring
  d : BitVec 6
  f : BitVec 6
  tf : Bool
  deriving DecidableEq, Repr

/-- FWAIT (R321). -/
structure FWaitF where
  ring : Ring
  f : BitVec 6
  tf : Bool
  v : BitVec 6
  tv : Bool
  cond : BitVec 3
  sus : Bool
  deriving DecidableEq, Repr

/-- BR (R70). -/
structure Br0 where
  ring : Ring
  off : BitVec 14
  deriving DecidableEq, Repr

/-- The conditional branches (R70). -/
structure BrC where
  ring : Ring
  a : BitVec 6
  ta : Bool
  off : BitVec 14
  deriving DecidableEq, Repr

/-- LOOP (R177). -/
structure LoopF where
  ring : Ring
  a : BitVec 6
  ta : Bool
  endo : BitVec 11
  deriving DecidableEq, Repr

/-- LOOPI (R177). -/
structure LoopIF where
  ring : Ring
  count : BitVec 10
  endo : BitVec 11
  deriving DecidableEq, Repr

/-- TRAP (R182). -/
structure TrapF where
  ring : Ring
  code : BitVec 10
  deriving DecidableEq, Repr

/-- SVC (R183). -/
structure SvcF where
  ring : Ring
  svc : BitVec 12
  deriving DecidableEq, Repr

/-- BRK (R184): its ring nibble is 0000. -/
structure BrkF where
  tag : BitVec 10
  deriving DecidableEq, Repr

/-- LD, LDU, ST (R71, R307). -/
structure Mem where
  ring : Ring
  t : BitVec 6
  b : BitVec 6
  tt : Bool
  tb : Bool
  sz : BitVec 2
  m : BitVec 5
  deriving DecidableEq, Repr

/-- LDS, STS, LDA, STL (R310): m[4:3] is the scope. -/
structure MemS where
  ring : Ring
  t : BitVec 6
  b : BitVec 6
  tt : Bool
  tb : Bool
  sz : BitVec 2
  sc : BitVec 2
  deriving DecidableEq, Repr

/-- The AMOs (R100, R312): `dbl` is size D, `nr` the reduction bit. -/
structure Amo where
  ring : Ring
  t : BitVec 6
  b : BitVec 6
  tt : Bool
  tb : Bool
  sc : BitVec 2
  ord : BitVec 2
  c : BitVec 6
  tc : Bool
  dbl : Bool
  nr : Bool
  deriving DecidableEq, Repr

/-- WAITA (R316). -/
structure WaitaF where
  ring : Ring
  t : BitVec 6
  b : BitVec 6
  tt : Bool
  tb : Bool
  dbl : Bool
  cond : BitVec 3
  sc : BitVec 2
  acq : Bool
  o : BitVec 6
  te : Bool
  sus : Bool
  d : BitVec 6
  deriving DecidableEq, Repr

/-- FENCE of kind FULL, ACQ or REL (R97, R319). -/
structure FenceS where
  ring : Ring
  sc : BitVec 2
  deriving DecidableEq, Repr

/-- An instruction with ring bits and no field. -/
structure R0 where
  ring : Ring
  deriving DecidableEq, Repr

/-- LDM and STM (R186): m is n − 1. -/
structure LdmF where
  ring : Ring
  t : BitVec 6
  b : BitVec 6
  tt : Bool
  tb : Bool
  m : BitVec 4
  deriving DecidableEq, Repr

/-- V family with two vector sources (R72). -/
structure V3 where
  ring : Ring
  vd : BitVec 5
  va : BitVec 5
  vb : BitVec 5
  ta : Bool
  tb : Bool
  p : BitVec 3
  deriving DecidableEq, Repr

/-- VCMP (R197): condition c and destination predicate pd. -/
structure VCmpF where
  ring : Ring
  c : BitVec 3
  pd : BitVec 3
  va : BitVec 5
  vb : BitVec 5
  ta : Bool
  tb : Bool
  p : BitVec 3
  deriving DecidableEq, Repr

/-- VBCAST (R199). -/
structure VBc where
  ring : Ring
  vd : BitVec 5
  s : BitVec 6
  ts : Bool
  p : BitVec 3
  deriving DecidableEq, Repr

/-- VMOV (R200). -/
structure V2 where
  ring : Ring
  vd : BitVec 5
  va : BitVec 5
  ta : Bool
  p : BitVec 3
  deriving DecidableEq, Repr

/-- VRED (R201). -/
structure VRedF where
  ring : Ring
  vd : BitVec 5
  va : BitVec 5
  op : BitVec 2
  ta : Bool
  p : BitVec 3
  deriving DecidableEq, Repr

/-- VSETT (R202). -/
structure VSettF where
  ring : Ring
  type : BitVec 4
  rnd : BitVec 2
  ovf : BitVec 2
  deriving DecidableEq, Repr

/-- VLD and VST (R73, R204). -/
structure VMF where
  ring : Ring
  q : BitVec 5
  b : BitVec 6
  tb : Bool
  dc : Bool
  off : BitVec 8
  deriving DecidableEq, Repr

/-- VLDG and VSTS (R206). -/
structure VGF where
  ring : Ring
  q : BitVec 5
  b : BitVec 6
  tb : Bool
  sz : BitVec 2
  deriving DecidableEq, Repr

/-- A VX function (R208, R209): word 0 in the V layout, word 1 fields. -/
structure VXF where
  ring : Ring
  vd : BitVec 5
  va : BitVec 5
  vb : BitVec 5
  ta : Bool
  tb : Bool
  p : BitVec 3
  x : Bool
  rnd : BitVec 2
  ovf : BitVec 2
  dt : BitVec 4
  st : BitVec 4
  imm : BitVec 8
  deriving DecidableEq, Repr

/-- VINS (R217): word 0 in the layout of R199. -/
structure VInsF where
  ring : Ring
  vd : BitVec 5
  s : BitVec 6
  ts : Bool
  dt : BitVec 4
  st : BitVec 4
  k : BitVec 8
  deriving DecidableEq, Repr

/-- MLEASE (R225). -/
structure MLeaseF where
  ring : Ring
  k : BitVec 4
  pri : BitVec 2
  b : BitVec 6
  tb : Bool
  sus : Bool
  deriving DecidableEq, Repr

/-- MREL (R226). -/
structure MRelF where
  ring : Ring
  k : BitVec 4
  pri : BitVec 2
  deriving DecidableEq, Repr

/-- MMA, MMAQ, MMV (R232). -/
structure MmaF where
  ring : Ring
  k : BitVec 4
  pri : BitVec 2
  dt : Bool
  ha : BitVec 5
  hb : BitVec 5
  z : Bool
  acc : BitVec 8
  ga : BitVec 6
  ta : Bool
  gb : BitVec 6
  tb : Bool
  gs : BitVec 6
  ts : Bool
  gsa : BitVec 6
  tsa : Bool
  gsb : BitVec 6
  tsb : Bool
  bufa : BitVec 8
  bufb : BitVec 8
  deriving DecidableEq, Repr

/-- MZERO (R237): cnt is count − 1. -/
structure MZeroF where
  ring : Ring
  k : BitVec 4
  pri : BitVec 2
  dt : Bool
  acc : BitVec 8
  cnt : BitVec 6
  deriving DecidableEq, Repr

/-- MDRAIN and MLDACC (R238). -/
structure MTileF where
  ring : Ring
  k : BitVec 4
  pri : BitVec 2
  dt : Bool
  h : BitVec 5
  z : Bool
  rnd : BitVec 2
  ovf : BitVec 2
  acc : BitVec 8
  gt : BitVec 6
  tt : Bool
  gs : BitVec 6
  ts : Bool
  buf : BitVec 8
  deriving DecidableEq, Repr

/-- CPY, and words 0 to 2 of CPYG, CPYS and CPYR (R337). -/
structure CpyF where
  ring : Ring
  k : BitVec 4
  pri : BitVec 2
  dt : Bool
  hd : BitVec 5
  hs : BitVec 5
  dc : Bool
  gd : BitVec 6
  td : Bool
  gs : BitVec 6
  ts : Bool
  yd : BitVec 3
  ys : BitVec 3
  buf : BitVec 8
  dfmt : BitVec 4
  rnd : BitVec 2
  ovf : BitVec 2
  pat : Bool
  esz : BitVec 2
  gn : BitVec 6
  tn : Bool
  che : Bool
  ch : BitVec 3
  deriving DecidableEq, Repr

/-- CPYG and CPYS (R337): word 3 names the index list. -/
structure CpyIF where
  c : CpyF
  hi : BitVec 5
  gi : BitVec 6
  ti : Bool
  gc : BitVec 6
  tc : Bool
  deriving DecidableEq, Repr

/-- CPYR (R337). -/
structure CpyRF where
  c : CpyF
  op : BitVec 2
  deriving DecidableEq, Repr

/-- CFILL (R337). -/
structure CFillF where
  ring : Ring
  k : BitVec 4
  pri : BitVec 2
  dt : Bool
  hd : BitVec 5
  gv : BitVec 6
  tv : Bool
  gd : BitVec 6
  td : Bool
  yd : BitVec 3
  gn : BitVec 6
  tn : Bool
  che : Bool
  ch : BitVec 3
  buf : BitVec 8
  deriving DecidableEq, Repr

/-- CHBIND (R342): `se` is the engine bit f[13]. -/
structure ChBindF where
  ring : Ring
  k : BitVec 4
  pri : BitVec 2
  dt : Bool
  se : Bool
  c : BitVec 3
  h : BitVec 5
  go : BitVec 6
  te : Bool
  gl : BitVec 6
  tl : Bool
  deriving DecidableEq, Repr

/-- CHRD (R344). -/
structure ChRdF where
  ring : Ring
  k : BitVec 4
  pri : BitVec 2
  dt : Bool
  se : Bool
  c : BitVec 3
  gp : BitVec 6
  tp : Bool
  deriving DecidableEq, Repr

/-- CHUNB (R344). -/
structure ChUnbF where
  ring : Ring
  k : BitVec 4
  pri : BitVec 2
  dt : Bool
  se : Bool
  c : BitVec 3
  deriving DecidableEq, Repr

/-- PKSET (R345): cnt is count − 1. -/
structure PkSetF where
  ring : Ring
  k : BitVec 4
  pri : BitVec 2
  dt : Bool
  n : BitVec 4
  cnt : BitVec 4
  deriving DecidableEq, Repr

/-- XST (R347). -/
structure XstF where
  ring : Ring
  k : BitVec 4
  pri : BitVec 2
  dt : Bool
  hd : BitVec 5
  hs : BitVec 5
  gd : BitVec 6
  td : Bool
  gs : BitVec 6
  ts : Bool
  yd : BitVec 3
  ys : BitVec 3
  buf : BitVec 8
  gf : BitVec 6
  tf : Bool
  gn : BitVec 6
  tn : Bool
  grp : BitVec 12
  deriving DecidableEq, Repr

/-- XLD (R347). -/
structure XldF where
  ring : Ring
  k : BitVec 4
  pri : BitVec 2
  dt : Bool
  hd : BitVec 5
  hs : BitVec 5
  gd : BitVec 6
  td : Bool
  gs : BitVec 6
  ts : Bool
  yd : BitVec 3
  ys : BitVec 3
  buf : BitVec 8
  gn : BitVec 6
  tn : Bool
  che : Bool
  ch : BitVec 3
  deriving DecidableEq, Repr

/-- XAMO (R349). -/
structure XAmoF where
  ring : Ring
  k : BitVec 4
  pri : BitVec 2
  dt : Bool
  h : BitVec 5
  op : BitVec 4
  ord : BitVec 2
  sz : BitVec 2
  go : BitVec 6
  te : Bool
  gv : BitVec 6
  tv : Bool
  gc : BitVec 6
  tc : Bool
  gp : BitVec 6
  tp : Bool
  deriving DecidableEq, Repr

/-- CAR, CAG, CRS, CA2A, CBC (R351): ent is ent − 1. -/
structure CollF where
  ring : Ring
  k : BitVec 4
  pri : BitVec 2
  dt : Bool
  hd : BitVec 5
  hs : BitVec 5
  exact : Bool
  gd : BitVec 6
  td : Bool
  gs : BitVec 6
  ts : Bool
  yd : BitVec 3
  ys : BitVec 3
  buf : BitVec 8
  comm : BitVec 12
  efmt : BitVec 4
  rnd : BitVec 2
  ovf : BitVec 2
  op : BitVec 2
  gn : BitVec 6
  tn : Bool
  ent : BitVec 6
  groot : BitVec 6
  troot : Bool
  deriving DecidableEq, Repr

/-- CBAR (R355). -/
structure CBarF where
  ring : Ring
  k : BitVec 4
  pri : BitVec 2
  dt : Bool
  comm : BitVec 12
  gn : BitVec 6
  tn : Bool
  deriving DecidableEq, Repr

/-- NSEND (R356). -/
structure NSendF where
  ring : Ring
  k : BitVec 4
  pri : BitVec 2
  dt : Bool
  he : BitVec 5
  hs : BitVec 5
  mode : BitVec 2
  gp : BitVec 6
  tp : Bool
  gs : BitVec 6
  ts : Bool
  ys : BitVec 3
  buf : BitVec 8
  gt : BitVec 6
  tt : Bool
  gn : BitVec 6
  tn : Bool
  ent : BitVec 6
  deriving DecidableEq, Repr

/-- NRECV (R356). -/
structure NRecvF where
  ring : Ring
  k : BitVec 4
  pri : BitVec 2
  dt : Bool
  he : BitVec 5
  hd : BitVec 5
  mode : BitVec 2
  gp : BitVec 6
  tp : Bool
  gd : BitVec 6
  td : Bool
  yd : BitVec 3
  buf : BitVec 8
  gt : BitVec 6
  tt : Bool
  gn : BitVec 6
  tn : Bool
  gm : BitVec 6
  tm : Bool
  deriving DecidableEq, Repr

/-- NWRITE and NREAD (R356). -/
structure NRwF where
  ring : Ring
  k : BitVec 4
  pri : BitVec 2
  dt : Bool
  he : BitVec 5
  hl : BitVec 5
  mode : BitVec 2
  gp : BitVec 6
  tp : Bool
  gl : BitVec 6
  tl : Bool
  yl : BitVec 3
  buf : BitVec 8
  gr : BitVec 6
  tr : Bool
  gn : BitVec 6
  tn : Bool
  ent : BitVec 6
  region : BitVec 8
  deriving DecidableEq, Repr

/-- OPWAIT (R401). -/
structure OpWaitF where
  ring : Ring
  k : BitVec 4
  d : BitVec 6
  sus : Bool
  deriving DecidableEq, Repr

/-- OPTEST, OPCANCEL, OPDETACH, OPFAULT (R401). -/
structure OpDF where
  ring : Ring
  k : BitVec 4
  d : BitVec 6
  deriving DecidableEq, Repr

/-- OPADOPT (R401). -/
structure OpAdoptF where
  ring : Ring
  k : BitVec 4
  a : BitVec 6
  ta : Bool
  deriving DecidableEq, Repr

/-- OPPRI (R401). -/
structure OpPriF where
  ring : Ring
  k : BitVec 4
  pri : BitVec 2
  deriving DecidableEq, Repr

/-- OPREL (R401). -/
structure OpKF where
  ring : Ring
  k : BitVec 4
  deriving DecidableEq, Repr

/-- KYIELD (R410). -/
structure KYieldF where
  ring : Ring
  free : Bool
  deriving DecidableEq, Repr

/-- KSPAWN (R410). -/
structure KSpawnF where
  ring : Ring
  d : BitVec 6
  w : BitVec 6
  tw : Bool
  free : Bool
  pri : BitVec 2
  inh : Bool
  imm : BitVec 28
  deriving DecidableEq, Repr

/-- KRANGE (R410). -/
structure KRangeF where
  ring : Ring
  d : BitVec 6
  a : BitVec 6
  ta : Bool
  b : BitVec 6
  tb : Bool
  off : BitVec 21
  deriving DecidableEq, Repr

/-- An S-family instruction with a scalar destination only. -/
structure D1 where
  ring : Ring
  d : BitVec 6
  deriving DecidableEq, Repr

/-- WIDF (R410). -/
structure WidfF where
  ring : Ring
  d : BitVec 6
  n : BitVec 3
  deriving DecidableEq, Repr

/-- DEPDEC (R410). -/
structure DepDecF where
  ring : Ring
  mask : BitVec 8
  deriving DecidableEq, Repr

/-- HLD and HST (R430). -/
structure HLdF where
  ring : Ring
  y : Bool
  reg : BitVec 5
  b : BitVec 6
  tb : Bool
  deriving DecidableEq, Repr

/-- HNARROW (R430). -/
structure HNarrowF where
  ring : Ring
  hd : BitVec 5
  hs : BitVec 5
  go : BitVec 6
  te : Bool
  gl : BitVec 6
  tl : Bool
  mask : BitVec 8
  deriving DecidableEq, Repr

/-- HINFO (R430). -/
structure HInfoF where
  ring : Ring
  d : BitVec 6
  h : BitVec 5
  n : BitVec 3
  deriving DecidableEq, Repr

/-- HCHK and HREQ (R430). -/
structure HDhaF where
  ring : Ring
  d : BitVec 6
  h : BitVec 5
  a : BitVec 6
  deriving DecidableEq, Repr

/-- HDROP (R430). -/
structure HDropF where
  ring : Ring
  h : BitVec 5
  deriving DecidableEq, Repr

/-- CSRR (R463). -/
structure CsrRF where
  ring : Ring
  d : BitVec 6
  csr : BitVec 12
  deriving DecidableEq, Repr

/-- CSRW (R463). -/
structure CsrWF where
  ring : Ring
  a : BitVec 6
  csr : BitVec 12
  deriving DecidableEq, Repr

/-- CSRX (R463). -/
structure CsrXF where
  ring : Ring
  d : BitVec 6
  csr : BitVec 12
  a : BitVec 6
  ta : Bool
  op : BitVec 2
  deriving DecidableEq, Repr

/-- PMCRD (R463). -/
structure PmcF where
  ring : Ring
  d : BitVec 6
  a : BitVec 6
  ta : Bool
  deriving DecidableEq, Repr

/-- What the host requests at the host port (R291, R484): a read, a write, or a PCIe AtomicOp, whose operands are its bytes; those of CAS are
the comparand and then the new value. -/
inductive HostReq where
  | read
  | write
  | fetchAdd
  | swap
  | cas
  deriving DecidableEq, Repr

/-- What the attestation of a strait's peer shows (R490): whether the peer has been authenticated, its pod identifier and its image measurement;
and `list` the accepted image measurements that the module checks it against, whose hash the pod policy holds (R489). -/
structure PeerReport where
  ok   : Bool
  pod  : Nat
  meas : BitVec 384
  list : List (BitVec 384)
  deriving DecidableEq, Repr

/-- One step of the machine. -/
inductive Instr where
  /-- ADD (R161): Adds two scalar registers modulo 2^64; with all fields zero it is the canonical NOP. -/
  | add (f : RRR)
  /-- ADDS (R161): Adds two scalar registers with signed saturation. -/
  | adds (f : RRR)
  /-- SUB (R161): Subtracts b from a modulo 2^64. -/
  | sub (f : RRR)
  /-- SUBS (R161): Subtracts b from a with signed saturation. -/
  | subs (f : RRR)
  /-- MUL (R161): Writes the low 64 bits of the product. -/
  | mul (f : RRR)
  /-- MULH (R161): Writes the high 64 bits of the signed 128-bit product. -/
  | mulh (f : RRR)
  /-- MULHU (R161): Writes the high 64 bits of the unsigned 128-bit product. -/
  | mulhu (f : RRR)
  /-- DIV (R162): Signed division truncated toward zero; never traps; long-latency. -/
  | div (f : RRR)
  /-- DIVU (R162): Unsigned division; never traps; long-latency. -/
  | divu (f : RRR)
  /-- REM (R162): Signed remainder with the sign of a; long-latency. -/
  | rem (f : RRR)
  /-- REMU (R162): Unsigned remainder; long-latency. -/
  | remu (f : RRR)
  /-- AND (R161): Bitwise AND of two registers. -/
  | and (f : RRR)
  /-- OR (R161): Bitwise OR of two registers. -/
  | or (f : RRR)
  /-- XOR (R161): Bitwise XOR of two registers. -/
  | xor (f : RRR)
  /-- ANDN (R161): Writes a AND NOT b. -/
  | andn (f : RRR)
  /-- SHL (R161): Shifts a left by b[5:0]. -/
  | shl (f : RRR)
  /-- SHR (R161): Shifts a right by b[5:0] with zero fill. -/
  | shr (f : RRR)
  /-- SRA (R161): Shifts a right by b[5:0] with sign fill. -/
  | sra (f : RRR)
  /-- ROL (R161): Rotates a left by b[5:0]. -/
  | rol (f : RRR)
  /-- MIN (R161): Signed minimum. -/
  | min (f : RRR)
  /-- MINU (R161): Unsigned minimum. -/
  | minu (f : RRR)
  /-- MAX (R161): Signed maximum. -/
  | max (f : RRR)
  /-- MAXU (R161): Unsigned maximum. -/
  | maxu (f : RRR)
  /-- SLT (R161): Writes 1 if a < b signed, else 0. -/
  | slt (f : RRR)
  /-- SLTU (R161): Writes 1 if a < b unsigned, else 0. -/
  | sltu (f : RRR)
  /-- SEQ (R161): Writes 1 if a = b, else 0. -/
  | seq (f : RRR)
  /-- SNE (R161): Writes 1 if a differs from b, else 0. -/
  | sne (f : RRR)
  /-- CMOV (R163): Writes a into d when b is nonzero, reading d as a third source. -/
  | cmov (f : RRR)
  /-- CLZ (R164): Counts leading zero bits of a. -/
  | clz (f : RR)
  /-- CTZ (R164): Counts trailing zero bits of a. -/
  | ctz (f : RR)
  /-- POPC (R164): Counts one bits of a. -/
  | popc (f : RR)
  /-- BREV (R164): Reverses the bit order of a. -/
  | brev (f : RR)
  /-- SEXT_B (R164): Sign-extends a[7:0]. -/
  | sextB (f : RR)
  /-- SEXT_H (R164): Sign-extends a[15:0]. -/
  | sextH (f : RR)
  /-- SEXT_W (R164): Sign-extends a[31:0]. -/
  | sextW (f : RR)
  /-- ZEXT_B (R164): Zero-extends a[7:0]. -/
  | zextB (f : RR)
  /-- ZEXT_H (R164): Zero-extends a[15:0]. -/
  | zextH (f : RR)
  /-- ZEXT_W (R164): Zero-extends a[31:0]. -/
  | zextW (f : RR)
  /-- ABS (R164): Writes the wrapping absolute value of a. -/
  | abs (f : RR)
  /-- NEG (R164): Writes 0 − a, wrapping. -/
  | neg (f : RR)
  /-- ADDI (R165): Adds the sign-extended imm8 to a. -/
  | addi (f : RRI)
  /-- ANDI (R165): ANDs a with the sign-extended imm8. -/
  | andi (f : RRI)
  /-- ORI (R165): ORs a with the sign-extended imm8. -/
  | ori (f : RRI)
  /-- XORI (R165): XORs a with the sign-extended imm8. -/
  | xori (f : RRI)
  /-- SHLI (R165): Shifts a left by an immediate count. -/
  | shli (f : RSh)
  /-- SHRI (R165): Shifts a right by an immediate count with zero fill. -/
  | shri (f : RSh)
  /-- SRAI (R165): Shifts a right by an immediate count with sign fill. -/
  | srai (f : RSh)
  /-- SLTI (R165): Writes 1 if a is below the sign-extended immediate, signed. -/
  | slti (f : RRI)
  /-- SLTIU (R165): Writes 1 if a is below the sign-extended immediate, unsigned. -/
  | sltiu (f : RRI)
  /-- BFX (R166): Extracts a bit field of a, zero- or sign-extended. -/
  | bfx (f : BFld)
  /-- BFI (R166): Inserts the low bits of a into a bit field of d. -/
  | bfi (f : BFld)
  /-- LI (R166): Loads a sign-extended 28-bit immediate. -/
  | li (f : RL0)
  /-- LIS (R166): Writes (a << 28) OR the zero-extended immediate. -/
  | lis (f : RL1)
  /-- ADDL (R166): Adds a sign-extended 28-bit immediate to a. -/
  | addl (f : RL1)
  /-- FADD (R167): FP32 addition rounded by RNE. -/
  | fadd (f : RRR)
  /-- FSUB (R167): FP32 subtraction rounded by RNE. -/
  | fsub (f : RRR)
  /-- FMUL (R167): FP32 multiplication. -/
  | fmul (f : RRR)
  /-- FMA (R167): FP32 fused multiply-add into d with one rounding. -/
  | fma (f : RRR)
  /-- FDIV (R167): FP32 division; long-latency. -/
  | fdiv (f : RRR)
  /-- FMIN (R167): FP32 minimum by R136. -/
  | fmin (f : RRR)
  /-- FMAX (R167): FP32 maximum by R136. -/
  | fmax (f : RRR)
  /-- FLT (R168): FP32 less-than comparison. -/
  | flt (f : RRR)
  /-- FLE (R168): FP32 less-or-equal comparison. -/
  | fle (f : RRR)
  /-- FEQ (R168): FP32 equality comparison. -/
  | feq (f : RRR)
  /-- FSQRT (R167): FP32 square root; long-latency. -/
  | fsqrt (f : RR)
  /-- FABS (R167): Clears bit 31 of a. -/
  | fabs (f : RR)
  /-- FNEG (R167): Inverts bit 31 of a. -/
  | fneg (f : RR)
  /-- FCVTI (R168): Converts FP32 to a saturated signed 64-bit integer by RNE. -/
  | fcvti (f : RR)
  /-- FCVTIZ (R168): Converts FP32 to a saturated signed 64-bit integer by RTZ. -/
  | fcvtiz (f : RR)
  /-- FCVTF (R167): Converts a signed 64-bit integer to FP32. -/
  | fcvtf (f : RR)
  /-- FCVTFU (R167): Converts an unsigned 64-bit integer to FP32. -/
  | fcvtfu (f : RR)
  /-- FCLASS (R169): Writes the one-hot class mask of an FP32 value. -/
  | fclass (f : RR)
  /-- PAND (R170): ANDs two predicate registers. -/
  | pand (f : PPP)
  /-- POR (R170): ORs two predicate registers. -/
  | por (f : PPP)
  /-- PXOR (R170): XORs two predicate registers. -/
  | pxor (f : PPP)
  /-- PNOT (R170): Inverts a predicate register. -/
  | pnot (f : PP)
  /-- PFROM (R171): Pops a 64-bit entry into one quarter of a predicate register. -/
  | pfrom (f : PFrom)
  /-- PTO (R172): Pushes one quarter of a predicate register into an execute-to-access queue. -/
  | pto (f : PTo)
  /-- FSET (R322): Writes a flag-file entry as a cluster-scope release. -/
  | fset (f : Flag2)
  /-- FRD (R322): Reads a flag-file entry relaxed. -/
  | frd (f : FRdF)
  /-- BR (R173): Unconditional PC-relative branch. -/
  | br (f : Br0)
  /-- BZ (R173): Branches when a is zero. -/
  | bz (f : BrC)
  /-- BNZ (R173): Branches when a is nonzero. -/
  | bnz (f : BrC)
  /-- BLTZ (R173): Branches when a is negative. -/
  | bltz (f : BrC)
  /-- BGEZ (R173): Branches when a is not negative. -/
  | bgez (f : BrC)
  /-- JL (R174): Jumps to g[a] and writes the link P + 4. -/
  | jl (f : RR)
  /-- BRL (R174): Branches by a 28-bit word offset and writes the link P + 8. -/
  | brl (f : RL0)
  /-- LOOP (R178): Pushes a hardware loop level counted by g[a], or skips the body when zero. -/
  | loop (f : LoopF)
  /-- LOOPI (R178): Pushes a hardware loop level with an immediate count. -/
  | loopi (f : LoopIF)
  /-- TRAP (R182): Retires and enters the trap path with a user cause 0x3C0–0x3FF. -/
  | trap (f : TrapF)
  /-- SVC (R183): Retires and enters the trap path with supervisor call 0x00F. -/
  | svc (f : SvcF)
  /-- ERET (R185): Reloads state from the trap frame, leaves handler mode and re-injects replay entries. -/
  | eret
  /-- BRK (R184): Raises breakpoint 0x013 or enters debug halt. -/
  | brk (f : BrkF)
  /-- LD (R308): Plain sign-extending scalar load. -/
  | ld (f : Mem)
  /-- LDU (R308): Plain zero-extending scalar load. -/
  | ldu (f : Mem)
  /-- ST (R308): Plain scalar store. -/
  | st (f : Mem)
  /-- LDS (R311): Strong relaxed load at a named scope. -/
  | lds (f : MemS)
  /-- STS (R311): Strong relaxed store at a named scope. -/
  | sts (f : MemS)
  /-- LDA (R311): Acquire load at a named scope. -/
  | lda (f : MemS)
  /-- STL (R311): Release store at a named scope. -/
  | stl (f : MemS)
  /-- AADD (R313): Atomic add at the home. -/
  | aadd (f : Amo)
  /-- AAND (R313): Atomic AND at the home. -/
  | aand (f : Amo)
  /-- AOR (R313): Atomic OR at the home. -/
  | aor (f : Amo)
  /-- AXOR (R313): Atomic XOR at the home. -/
  | axor (f : Amo)
  /-- AMIN (R313): Atomic signed minimum at the home. -/
  | amin (f : Amo)
  /-- AMAX (R313): Atomic signed maximum at the home. -/
  | amax (f : Amo)
  /-- AMINU (R313): Atomic unsigned minimum at the home. -/
  | aminu (f : Amo)
  /-- AMAXU (R313): Atomic unsigned maximum at the home. -/
  | amaxu (f : Amo)
  /-- ASWP (R313): Atomic swap at the home. -/
  | aswp (f : Amo)
  /-- ACAS (R313): Atomic compare-and-swap at the home. -/
  | acas (f : Amo)
  /-- AFADD (R313): Atomic FP32 add at the home. -/
  | afadd (f : Amo)
  /-- WAITA (R317): Waits until a memory word meets a condition or a timeout passes, optionally suspending. -/
  | waita (f : WaitaF)
  /-- FENCE_FULL (R319): Waits for all earlier accesses and shoal drain; orders later accesses. -/
  | fenceFull (f : FenceS)
  /-- FENCE_ACQ (R319): Waits for earlier loads; orders later accesses after it. -/
  | fenceAcq (f : FenceS)
  /-- FENCE_REL (R319): Waits for earlier accesses and shoal drain before later stores. -/
  | fenceRel (f : FenceS)
  /-- FENCE_SHOAL (R319): Waits until the context's shoal-log entries have drained. -/
  | fenceShoal (f : R0)
  /-- FENCE_IO (R319): Waits for global observation of host-memory writes and interrupts. -/
  | fenceIo (f : R0)
  /-- LDM (R187): Loads n consecutive doublewords into consecutive registers. -/
  | ldm (f : LdmF)
  /-- STM (R187): Stores n consecutive registers as doublewords. -/
  | stm (f : LdmF)
  /-- CVTA (R324): Converts between a generic address and a window offset. -/
  | cvta (f : RRR)
  /-- ASPC (R324): Tests whether an address belongs to a space. -/
  | aspc (f : RRR)
  /-- FINC (R322): Adds to a flag-file entry, locally or as a release-class packet to another cluster. -/
  | finc (f : Flag2)
  /-- FWAIT (R322): Waits until a flag-file entry meets a condition, acquiring at cluster scope. -/
  | fwait (f : FWaitF)
  /-- VADD (R196): Lane-wise vector addition. -/
  | vadd (f : V3)
  /-- VSUB (R196): Lane-wise vector subtraction. -/
  | vsub (f : V3)
  /-- VMUL (R196): Lane-wise vector multiplication. -/
  | vmul (f : V3)
  /-- VFMA (R196): Lane-wise fused multiply-add into vd. -/
  | vfma (f : V3)
  /-- VFNMA (R196): Lane-wise fused d − a × b. -/
  | vfnma (f : V3)
  /-- VMIN (R196): Lane-wise minimum. -/
  | vmin (f : V3)
  /-- VMAX (R196): Lane-wise maximum. -/
  | vmax (f : V3)
  /-- VCMP (R197): Lane-wise comparison into a predicate register. -/
  | vcmp (f : VCmpF)
  /-- VSEL (R198): Selects lanes of va or vb by a predicate. -/
  | vsel (f : V3)
  /-- VBCAST (R199): Broadcasts a scalar into every active lane. -/
  | vbcast (f : VBc)
  /-- VMOV (R200): Copies a vector between registers and queues. -/
  | vmov (f : V2)
  /-- VLD (R205): Loads 256 bytes, optionally decoding, into an access-to-execute vector queue. -/
  | vld (f : VMF)
  /-- VST (R205): Pops a vector and stores its 256 bytes. -/
  | vst (f : VMF)
  /-- VLDG (R206): Gathers elements by an index vector into a vector queue. -/
  | vldg (f : VGF)
  /-- VSTS (R206): Scatters data lanes to indexed addresses. -/
  | vsts (f : VGF)
  /-- VRED (R201): Reduces lanes by pairwise halving into lane 0. -/
  | vred (f : VRedF)
  /-- VSETT (R202): Writes VTYPE type, rounding and overflow policy. -/
  | vsett (f : VSettF)
  /-- VPERM (R203): Permutes lanes of va by indices in vb. -/
  | vperm (f : V3)
  /-- VAND (R211): Lane-wise bitwise AND. -/
  | vand (f : VXF)
  /-- VOR (R211): Lane-wise bitwise OR. -/
  | vor (f : VXF)
  /-- VXOR (R211): Lane-wise bitwise XOR. -/
  | vxor (f : VXF)
  /-- VNOT (R211): Lane-wise bitwise NOT. -/
  | vnot (f : VXF)
  /-- VSHL (R211): Lane-wise left shift by vector or immediate count. -/
  | vshl (f : VXF)
  /-- VSHR (R211): Lane-wise logical right shift. -/
  | vshr (f : VXF)
  /-- VSRA (R211): Lane-wise arithmetic right shift. -/
  | vsra (f : VXF)
  /-- VABS (R211): Lane-wise absolute value. -/
  | vabs (f : VXF)
  /-- VNEG (R211): Lane-wise negation. -/
  | vneg (f : VXF)
  /-- VDIV (R212): Correctly rounded lane-wise division; long-latency. -/
  | vdiv (f : VXF)
  /-- VSQRT (R212): Correctly rounded lane-wise square root. -/
  | vsqrt (f : VXF)
  /-- VRCP (R212): Correctly rounded lane-wise reciprocal. -/
  | vrcp (f : VXF)
  /-- VRSQRT (R212): Correctly rounded lane-wise reciprocal square root. -/
  | vrsqrt (f : VXF)
  /-- VEXP2 (R212): Correctly rounded lane-wise 2^x. -/
  | vexp2 (f : VXF)
  /-- VLOG2 (R212): Correctly rounded lane-wise log2. -/
  | vlog2 (f : VXF)
  /-- VSINPI (R212): Correctly rounded lane-wise sin(πx). -/
  | vsinpi (f : VXF)
  /-- VCOSPI (R212): Correctly rounded lane-wise cos(πx). -/
  | vcospi (f : VXF)
  /-- VTANH (R212): Correctly rounded lane-wise tanh. -/
  | vtanh (f : VXF)
  /-- VCVT (R213): Converts lanes between element types, widening or narrowing a segment. -/
  | vcvt (f : VXF)
  /-- VQUANT (R214): Quantises blocks into a scaled format and writes their scale words. -/
  | vquant (f : VXF)
  /-- VDEQ (R215): Dequantises scaled elements to a floating type. -/
  | vdeq (f : VXF)
  /-- VPACK (R216): Packs containers into a packed bit stream. -/
  | vpack (f : VXF)
  /-- VUNPK (R216): Unpacks stream elements into containers. -/
  | vunpk (f : VXF)
  /-- VSLIDE (R217): Slides lanes across two source vectors. -/
  | vslide (f : VXF)
  /-- VEXTR (R217): Pushes one lane into an execute-to-access scalar queue. -/
  | vextr (f : VXF)
  /-- VINS (R217): Inserts a scalar into one lane. -/
  | vins (f : VInsF)
  /-- VIOTA (R218): Writes prefix counts of active lanes. -/
  | viota (f : VXF)
  /-- VSCAN (R154): Serial prefix sum over lanes. -/
  | vscan (f : VXF)
  /-- VCLASS (R218): Writes each lane's floating class number. -/
  | vclass (f : VXF)
  /-- MLEASE (R225): Requests or renews the array lease with a step budget. -/
  | mlease (f : MLeaseF)
  /-- MREL (R226): Releases the array lease once its operations are terminal. -/
  | mrel (f : MRelF)
  /-- MMA (R236): Issues a matrix multiply-accumulate operation on the array. -/
  | mma (f : MmaF)
  /-- MMAQ (R236): Issues a quantised integer matrix multiply-accumulate operation. -/
  | mmaq (f : MmaF)
  /-- MMV (R234): Issues a matrix-vector product on the in-stack multipliers. -/
  | mmv (f : MmaF)
  /-- MZERO (R237): Issues an operation writing +0 into a run of accumulator tiles. -/
  | mzero (f : MZeroF)
  /-- MDRAIN (R239): Issues an operation rounding accumulator tiles out to memory. -/
  | mdrain (f : MTileF)
  /-- MLDACC (R239): Issues an operation loading a stored matrix into accumulator tiles. -/
  | mldacc (f : MTileF)
  /-- CPY (R338): Issues a layout-driven copy operation. -/
  | cpy (f : CpyF)
  /-- CPYG (R339): Issues an index-gathered copy into the pool. -/
  | cpyg (f : CpyIF)
  /-- CPYS (R339): Issues an index-scattered copy from the pool. -/
  | cpys (f : CpyIF)
  /-- CPYR (R340): Issues a copy that combines source into destination by add, max or min. -/
  | cpyr (f : CpyRF)
  /-- CFILL (R341): Issues a fill of a destination layout with a repeated 8-byte pattern. -/
  | cfill (f : CFillF)
  /-- CHBIND (R342): Issues the binding of a watermark channel to a scratchpad range. -/
  | chbind (f : ChBindF)
  /-- CHRD (R344): Issues a read of a channel's watermark record into the scratchpad. -/
  | chrd (f : ChRdF)
  /-- CHUNB (R344): Issues the unbinding of a channel once its bound copies are terminal. -/
  | chunb (f : ChUnbF)
  /-- PKSET (R345): Issues loading of packing-pattern entries from the PKBASE image. -/
  | pkset (f : PkSetF)
  /-- XST (R348): Issues a remote store, optionally flagged or multicast. -/
  | xst (f : XstF)
  /-- XLD (R348): Issues a remote load into the pool. -/
  | xld (f : XldF)
  /-- XAMO (R349): Issues a remote atomic operation at pod scope. -/
  | xamo (f : XAmoF)
  /-- CAR (R352): Issues an all-reduce collective. -/
  | car (f : CollF)
  /-- CAG (R352): Issues an all-gather collective. -/
  | cag (f : CollF)
  /-- CRS (R352): Issues a reduce-scatter collective. -/
  | crs (f : CollF)
  /-- CA2A (R352): Issues an all-to-all collective. -/
  | ca2a (f : CollF)
  /-- CBC (R352): Issues a broadcast collective. -/
  | cbc (f : CollF)
  /-- CBAR (R355): Issues a communicator barrier. -/
  | cbar (f : CBarF)
  /-- NSEND (R357): Issues an Ethernet message send. -/
  | nsend (f : NSendF)
  /-- NRECV (R357): Posts an Ethernet message receive. -/
  | nrecv (f : NRecvF)
  /-- NWRITE (R358): Issues a write into a peer's registered region. -/
  | nwrite (f : NRwF)
  /-- NREAD (R358): Issues a read from a peer's registered region into the pool. -/
  | nread (f : NRwF)
  /-- OPWAIT (R403): Waits until a token's entry is terminal or stale and writes its status. -/
  | opwait (f : OpWaitF)
  /-- OPTEST (R403): Writes a token's status word at once. -/
  | optest (f : OpDF)
  /-- OPCANCEL (R404): Cancels a token's operation and returns its prior status. -/
  | opcancel (f : OpDF)
  /-- OPDETACH (R405): Detaches an owned operation and returns its token value. -/
  | opdetach (f : OpDF)
  /-- OPADOPT (R406): Attaches a detached or orphaned entry to the caller. -/
  | opadopt (f : OpAdoptF)
  /-- OPPRI (R407): Sets an entry's priority. -/
  | oppri (f : OpPriF)
  /-- OPFAULT (R409): Copies an entry's fault record and progress into three registers. -/
  | opfault (f : OpDF)
  /-- OPREL (R408): Releases a token entry, freeing it if terminal. -/
  | oprel (f : OpKF)
  /-- KDONE (R411): Ends the calling continuation after draining its effects. -/
  | kdone (f : R0)
  /-- KYIELD (R412): Suspends the continuation as ready, optionally freeing it. -/
  | kyield (f : KYieldF)
  /-- KSPAWN (R413): Creates a new continuation of the caller's node. -/
  | kspawn (f : KSpawnF)
  /-- KRANGE (R414): Adds a range task to the caller's node. -/
  | krange (f : KRangeF)
  /-- KNEXT (R415): Claims the next work identifier or group. -/
  | knext (f : D1)
  /-- WIDF (R416): Reads a field of the work identifier. -/
  | widf (f : WidfF)
  /-- DEPDEC (R417): Decrements dependence counters of nodes of the bundle after a release. -/
  | depdec (f : DepDecF)
  /-- NEXTOK (R418): Permits early start of the queue's next launch. -/
  | nextok (f : R0)
  /-- PREVWAIT (R418): Waits until the predecessor bundle retires, then acquires at device scope. -/
  | prevwait (f : R0)
  /-- BAR (R419): Synchronises the members of a work-identifier group. -/
  | bar (f : R0)
  /-- HLD (R431): Loads a handle, checked by the SCU, or a layout record into a register. -/
  | hld (f : HLdF)
  /-- HST (R431): Stores a handle with right P, or a layout record. -/
  | hst (f : HLdF)
  /-- HNARROW (R432): Derives and reseals a narrower handle. -/
  | hnarrow (f : HNarrowF)
  /-- HINFO (R433): Reads one field of a handle register. -/
  | hinfo (f : HInfoF)
  /-- HCHK (R433): Reports whether a handle would pass its checks now. -/
  | hchk (f : HDhaF)
  /-- HDROP (R433): Writes the zero handle into a register. -/
  | hdrop (f : HDropF)
  /-- HREQ (R433): Asks the handle authority to mint a handle and waits for its answer. -/
  | hreq (f : HDhaF)
  /-- CSRR (R464): Reads a CSR. -/
  | csrr (f : CsrRF)
  /-- CSRW (R464): Writes a CSR under its write rule. -/
  | csrw (f : CsrWF)
  /-- CSRX (R464): Swaps, sets or clears CSR bits and returns the old value. -/
  | csrx (f : CsrXF)
  /-- PMCRD (R465): Reads a performance counter subject to the allow-list. -/
  | pmcrd (f : PmcF)
  /-- TIMERD (R465): Reads the pod tick plus the function's offset. -/
  | timerd (f : D1)
  /-- LONG_LATENCY_WRITEBACK (R159): A long-latency result is written, its register marked full or its queue pushed. -/
  | evLongLatencyWriteback (c : Nat) (i : Nat)
  /-- SHOAL_DRAIN (R260): A shoal-log entry re-translates after service and performs its access. -/
  | evShoalDrain (u : Nat) (i : Nat)
  /-- FAULT_SERVICE (R256): The memory processor maps or refuses a pending translation fault. -/
  | evFaultService (i : Nat) (ans : ServiceAns)
  /-- TRANSLATION_HOLD_TIMEOUT (R258): A held access exceeds the translation grace timer and faults with 0x110. -/
  | evTranslationHoldTimeout (i : Nat)
  /-- PAGE_REQUEST_GROUP_SEND (R257): A page request group is sent after 2 µs or 32 requests. -/
  | evPageRequestGroupSend
  /-- PRI_RESPONSE (R257): A host PRI response retries the translation or refuses the faults. -/
  | evPriResponse (prg : Nat) (code : Nat)
  /-- ATS_INVALIDATION (R262): An invalidation or PTE change drops entries in three stages and reports completion. -/
  | evAtsInvalidation (va : Nat) (ptes : PteWrites)
  /-- WAITA_WAKE (R318): A write to the watched line, the poll interval or the deadline re-evaluates a WAITA or FWAIT. -/
  | evWaitaWake (c : Nat)
  /-- DECOUPLING_DEADLOCK (R176): Both streams blocked for 4,096 cycles raises 0x00A. -/
  | evDecouplingDeadlock (c : Nat)
  /-- TRAP_ENTRY (R457): A raised cause stops issue, writes the trap frame and enters the handler. -/
  | evTrapEntry (c : Nat)
  /-- TOKEN_ISSUE_TIMEOUT (R398): Token issue blocked for 65,536 cycles raises 0x084. -/
  | evTokenIssueTimeout (c : Nat)
  /-- FINC_ARRIVAL (R322): A remote FINC arrives and is applied or refused by the target. -/
  | evFincArrival (i : Nat)
  /-- FINC_REFUSAL (R322): A FINC refusal reaches the issuer, which raises 0x108 at its next boundary. -/
  | evFincRefusal (i : Nat)
  /-- REMOTE_WRITE_APPLY (R286): A remote relaxed write is applied at its home in per-source sequence order. -/
  | evRemoteWriteApply (i : Nat)
  /-- RELEASE_PACKET_APPLY (R289): A release-class packet is applied once its causal vector is met. -/
  | evReleasePacketApply (i : Nat)
  /-- REMOTE_WRITE_ACK (R288): A home acknowledgement removes entries from the pending set. -/
  | evRemoteWriteAck (i : Nat)
  /-- MULTICAST_REWRITE (R301): Installs a new version of a multicast group entry at every Sound. -/
  | evMulticastRewrite (grp : Nat) (members : NatList)
  /-- FABRIC_PACKET_ARRIVAL (R447): A fabric packet arrives and is checked against the strait's job-key table. -/
  | evFabricPacketArrival (strait : Nat) (key : Nat) (cluster : Nat) (pa : Nat) (bytes : Bytes)
  /-- ESCAPE_MOVE (R394): A head flit blocked for the deadlock-recovery timer moves to the escape channel. -/
  | evEscapeMove (i : Nat)
  /-- LEASE_GRANT (R222): The head request is granted possession of the array with a new budget. -/
  | evLeaseGrant (cl : Nat)
  /-- IDLE_POSSESSION_TIMEOUT (R223): A possessor idle for 256 cycles while a request waits loses possession. -/
  | evIdlePossessionTimeout (cl : Nat)
  /-- LEASE_REQUEST_AGING (R222): A lease request waiting 65,536 cycles moves to the tail of class 3. -/
  | evLeaseRequestAging (cl : Nat)
  /-- LEASE_RESERVATION_LAPSE (R225): A reserved array unused for 10,000 cycles returns the request to its class tail. -/
  | evLeaseReservationLapse (cl : Nat)
  /-- MATRIX_OP_START (R235): The sequencer dequeues a matrix operation and runs its start checks. -/
  | evMatrixOpStart (cl : Nat)
  /-- MATRIX_BLOCK_STEP (R236): One block step updates every processing element by the block-sum rule. -/
  | evMatrixBlockStep (cl : Nat)
  /-- MMV_GROUP_STEP (R234): The home stack applies one step of a column group on the in-stack multipliers. -/
  | evMmvGroupStep (cl : Nat)
  /-- TILE_MOVE_STEP (R239): One MDRAIN, MLDACC or MZERO step moves or clears one tile. -/
  | evTileMoveStep (cl : Nat)
  /-- COPY_START (R331): An engine dequeues a copy and runs its start checks. -/
  | evCopyStart (cl : Nat) (eng : Nat)
  /-- COPY_STEP (R332): One inner block of a copy is read and written. -/
  | evCopyStep (cl : Nat) (eng : Nat)
  /-- PKSET_STEP (R345): One packing-pattern entry is loaded and validated. -/
  | evPksetStep (cl : Nat)
  /-- REMOTE_TRANSFER_STEP (R348): One step of XST, XLD or XAMO is carried to its target. -/
  | evRemoteTransferStep (cl : Nat) (eng : Nat) (ok : Bool)
  /-- COLLECTIVE_STEP (R353): A collective moves and reduces one 64 KiB step of the destination stream. -/
  | evCollectiveStep (cl : Nat) (peers : PeerData)
  /-- CBAR_COMPLETE (R355): A CBAR becomes DONE once every rank's matching CBAR has forked. -/
  | evCbarComplete (cl : Nat) (ok : Bool)
  /-- MESSAGE_ARRIVAL (R357): An arriving message is matched to a posted NRECV and placed. -/
  | evMessageArrival (cl : Nat) (ep : Nat) (peer : Nat) (tag : BitVec 64) (bytes : Bytes)
  /-- REMOTE_REGION_ACCESS (R358): An incoming NWRITE or NREAD is checked and applied or refused. -/
  | evRemoteRegionAccess (ep : Nat) (region : Nat) (off : Nat) (wr : Bool) (bytes : Bytes) (len : Nat)
  /-- ETHERNET_RETRY_EXHAUSTED (R358): Exhausted retries end an Ethernet operation with 0x382. -/
  | evEthernetRetryExhausted (cl : Nat) (eng : Nat)
  /-- ENGINE_HEAD_AGING (R386): An engine queue head waiting 2,048 cycles is served next. -/
  | evEngineHeadAging (cl : Nat) (eng : Nat)
  /-- ISSUE_PROMOTION (R385): A context ready for 1,024 cycles without issuing is promoted. -/
  | evIssuePromotion (c : Nat) (ex : Bool)
  /-- READY_ENTRY_AGING (R382): A ready-pool entry waiting 65,536 cycles moves to priority 3. -/
  | evReadyEntryAging (i : Nat)
  /-- WORK_REQUEST (R382): A core with a free context takes work from its sources in order. -/
  | evWorkRequest (core : Nat)
  /-- RANGE_TASK_START (R415): A range task starts a continuation or group when contexts are free. -/
  | evRangeTaskStart (i : Nat) (core : Nat)
  /-- CONTINUATION_RESUME (R384): A ready continuation is loaded onto a context as at node start. -/
  | evContinuationResume (c : Nat) (cid : Nat)
  /-- LAUNCHR (R368): A 64-byte store announcing a new write index with an optional inline packet. -/
  | evLaunchr (q : Nat) (bytes : Bytes) (whole : Bool)
  /-- ENABLE (R366): QCTL command making a DISABLED queue ACTIVE. -/
  | evEnable (q : Nat)
  /-- RESET (R366): QCTL command stopping parsing and resetting the queue once bundles retire. -/
  | evReset (q : Nat)
  /-- DESTROY (R392): QCTL command moving the queue to DRAINING. -/
  | evDestroy (q : Nat)
  /-- DESTROY_WITH_DEADLINE (R392): QCTL command draining the queue with a kill deadline. -/
  | evDestroyWithDeadline (q : Nat)
  /-- DESTROY_DEADLINE_EXPIRY (R392): At the deadline tick every continuation of the queue is killed. -/
  | evDestroyDeadlineExpiry (q : Nat)
  /-- PAD (R372): Packet moving parsing to ring offset 0. -/
  | evPad (q : Nat)
  /-- LAUNCH (R372): Packet launching a bundle. -/
  | evLaunch (q : Nat)
  /-- FENCE_PACKET (R372): Packet holding parsing until memory counters meet conditions. -/
  | evFencePacket (q : Nat)
  /-- FENCE_COUNTERS_MET (R295): The front end finds every counter's condition true and resumes parsing. -/
  | evFenceCountersMet (q : Nat)
  /-- SIGNAL (R372): Packet requesting a store, add or interrupt after earlier bundles retire. -/
  | evSignal (q : Nat)
  /-- SIGNAL_PERFORM (R372): A SIGNAL is performed as a system-scope release once earlier bundles retire. -/
  | evSignalPerform (q : Nat)
  /-- GANG (R389): Packet holding the next launch until a pod tick. -/
  | evGang (q : Nat)
  /-- GANG_TICK_REACHED (R389): The pod tick reaches the GANG tick and the held launch proceeds. -/
  | evGangTickReached (q : Nat)
  /-- INDIRECT (R372): Packet launching a bundle whose node 0 range is read from memory. -/
  | evIndirect (q : Nat)
  /-- INDIRECT_DISPATCH (R388): An INDIRECT is dispatched after its predecessor retires or its counter is met. -/
  | evIndirectDispatch (q : Nat)
  /-- TIMESTAMP (R372): Packet requesting the pod tick be written after earlier bundles retire. -/
  | evTimestamp (q : Nat)
  /-- TIMESTAMP_WRITE (R372): The pod tick is written once earlier bundles retire. -/
  | evTimestampWrite (q : Nat)
  /-- NOP_PACKET (R372): Packet with no effect. -/
  | evNopPacket (q : Nat)
  /-- FRONT_END_ACCESS_FAULT (R498): A front-end memory access faults, holds parsing and may put the queue in ERROR. -/
  | evFrontEndAccessFault (q : Nat) (cause : BitVec 10)
  /-- BUNDLE_RESIDENT (R374): A bundle that fits is made resident and its ready nodes dispatched. -/
  | evBundleResident (q : Nat) (places : NatPairs)
  /-- EARLY_START (R387): After NEXTOK the next LAUNCH becomes resident before its predecessor retires. -/
  | evEarlyStart (q : Nat) (places : NatPairs)
  /-- X_NODE_READY (R377): Partner readiness across modules makes an X node ready and writes its communicator. -/
  | evXNodeReady (b : Nat) (n : Nat) (partners : NatPairs)
  /-- NODE_RETIRE (R379): A node retires when its range is exhausted and all continuations and operations end. -/
  | evNodeRetire (b : Nat) (n : Nat)
  /-- BUNDLE_RETIRE (R379): A bundle retires, its completion record is written and waiting packets proceed. -/
  | evBundleRetire (b : Nat)
  /-- SKERRY_TAKE_EVENT (R390): An idle skerry takes the oldest event with a free ordering lock and runs its handler. -/
  | evSkerryTakeEvent (sk : Nat)
  /-- HANDLER_WATCHDOG (R390): A skerry handler running over 20 µs is stopped and requeued or errors its queue. -/
  | evHandlerWatchdog (sk : Nat)
  /-- EVENT_RECORD_WRITE (R486): An event record is written to the event ring when room allows, then vector 0 is sent. -/
  | evEventRecordWrite
  /-- RESSEQ (R486): A write of RESSEQ commits RESVAL as the answer to a host-assisted request. -/
  | evResseq (v : BitVec 64)
  /-- EVRRIDX (R486): A write of the consumed index frees room in the event ring unless it overruns. -/
  | evEvrridx (v : BitVec 64)
  /-- REGISTER_WRITE (R486): A write to a register without a row of its own, under that register's write rule. -/
  | evRegisterWrite (fn : Nat) (bar : Nat) (off : Nat) (v : BitVec 64)
  /-- ALLOC (R426): Authority command taking a free allocation slot. -/
  | evAlloc (fn : Nat) (cmd : Bytes)
  /-- MINT (R426): Authority command minting a handle into tenant memory. -/
  | evMint (fn : Nat) (cmd : Bytes)
  /-- REVOKE (R436): Authority command starting the revocation of a slot. -/
  | evRevoke (fn : Nat) (cmd : Bytes)
  /-- FREE (R426): Authority command revoking a slot and then freeing it and its memory. -/
  | evFree (fn : Nat) (cmd : Bytes)
  /-- ROTATE (R440): Authority command starting live rotation of a key domain. -/
  | evRotate (fn : Nat) (cmd : Bytes)
  /-- EPSET (R435): Authority command writing one endpoint peer or region entry. -/
  | evEpset (fn : Nat) (cmd : Bytes)
  /-- REVOCATION_TABLES_DONE (R436): Every die acknowledges the new generation and the sweep begins. -/
  | evRevocationTablesDone (fn : Nat)
  /-- REVOCATION_COMPLETE (R436): The revocation completes when no swept entry remains non-terminal. -/
  | evRevocationComplete (fn : Nat)
  /-- ROTATION_WALKER_STEP (R440): A walker re-encrypts one line under the next key and advances its mark. -/
  | evRotationWalkerStep (kd : Nat) (stack : Nat)
  /-- CONTEXT_SWITCH_SCRUB (R445): A cluster is scrubbed before incoming work of another tenant or partition. -/
  | evContextSwitchScrub (cl : Nat)
  /-- PARTITION_TABLE_WRITE (R446): A partition-table write is applied or refused for overlap or share overflow. -/
  | evPartitionTableWrite (part : Nat) (bytes : Bytes)
  /-- JOB_KEY_REGISTER (R447): The PF registers a job key into the partition's strait membership tables. -/
  | evJobKeyRegister (part : Nat) (key : Nat)
  /-- TDISP_LOCK (R448): LOCK moves a VF to CONFIG_LOCKED. -/
  | evTdispLock (vf : Nat)
  /-- TDISP_START (R448): START moves a VF to RUN. -/
  | evTdispStart (vf : Nat)
  /-- TDISP_STOP (R448): STOP resets the VF and moves it to CONFIG_UNLOCKED. -/
  | evTdispStop (vf : Nat)
  /-- BANDWIDTH_REFILL (R449): Each 1,024-cycle interval refills partition buckets and divides the spill pool. -/
  | evBandwidthRefill (die : Nat)
  /-- POWER_INTERVAL (R494): Each 1 µs interval the arbiter shares the budget and adjusts throttle levels. -/
  | evPowerInterval (demands : NatPairs)
  /-- POWER_FLOOR_WRITE (R494): A partition floor write is accepted or refused by the sum bound. -/
  | evPowerFloorWrite (part : Nat) (v : BitVec 64)
  /-- OVER_CURRENT_WARNING (R495): A regulator warning raises the die's arrays two throttle levels within 100 ns. -/
  | evOverCurrentWarning (die : Nat)
  /-- THERMAL_THROTTLE (R496): A junction at 100 °C is treated as under over-current warning. -/
  | evThermalThrottle (die : Nat)
  /-- THERMAL_STOP (R496): A junction at 110 °C stops issue and engines and posts an event. -/
  | evThermalStop (die : Nat)
  /-- THERMAL_POWER_OFF (R496): At 115 °C the module powers off. -/
  | evThermalPowerOff
  /-- PREEMPT (R466): Planner command starting the pre-emption ladder on a cluster set. -/
  | evPreempt (part : Nat) (cmd : Bytes)
  /-- EVICT (R468): Planner command posting an eviction of a partition with a deadline. -/
  | evEvict (part : Nat) (cmd : Bytes)
  /-- RESTORE (R473): Planner command restoring a checkpoint image onto scrubbed clusters. -/
  | evRestore (part : Nat) (cmd : Bytes)
  /-- GRACE_TIMER_EXPIRY (R466): Every context takes a pre-emption trap and its frame goes to the image. -/
  | evGraceTimerExpiry (part : Nat)
  /-- KILL_TIMER_EXPIRY (R466): Contexts not yet halted are reset, 0x0B1 logged and operations cancelled. -/
  | evKillTimerExpiry (part : Nat)
  /-- CHECKPOINT_WRITE (R472): The checkpoint image is written, invalidated if it outgrows its buffer. -/
  | evCheckpointWrite (part : Nat) (q : Nat)
  /-- PLANNER_PASS (R470): A decision pass assigns run, checkpoint or discard to each queue. -/
  | evPlannerPass (part : Nat)
  /-- EVICTION_KILL_TIME (R471): At D − K every non-vacant queue of the partition is killed. -/
  | evEvictionKillTime (part : Nat)
  /-- FLR (R474): A function-level reset of a VF runs its six steps. -/
  | evFlr (vf : Nat)
  /-- FLR_DRAIN_BOUND (R474): Step 3 ends within 500 µs, abandoning remaining tagged requests. -/
  | evFlrDrainBound (vf : Nat)
  /-- DEBUG_HALT (R475): The halt bit stops a control core from issuing. -/
  | evDebugHalt (core : Nat) (on : Bool)
  /-- DEBUG_STEP (R475): The step bit retires one access-side instruction and halts again. -/
  | evDebugStep (core : Nat)
  /-- BREAKPOINT_ARM (R475): The breakpoint-arm bit makes BRK enter debug halt. -/
  | evBreakpointArm (core : Nat) (on : Bool)
  /-- ENGINE_FREEZE (R476): The freeze bit stops a cluster's engines at step boundaries and then acknowledges. -/
  | evEngineFreeze (cl : Nat) (on : Bool)
  /-- CONTEXT_STATE_ERROR (R477): An uncorrectable context-state error raises 0x113 and kills the context. -/
  | evContextStateError (c : Nat)
  /-- L1_PARITY_DROP (R477): A parity error drops an L1 line, which is fetched again. -/
  | evL1ParityDrop (core : Nat) (line : Nat) (instr : Bool)
  /-- POWER_ON (R488): Power-on runs the ROM state: identity key derivation and self-test. -/
  | evPowerOn
  /-- PF_RESET (R488): A PF reset restarts boot at ROM. -/
  | evPfReset
  /-- BOOTLEN (R488): A write of BOOTLEN starts the check of the current boot state. -/
  | evBootlen (v : BitVec 64)
  /-- IMAGE_CHECK (R488): The ROM finishes verifying and measuring the firmware image. -/
  | evImageCheck (ok : Bool) (selfTest : Bool)
  /-- RECORD_CHECK (R489): The ROM finishes verifying and measuring the configuration record. -/
  | evRecordCheck (ok : Bool)
  /-- STRAIT_TRAINING (R490): A strait completes lane training and begins attestation. -/
  | evStraitTraining (strait : Nat)
  /-- STRAIT_ATTEST (R490): SPDM attestation completes and the strait opens or closes. -/
  | evStraitAttest (strait : Nat) (peer : PeerReport)
  /-- KEY_UPDATE (R490): A strait rekeys before 2^31 groups under one key. -/
  | evKeyUpdate (strait : Nat)
  /-- STRAIT_GROUP_FAILURE (R437): A group failing GCM is resent; four in a row close the strait. -/
  | evStraitGroupFailure (strait : Nat)
  /-- STRAIT_CLOSE (R490): A strait leaving OPEN hands unacknowledged packets back to its Sound. -/
  | evStraitClose (strait : Nat)
  /-- POD_TICK_SYNC (R491): An OPEN strait carries the leader's tick to keep the module within ±20 ns. -/
  | evPodTickSync (t : Nat)
  /-- HOST_PORT_REQUEST (R291): A host memory request that arrives at the host port for device memory is applied at its home in per-function arrival order, and a check value is made for it where data enters. -/
  | evHostPortRequest (fn : Nat) (pa : Nat) (req : HostReq) (bytes : Bytes) (len : Nat)
  /-- WRITE_THROUGH_REACHES_HOME (R438): A retired plain store's write-through is performed at its home, where a failed old check value makes the context raise 0x211 at its next instruction boundary. -/
  | evWriteThroughReachesHome (c : Nat) (i : Nat)
  /-- MESSAGE_ACKNOWLEDGED (R357): An acknowledgement or response from the peer reaches the initiating Ethernet port and makes an NSEND, NWRITE or NREAD DONE, or ends it FAULTED with 0x384 on a refusal. -/
  | evMessageAcknowledged (cl : Nat) (eng : Nat) (ok : Bool) (bytes : Bytes)
  deriving DecidableEq, Repr

end Sys2Proof
end

