-- ==== Sys2Proof/Machine/State.lean ====
section
/-!
DEFINITION. The state of one Izloth module as plain data: every context, core, cluster, die, queue, table and register the
manual names, and the few fields of the model's own (marked MODEL) that say which agent moves next. A unit or table entry that
is not listed holds its reset value. Helpers over this state stand in the other files of this folder.
-/

namespace Sys2Proof.Machine

/-- Memory by byte address in canonical form: addresses strictly rising, no entry equal to what an unlisted address reads as. -/
abbrev Memory := List Host.Cell

/-- A sparse table: number of the unit and its contents; a unit that is not listed holds its reset value. -/
abbrev Tab (α : Type) := List (Nat × α)

/-- Where a byte lives (R267): a pool byte of a cluster, or a byte at a physical address. -/
inductive Loc where
  | pool (cluster off : Nat)
  | mem (pa : Nat)
  deriving DecidableEq, Repr

/-- A handle register: 256 bits and its status (R428). -/
structure HReg where
  bits   : BitVec 256 := 0
  status : Cause := 0x200
  deriving DecidableEq, Repr

/-- One level of the hardware loop stack (R177). -/
structure LoopLevel where
  start : Word
  stop  : Word
  count : Word
  deriving DecidableEq, Repr

/-- A captured operand: a scalar value or a popped vector entry (R461). -/
inductive Src where
  | s (w : Word)
  | v (x : Vec)
  deriving DecidableEq, Repr

/-- An instruction in flight or in the replay queue (R460, R461): its address and words, its side, whether its ring waits were
consumed, the captured sources by field order, and the captured progress of LDM and STM. `again` marks an entry that a frame gave back
(R462); `raw` keeps descriptor, mask, entry and operand slots of one whose words do not decode, as the frame held them. -/
structure Entry where
  pc     : BitVec 48
  words  : List IWord
  exec   : Bool
  waited : Bool
  caps   : List (Option Src)
  cont   : Bool
  prog   : Nat
  again  : Bool := false
  raw    : Option (Nat × Nat × List Byte × List (List Byte)) := none
  deriving DecidableEq, Repr

/-- What the execute side has still to meet in program order: an M instruction that the access side has passed, or the
outcome of a decision (R83, R84). -/
inductive EItem where
  | instr (e : Entry)
  | outcome (target : Word)
  deriving DecidableEq, Repr

/-- Where a long-latency result lands. -/
inductive WbDst where
  | g (r : Nat) (w : Word)
  | qs (n : Nat) (w : Word)
  | v (r : Nat) (x : Vec)
  | qv (n : Nat) (x : Vec)
  | take (vd qn : Nat) (p : Pred) (w : Nat) (old : Vec) (e : Entry)
  deriving DecidableEq, Repr

/-- A long-latency result that has not been written yet (R159): its destinations, the FSTAT flags it ORs in, the ring
counters it signals, whether it belongs to the execute side, and whether it was issued in handler mode. `unit` is 1 for a result of
the core's integer divider, 2 for one of its divider of FDIV and FSQRT (R158), 3 for an element of an LDM (R187), else 0; `no` is the
cycle of its issue. -/
structure Writeback where
  dsts  : List WbDst
  flags : BitVec 6
  sigs  : List Nat
  exec  : Bool
  hm    : Bool
  unit  : Nat
  no    : Nat
  deriving DecidableEq, Repr

/-- A retired plain store whose write-through has not reached its home (R263, R280). `whole` marks a part of a store that covers the
whole line around it (R270, R438). -/
structure PStore where
  loc   : Loc
  bytes : List Byte
  va    : Word
  whole : Bool := false
  deriving DecidableEq, Repr

/-- An asynchronous cause waiting for the context's next instruction boundary (R454 A); `hm` when it arose in handler mode. -/
structure Async where
  cause  : Cause
  detail : BitVec 32
  faddr  : Word
  hm     : Bool
  deriving DecidableEq, Repr

/-- A raised cause on its way to trap entry (R457): CAUSE and its detail, FADDR, FPC, whether it is asynchronous, and
whether the access-side instruction in progress raised it and becomes a replay entry. -/
structure Raised where
  cause  : Cause
  detail : BitVec 32
  faddr  : Word
  fpc    : BitVec 48
  async  : Bool
  keep   : Bool
  deriving DecidableEq, Repr

/-- What a suspended wait watches (R318, R322): the line of its address at its home, or an entry of the flag file, each with the number
of writes to it that the last read had seen (`State.marks`). -/
inductive Watch where
  | none
  | line (l : Loc) (seen : Nat)
  | entry (e : Nat) (seen : Nat)
  deriving DecidableEq, Repr

/-- A WAITA or FWAIT in progress (R317): the time of its issue, the first value read, whether the first read is still to come, the
deadline or 0, and what it watches while it is suspended. -/
structure WaitSt where
  t0    : Nat
  m0    : Word
  first : Bool
  due   : Nat := 0
  watch : Watch := .none
  deriving DecidableEq, Repr

/-- A continuation record (R383), with the identity of its bundle, node, range task and group. `cid` numbers continuations and
`grp` groups started together, 0 for a group of one (MODEL); `wtok` is the token that a suspended OPWAIT waits on (R403); `fl` the flags of its operations that ended while it was suspended (R143). -/
structure Cont where
  cid      : Nat := 0
  bundle   : Nat := 0
  node     : Nat := 0
  pc       : BitVec 48 := 0
  wid      : Word := 0
  rend     : Word := 0
  range    : Bool := false
  g1       : Word := 0
  g2       : Word := 0
  g3       : Word := 0
  k0       : Tok := 0
  k1       : Tok := 0
  k2       : Tok := 0
  k3       : Tok := 0
  poolbase : BitVec 32 := 0
  cluster  : Nat := 0
  bound    : Bool := false
  pri      : BitVec 2 := 0
  state    : BitVec 3 := 0
  pending  : Bool := false
  spawned  : Bool := false
  piece    : Nat := 0
  grp      : Nat := 0
  bars     : Nat := 0
  barsOut  : Nat := 0
  knexts   : Nat := 0
  wtok     : Option Tok := none
  cur      : Option Entry := none
  ws       : Option WaitSt := none
  since    : Nat := 0
  fl       : BitVec 6 := 0
  deriving DecidableEq, Repr

/-- A pending remote write that is not known to be applied (R288): source die, target die, count. -/
structure Pend where
  src   : Nat
  dst   : Nat
  count : Nat
  deriving DecidableEq, Repr

/-- One hardware context of a control core (R12): the registers, queues, counters and CSRs of the continuation it runs. `wsOld` is the
wait that the trap being handled interrupted (R317); `lateSigs` and `lateFl` the signals and flags of operations that end in handler mode,
kept for after it; `since` the start of the cycles that the deadlock trap counts (R176); `readyA` and
`readyE` say since when each side has been ready without issuing, and `promA` and `promE` that it is promoted (R385); `tokA` and
`tokE` say since when the issue of an operation of each side has been blocked by a full token table (R398). `places` are the places of
the accesses through windows among the log entries that a trap has moved into the frame (R244, R245), `got` the parts of a wide load
that have been read (R270), and `early` (MODEL) loads that are performed before earlier ones (R271). -/
structure Context where
  run     : Bool := false
  cont    : Cont := {}
  handler : Bool := false
  pc      : BitVec 48 := 0
  xfer    : Option Word := none
  g       : Vector Word 60 := Vector.replicate 60 0
  gEmpty  : BitVec 64 := 0
  v       : Vector Vec 28 := Vector.replicate 28 0
  vEmpty  : BitVec 32 := 0
  p       : Vector Pred 8 := Vector.replicate 8 0
  h       : Vector HReg 32 := Vector.replicate 32 {}
  y       : Vector (BitVec 256) 8 := Vector.replicate 8 0
  k       : Vector Tok 16 := Vector.replicate 16 0
  sAE     : Vector (List Word) 4 := Vector.replicate 4 []
  sEA     : Vector (List Word) 4 := Vector.replicate 4 []
  vAE     : Vector (List Vec) 4 := Vector.replicate 4 []
  vEA     : Vector (List Vec) 4 := Vector.replicate 4 []
  ring    : Vector (BitVec 8) 8 := Vector.replicate 8 0
  ringOv  : BitVec 8 := 0
  loops   : List LoopLevel := []
  vtype   : Word := 1
  fstat   : Word := 0
  seed    : Word := 1
  lanes   : Tab (BitVec 32) := []
  poolpw  : Word := 0
  localw  : Word := 0x1000000
  clustw  : Word := 0x2000000
  sharedw : Word := 0x40000000
  widhdr  : Word := 0
  nodeid  : Word := 0
  tenant  : Word := 0
  cause   : Word := 0
  epc     : Word := 0
  tfp     : Word := 0x1000000
  tvec    : Word := 0
  pmstat  : Bool := false
  pkbase  : Word := 0
  pats    : Vector (Option (BitVec 1024)) 12 := Vector.replicate 12 none
  cur     : Option Entry := none
  ws      : Option WaitSt := none
  stream  : List EItem := []
  replay  : List Entry := []
  wbs     : List Writeback := []
  stores  : List PStore := []
  asyncs  : List Async := []
  raised  : Option Raised := none
  lateSigs : List Nat := []
  lateFl  : BitVec 6 := 0
  fincs   : Nat := 0
  pend    : List Pend := []
  blockA  : Bool := false
  blockE  : Bool := false
  since   : Nat := 0
  wsOld   : Option WaitSt := none
  readyA  : Option Nat := none
  readyE  : Option Nat := none
  promA   : Bool := false
  promE   : Bool := false
  tokA    : Option Nat := none
  tokE    : Option Nat := none
  places  : List (Word × Loc) := []
  got     : List Byte := []
  early   : List (Loc × List Byte) := []
  deriving DecidableEq, Repr

/-- A control core's store that waits in the shoal log (R259, R461). `red` is the AMO of a reduction with its size bit;
`loc` is the place of an access through a window, which is decoded at issue (R244, R245). -/
structure Shoal where
  ctx   : Nat
  cid   : Nat
  va    : Word
  bytes : List Byte
  red   : Option (BitVec 4 × Bool)
  v     : Word
  cmp   : Word
  scope : BitVec 2
  order : BitVec 2
  cause : Cause
  refused : Bool
  loc   : Option Loc := none
  deriving DecidableEq, Repr

/-- A copy engine's shoal-log entry (R472): bytes of one line, the combine of CPYR (op, rnd, ovf, dfmt), its
operation, and for a combine the byte of the destination row at which the line starts (MODEL). -/
structure CShoal where
  va    : Word
  bytes : List Byte
  comb  : Option (BitVec 2 × BitVec 2 × BitVec 2 × BitVec 4)
  slot  : Nat
  col   : Nat
  cause : Cause
  refused : Bool
  deriving DecidableEq, Repr

/-- A control core (R12): its two L1 caches by physical line, its shoal log, which context issued last on each side at each priority
(R385), and its debug bits (R475). -/
structure Core where
  l1    : Tab (BitVec 512) := []
  ic    : Tab (BitVec 512) := []
  shoal : List Shoal := []
  issued : Tab Nat := []
  halt  : Bool := false
  arm   : Bool := false
  one   : Bool := false
  deriving DecidableEq, Repr

/-- States of a token-table entry (R396). -/
inductive OpState where
  | queued | running | done | faulted | cancelled
  deriving DecidableEq, Repr

/-- A fault record (R396). -/
structure FaultRec where
  detail : BitVec 22 := 0
  cause  : Cause := 0
  step   : BitVec 32 := 0
  loc    : Word := 0
  deriving DecidableEq, Repr

/-- The operation that an entry stands for: its instruction and everything captured at issue (R83, R330, R482), the issuer's pending
set `pend` among it (R288). `seq` numbers operations in issue order (MODEL). -/
structure Op where
  instr  : Instr
  ring   : Ring
  member : Nat
  ctx    : Nat
  cid    : Nat
  core   : Nat
  gs     : List Word
  hs     : List HReg
  hregs  : List Nat := []
  ys     : List (BitVec 256)
  seed   : Word
  pkbase : Word
  since  : Nat
  seq    : Nat
  pend   : List Pend := []
  deriving DecidableEq, Repr

/-- A token-table entry (R396). `stop` is a stop requested at the next step boundary (R499); `flags` are those of the done steps and `stepFl` those of the step in
progress (R143); `lanes` the private lanes of a stochastic operation (R133); `held` that its node keeps it until the bundle retires (R482); `waited` says that its ring waits are done; `todo` is absent until the step in progress has read its
data, then what it has still to write: destination address, byte of the destination row, and bytes; `quit` that
a stop abandoned it (R499), `sent` A's rows as a group of MMV has received them (R234). For a posted receive `todo` holds the bytes of its message until its turn comes (R294, R357). -/
structure TokEntry where
  state    : OpState
  pri      : BitVec 2
  bundle   : Nat
  node     : Nat
  owner    : Option Nat
  released : Bool
  held     : Bool
  scope    : BitVec 2
  done     : Nat
  total    : Nat
  fr       : FaultRec
  op       : Op
  waited   : Bool
  started  : Bool
  stop     : Option Cause
  flags    : BitVec 6
  stepFl   : BitVec 6 := 0
  lanes    : Tab (BitVec 32)
  todo     : Option (List (Nat × Nat × List Byte))
  quit     : Bool
  sent     : List (List Byte) := []
  deriving DecidableEq, Repr

/-- A watermark channel (R342, R343): its range, the bytes done so far as intervals, its owner, its broken bit
and the widest scope of the steps that it covers (R295). -/
structure Chan where
  lo     : Nat
  len    : Nat
  spans  : List (Nat × Nat)
  owner  : Nat
  broken : Bool
  scope  : BitVec 2 := 0
  deriving DecidableEq, Repr

/-- A request for the array (R222). `tok` is the slot of its MLEASE; an implicit request has none. -/
structure LeaseReq where
  cid    : Nat
  pri    : BitVec 2
  budget : Nat
  tok    : Option Nat
  since  : Nat
  sus    : Bool := false
  deriving DecidableEq, Repr

/-- The lease of a cluster's array (R222–R225): `holders` are the continuations that hold it, each with its budget and class. -/
structure Lease where
  holders  : List (Nat × Nat × Nat) := []
  possess  : Option Nat := none
  used     : Nat := 0
  fifo     : List LeaseReq := []
  reserved : Option (LeaseReq × Nat) := none
  idle     : Nat := 0
  releasing : List (Nat × Option Nat) := []
  deriving DecidableEq, Repr

/-- A range task piece [cur, hi) on the cluster `place` (R381); `claims` the group claims of KNEXT (R415). -/
structure Piece where
  id     : Nat
  bundle : Nat
  node   : Nat
  cur    : Nat
  hi     : Nat
  pc     : BitVec 48
  place  : Nat
  claims : List (Nat × Nat)
  deriving DecidableEq, Repr

/-- A cluster (R12): pool, tiles, the 4 KiB granules and the tiles written since the last scrub (R469), flag file, token table, channels, array lease, engine queues, and the work it holds. `freeze` and `ack`
are those of R476; `hold` stops engines and contexts for a checkpoint (R466 step 2); `epoch` is the pool epoch (R437), `slotGen` the
generation of the pool slot; `owner` the tenant and partition whose state it holds until the next scrub (R444), and `switch` that a node
has been pre-empted off it since (R444); `notes` are writes to its pool that a freeze holds back, by offset (R476). -/
structure Cluster where
  pool    : Memory := []
  tiles   : Memory := []
  dirty   : List Nat := []
  used    : List Nat := []
  flags   : Tab (BitVec 32) := []
  toks    : Tab TokEntry := []
  gens    : Tab Nat := []
  fresh   : Nat := 0
  freed   : List Nat := []
  chans   : Tab Chan := []
  lease   : Lease := {}
  queues  : Tab (List Nat) := []
  active  : Tab Nat := []
  rr      : Tab Nat := []
  aged    : Tab Nat := []
  logL    : List CShoal := []
  logS    : List CShoal := []
  susp    : List Cont := []
  ready   : List Cont := []
  node    : Option (Nat × Nat) := none
  poolpw  : BitVec 32 := 0
  epoch   : Nat := 0
  slotGen : Nat := 1
  colls   : Tab Nat := []
  badPool : Tab Cause := []
  throttle : Nat := 0
  calm    : Nat := 0
  freeze  : Bool := false
  ack     : Bool := false
  hold    : Bool := false
  owner   : Option (Nat × Nat) := none
  switch  : Bool := false
  notes   : List (Nat × List Byte) := []
  deriving DecidableEq, Repr

/-- A node of a resident bundle: its record (R375), dependence counter and progress; `held` while a checkpoint image holds its work. -/
structure Node where
  kind   : BitVec 3
  group  : Nat
  pri    : BitVec 2
  succ   : BitVec 8
  poolpw : BitVec 32
  pc     : BitVec 48
  pcend  : BitVec 48
  lo     : Word
  hi     : Word
  widths : List Nat
  hcount : Nat
  htab   : Word
  list   : Word
  deps   : Nat
  ready  : Bool
  retired : Bool
  held    : Bool
  clusters : List Nat
  deriving DecidableEq, Repr

/-- A job: one resident bundle (R374), with the running contents of its completion record (R384). -/
structure Bundle where
  queue    : Nat
  addr     : Word
  recAddr  : Word
  key      : BitVec 16
  nodes    : List Node
  resident : Word
  nextok   : Bool
  pred     : Option Nat
  late     : Bool
  logged   : Bool
  cause    : Cause
  executed : Nat
  flags    : BitVec 6
  destroyed : Bool
  discarded : Bool
  counters : Tab Nat
  retired  : Bool
  seq      : Nat
  stalls   : Tab Nat := []
  deriving DecidableEq, Repr

/-- States of a hardware queue (R365). -/
inductive QState where
  | disabled | active | error | draining
  deriving DecidableEq, Repr

/-- The count of an INDIRECT: the addresses of the count and of its counter, and the counter's condition and value (R372, R388). -/
structure CountSpec where
  count : Word
  ctr   : Word
  cond  : Nat
  value : Nat
  deriving DecidableEq, Repr

/-- A LAUNCH or INDIRECT that has been parsed and is not resident yet (R372, R374, R387–R389): `idx` its index in the ring, `no` its
place in the order of parsing, `gang` the tick that holds it, `late` that its gang tick had passed, `clean` that it may start early,
`wait` the count that an INDIRECT has still to read, `count` the one it has read. -/
structure PLaunch where
  idx     : BitVec 32
  no      : Nat
  addr    : Word
  nodes   : Nat
  key     : BitVec 16
  recAddr : Word
  gang    : Option Word
  late    : Bool
  clean   : Bool
  wait    : Option CountSpec
  count   : Option Nat
  deriving DecidableEq, Repr

/-- A SIGNAL or TIMESTAMP that waits for the bundles parsed before it (R372): `op` is absent for a TIMESTAMP. -/
structure PAct where
  idx   : BitVec 32
  no    : Nat
  addr  : Word
  value : Word
  op    : Option Nat
  deriving DecidableEq, Repr

/-- A hardware queue (R364–R373): `stopped` while its work is pre-empted (R466); `hold` are the counters of a FENCE being waited on and its length, `inl` the inline copies by index. -/
structure Queue where
  qbase   : Word := 0
  qcfg    : Word := 0
  widx    : BitVec 32 := 0
  ridx    : BitVec 32 := 0
  state   : QState := .disabled
  cause   : Cause := 0
  late    : Bool := false
  deadline : Word := 0
  armed   : Bool := false
  bases   : Tab (List (BitVec 32)) := []
  inl     : Tab (List (BitVec 32)) := []
  gang    : Option Word := none
  gangLate : Bool := false
  clean   : Bool := false
  hold    : Option (List (Word × Nat × Nat) × Nat) := none
  launch  : Option PLaunch := none
  acts    : List PAct := []
  resetting : Bool := false
  stopped : Bool := false
  deriving DecidableEq, Repr

/-- An allocation slot of a tenant (R425, R427). -/
structure Slot where
  gen      : Nat := 1
  live     : Bool := false
  base     : Word := 0
  len      : Nat := 0
  rights   : Byte := 0
  kind     : Byte := 0
  revoking : Bool := false
  retired  : Bool := false
  deriving DecidableEq, Repr

/-- The authority mailbox of a function (R426): AUTHCMD as written, the command sampled from it, the response, and the revocation in progress (R436): the address
space and slot it revokes, the generation it revokes, whether it frees the slot, whether the sweep has begun. -/
structure Auth where
  mail      : List Byte := List.replicate 64 0
  cmd       : List Byte := List.replicate 64 0
  busy      : Bool := false
  status    : Byte := 0
  phase     : Nat := 0
  slotNo    : Nat := 0
  gen       : Nat := 0
  space     : Nat := 0
  revSlot   : Nat := 0
  oldGen    : Nat := 0
  freeing   : Bool := false
  swept     : Bool := false
  remaining : Nat := 0
  deriving DecidableEq, Repr

/-- A key domain (R439): `marks` the lines walked on each stack. -/
structure KeyDomain where
  state   : BitVec 2 := 0
  owner   : Nat := 0
  version : Nat := 0
  marks   : Tab Nat := []
  deriving DecidableEq, Repr

/-- A partition-table entry (R446). -/
structure Partition where
  podId    : Nat := 0
  state    : Nat := 0
  share    : Nat := 0
  clusters : BitVec 48 := 0
  straits  : BitVec 64 := 0
  vfs      : BitVec 64 := 0
  deriving DecidableEq, Repr

/-- TDISP states (R448). -/
inductive Tdisp where
  | unlocked | locked | run | error
  deriving DecidableEq, Repr

/-- What the physical function holds for one function (R425, R448, R450, R474, R478). -/
structure Fn where
  tdisp   : Tdisp := .unlocked
  tenant  : Nat := 0
  part    : Nat := 0
  rights  : BitVec 32 := 0
  hreq    : Bool := false
  allow   : BitVec 1024 := 0
  offset  : Word := 0
  reset   : Nat := 0
  killed  : Nat := 0
  cancelled : Nat := 0
  completed : Nat := 0
  abandoned : Nat := 0
  priDead : Bool := false
  deriving DecidableEq, Repr

/-- A pre-emption in progress (R466): its clusters, image buffer and the bytes used of it, the time of its request, the timers that apply
to it, and its step. -/
structure Preempt where
  mask  : BitVec 48
  base  : Nat
  len   : Nat
  used  : Nat
  since : Nat
  grace : Nat
  kill  : Nat
  stage : Nat
  deriving DecidableEq, Repr

/-- An eviction that has been accepted (R468): deadline, bandwidth, kill bound, image buffer and the bytes used of it, the time of posting
and the timers that apply. -/
structure Evict where
  deadline : Nat
  bw    : Nat
  bound : Nat
  base  : Nat
  len   : Nat
  used  : Nat
  since : Nat
  grace : Nat
  kill  : Nat
  deriving DecidableEq, Repr

/-- The planner's entry for a queue (R471); `remaining` is absent while it is unknown. `formed` keeps the figures of the pass that formed
the decision (R481), `asked` the tick at which the planner asked for a checkpoint (R466). -/
structure QPlan where
  dirty     : Nat := 0
  remaining : Option Nat := some 0
  cost      : Nat := 0
  decision  : Nat := 0
  state     : Nat := 0
  formed    : Option (Nat × Option Nat × Nat) := none
  asked     : Nat := 0
  deriving DecidableEq, Repr

/-- A context halted for a checkpoint: its number, what a frame does not hold of it, its frame (R466 step 2), and the places of the
accesses through windows in the frame's log (R244). -/
structure Saved where
  ctx   : Nat
  x     : Context
  frame : List Byte
  places : List (Word × Loc)
  deriving DecidableEq, Repr

/-- The planner window of a partition (R466–R471, R481): command block, PLCTL, PLRSP, the entries of the queues, and the contexts halted
for images that are not written yet. `due` is the tick of the next decision pass. -/
structure Planner where
  cmd     : List Byte := List.replicate 64 0
  grace   : Nat := 100000
  kill    : Nat := 1000000
  ckbw    : Nat := 200000
  status  : Byte := 0
  vacant  : Bool := false
  lastS   : Int := 0
  lastL   : Int := 0
  lastA   : Nat := 0
  passAt  : Nat := 0
  vtick   : Nat := 0
  due     : Nat := 0
  preempt : Option Preempt := none
  evict   : Option Evict := none
  plans   : Tab QPlan := []
  saved   : List Saved := []
  deriving DecidableEq, Repr

/-- A checkpoint image (R472, R482, R483): `plain` is the image as it is laid out, `bytes` its ciphertext with the tags as memory holds
it, and the rest is what the image stands for, kept here since only the device can decrypt it (MODEL). -/
structure Image where
  bytes    : List Byte
  plain    : List Byte
  queue    : Nat
  part     : Nat
  tenant   : Nat
  q        : Queue
  bundles  : Tab Bundle
  pieces   : List Piece
  ready    : List Cont
  clusters : List (Nat × Cluster)
  saved    : List Saved
  deriving DecidableEq, Repr

/-- An access held for fault service (R256–R258): who waits, for what, since when, and the grace timer that applies. `kind` is that of
R480, and above 3 a hold of another sort, `chan` the channel of a hold on a watermark (MODEL). -/
structure Fault1 where
  ctx     : Option Nat
  eng     : Option (Nat × Nat)
  va      : Word
  kind    : BitVec 8
  cause   : Cause
  since   : Nat
  refused : Option Cause
  hostBacked : Bool
  prg     : Option Nat
  seq     : Option Nat
  chan    : Option Nat
  grace   : Nat
  fn      : Nat
  space   : Nat
  deriving DecidableEq, Repr

/-- States of a strait (R490). -/
inductive StraitState where
  | down | training | attesting | opened | closed
  deriving DecidableEq, Repr

/-- A strait (R19, R437, R447, R490): `fails` are the group failures in a row, `groups` the groups sent under the current key. -/
structure Strait where
  state  : StraitState := .down
  keys   : List Nat := []
  drops  : Nat := 0
  fails  : Nat := 0
  epoch  : Nat := 0
  groups : Nat := 0
  deriving DecidableEq, Repr

/-- A packet on its way to its home (R286–R289, R322): a relaxed write, a release-class access, a FINC, or an acknowledgement. -/
inductive PkKind where
  | write (pa : Nat) (bytes : List Byte)
  | flag (cluster entry : Nat) (inc : BitVec 32)
  deriving DecidableEq, Repr

/-- A fabric packet in flight (R286–R289), the time it was sent and the deadlock-recovery timer it runs under (R394). -/
structure Packet where
  ctx     : Nat
  cid     : Nat
  src     : Nat
  dst     : Nat
  count   : Nat
  release : Bool
  vec     : List (Nat × Nat)
  kind    : PkKind
  bundle  : Nat
  applied : Bool
  refused : Bool
  escaped : Bool
  since   : Nat
  limit   : Nat
  deriving DecidableEq, Repr

/-- A version of a multicast group entry: its number, its member dies, and the operations whose packet has latched it and is still to be
delivered, by cluster and token slot; their number is the version's reference count (R301). -/
structure Version where
  no      : Nat
  members : List Nat
  refs    : List (Nat × Nat)
  deriving DecidableEq, Repr

/-- A multicast group entry (R301): its live versions, newest first; the number of the next one; the status, which tells the version
whose installation was reported last and the last version that drained, 0 for none; and the rewrites that wait for a version to drain. -/
structure Group where
  versions  : List Version := []
  next      : Nat := 1
  installed : Nat := 0
  drained   : Nat := 0
  waiting   : List (List Nat) := []
  deriving DecidableEq, Repr

/-- Ethernet endpoint (R435, R357): port, tenant, peer and region tables, posted receives and unmatched messages, and the packets that
failed authentication (R492). -/
structure Endpoint where
  port    : Nat := 0
  tenant  : Nat := 0
  peers   : Tab (BitVec 384) := []
  regions : Tab (BitVec 256 × Byte) := []
  posted  : List (Nat × Nat) := []
  waiting : List (Nat × Word × List Byte) := []
  lost    : Nat := 0
  deriving DecidableEq, Repr

/-- How a collective rounds: mode, overflow policy, SEED and bytes of a destination row (R133, R352). -/
structure RoundAs where
  rnd  : BitVec 2 := 0
  ovf  : BitVec 2 := 0
  seed : Word := 1
  row  : Nat := 0
  deriving DecidableEq, Repr

/-- The k-th collective or CBAR of a communicator as the ranks of this module have dequeued it (R350): what must agree, each rank's
operation (cluster, slot, issue number), the sources as each rank's start read them, the ranks that have finished, the cause that every
other participant ends with, and how all of them round (R352). -/
structure CollRec where
  sig      : List Nat := []
  ranks    : Tab (Nat × Nat × Nat) := []
  srcs     : Tab (List Byte) := []
  finished : List Nat := []
  failed   : Option Cause := none
  round    : Option RoundAs := none
  deriving DecidableEq, Repr

/-- A communicator (R350): its participants in rank order, as pod die and cluster of the die, and whether a path crosses Ethernet. -/
structure Comm where
  ranks : List (Nat × Nat) := []
  eth   : Bool := false
  deriving DecidableEq, Repr

/-- Boot states (R488). -/
inductive Boot where
  | off | rom | waitImg | check | config | ready | failed
  deriving DecidableEq, Repr

/-- An event of the hub (R390, R486): a request of FEMODE bit `bit` or a report (0xFFFF). `host` holds once a skerry has taken it in
host-assisted mode (R391). -/
structure HubEvent where
  bit    : Nat
  fn     : Nat
  lock   : Nat
  cause  : Cause
  source : Nat
  payload : List Byte
  tries  : Nat
  host   : Bool := false
  deriving DecidableEq, Repr

/-- The hub's front end, authority, event ring and boot registers (R390, R391, R451, R486–R491). `skerries` hold the events that they
have taken and since when, `posted` the requests that wait for the host by sequence number, `answers` what the host has answered and no
agent has resumed yet (FEMODE bit and key), `msix` the messages sent: vector and cause-table entry, 4,096 for the event ring, `prgs` the pages of the page requests that
the host has not answered, each with its function, by group (R257), `invals` the invalidations that the ATS queue holds (R484), `perf` the
counters of the performance events by partition (R493), `reply` what the last completion returned to the host (R291, R484). `offHot` holds from a thermal
power-off (R496) until power-on; `podOff` is the pod tick less the cycles of the module's clock (R389, R491), and `synced` that it follows
the leader's. -/
structure Hub where
  boot     : Boot := .off
  offHot   : Bool := false
  reason   : Byte := 0
  unsync   : Bool := false
  imgLen   : Nat := 0
  verify   : Bool := false
  meas1    : BitVec 384 := 0
  meas2    : BitVec 384 := 0
  record   : Memory := []
  image    : Memory := []
  femode   : BitVec 8 := 0
  evrbase  : Word := 0
  evrcfg   : Word := 0
  evrwidx  : BitVec 32 := 0
  evrridx  : BitVec 32 := 0
  resval   : Word := 0
  resseq   : Word := 0
  mpctl    : Nat := 1000
  rotshare : Nat := 32
  sndrec   : Tab Nat := []
  evseq    : Nat := 0
  events   : List HubEvent := []
  skerries : Tab (HubEvent × Nat) := []
  posted   : List (Nat × HubEvent) := []
  answers  : List (Nat × Nat) := []
  causes   : Tab Word := []
  msix     : List (Nat × Nat) := []
  limit    : Nat := 3600
  straitMask : BitVec 64 := 0
  eth      : BitVec 32 := 0
  podPol   : BitVec 400 := 0
  floors   : Tab Nat := []
  grants   : Tab Nat := []
  classes  : Tab Nat := []
  prgNext  : Nat := 0
  prgs     : Tab (List (Nat × Nat)) := []
  invals   : List (Nat × PteWrites) := []
  perf     : Tab Word := []
  reply    : List Byte := []
  podOff   : Int := 0
  synced   : Bool := false
  idKey    : Option (BitVec 15616 × BitVec 32256) := none
  operator : Option (BitVec 384) := none
  deriving DecidableEq, Repr

/-- Per-die state (R11, R449, R494–R496). `moves` is the count of moves to the escape channel in the Sound's telemetry (R394), `temp` the
junction temperature in °C. -/
structure Die where
  podDie  : Nat := 0
  moves   : Nat := 0
  warn    : Bool := false
  stopped : Bool := false
  tokens  : Tab Nat := []
  spill   : Nat := 0
  temp    : Nat := 0
  deriving DecidableEq, Repr

/-- Who moves next (MODEL): another agent's step, the next instruction of the current context, the head of its execute side, a
change of the current context, the model's own choice number `n` among the steps that internal agents could take, a soft error that makes a
line uncorrectable or changes its bytes (R437, R438, R477), a load of the current context that is performed early (R271), or a change of
pace. -/
inductive Turn where
  | ev (e : Instr)
  | run
  | exec
  | select (c : Nat)
  | own (n : Nat)
  | upset (l : Loc) (c : Cause)
  | damage (l : Loc) (bs : List Byte)
  | early (l : Loc) (n : Nat)
  | pace (lag tear : Bool)
  deriving DecidableEq, Repr

/-- The state of one module. `x` is the context that moves next and `xid` its number as CTXID gives it (R464); `parked` are the
other contexts. Fields marked MODEL are the model's scheduling data. -/
structure State where
  x        : Context
  xid      : Nat
  parked   : Tab Context
  cores    : Tab Core
  clusters : Tab Cluster
  dies     : Tab Die
  mem      : Memory
  badMem   : Tab Cause
  /-- MODEL: writes to the lines and flag entries that suspended waits watch. -/
  marks    : Tab Nat
  roots    : Tab Nat
  ats      : Tab Nat
  faults   : List Fault1
  bundles  : Tab Bundle
  pieces   : List Piece
  ready    : List (Nat × Cont)
  queues   : Tab Queue
  qmap     : Tab (Nat × Nat)
  granules : Tab Nat
  parts    : Tab Partition
  fns      : Tab Fn
  slots    : Tab Slot
  auths    : Tab Auth
  sealKeys : Tab Nat
  domains  : Tab KeyDomain
  jobKeys  : Tab Nat
  comms    : Tab Comm
  colls    : Tab CollRec
  straits  : Tab Strait
  net      : List Packet
  netCount : Tab Nat
  groups   : Tab Group
  endpoints : Tab Endpoint
  planners : Tab Planner
  images   : List Image
  hub      : Hub
  tick     : Nat
  /-- MODEL: the schedule the environment chose; empty means the model's own order. -/
  agenda   : List Turn
  /-- MODEL: true while the execute side is to lag behind the access side. -/
  lag      : Bool
  /-- MODEL: whether the parts of a wide load are read one at a time. -/
  tear     : Bool
  /-- MODEL: whether this step runs the execute side's head. -/
  eside    : Bool
  /-- MODEL: alternates internal steps and instructions, and rotates among internal steps. -/
  phase    : Nat
  /-- MODEL: counts continuations, bundles, pieces and free values handed out. -/
  nextId   : Nat
  fresh    : Nat
  deriving DecidableEq, Repr

/-- Why the machine stops. -/
inductive Fault where
  /-- Raised by every step of a module that has powered off at 115 °C (R496) but POWER_ON: nothing runs. Safe: the machine does
  nothing there. -/
  | poweredOff
  deriving DecidableEq, Repr

/-- Why a step has no meaning. -/
inductive Refusal where
  /-- Raised by an arm of exec that has not been modelled. Safe: no state is given. -/
  | notModelled (mnemonic : String)
  deriving DecidableEq, Repr

/-- The module before power-on (R488): every register at the value the manual states, or at the value the assumption log names;
no program is placed, no context runs. -/
def State.reset : State where
  x := {}
  xid := 0
  parked := []
  cores := []
  clusters := []
  dies := []
  mem := []
  badMem := []
  marks := []
  roots := []
  ats := []
  faults := []
  bundles := []
  pieces := []
  ready := []
  queues := []
  qmap := []
  granules := []
  parts := []
  fns := []
  slots := []
  auths := []
  sealKeys := []
  domains := []
  jobKeys := []
  comms := []
  colls := []
  straits := []
  net := []
  netCount := []
  groups := []
  endpoints := []
  planners := []
  images := []
  hub := {}
  tick := 0
  agenda := []
  lag := false
  tear := false
  eside := false
  phase := 0
  nextId := 1
  fresh := 0

end Sys2Proof.Machine
end

