-- ==== Sys2Proof/Machine/Tab.lean ====
section
/-!
DEFINITION. Sparse tables, byte memory in its canonical form, and byte-order helpers. Every read and write of a memory of the
model (physical memory, pools, tiles) is one of the operations of this file.
-/

namespace Sys2Proof.Machine

/-- The entry of unit `k`, if it is listed. -/
def tabFind {α : Type} (k : Nat) : Tab α → Option α
  | [] => none
  | (j, v) :: t => if j = k then some v else tabFind k t

/-- The contents of unit `k`; `d` is what an unlisted unit holds. -/
def tabGet {α : Type} (d : α) (k : Nat) (t : Tab α) : α := (tabFind k t).getD d

/-- Lists `v` for unit `k`, in ascending order of units. -/
def tabPut {α : Type} (k : Nat) (v : α) : Tab α → Tab α
  | [] => [(k, v)]
  | (j, w) :: t => if k < j then (k, v) :: (j, w) :: t else if j = k then (k, v) :: t else (j, w) :: tabPut k v t

/-- Removes unit `k`. -/
def tabDel {α : Type} (k : Nat) (t : Tab α) : Tab α := t.filter (fun e => e.1 != k)

/-- Unit `k` changed by `f`; `d` is what an unlisted unit holds. -/
def tabMod {α : Type} (d : α) (k : Nat) (f : α → α) (t : Tab α) : Tab α := tabPut k (f (tabGet d k t)) t

/-- What an unlisted byte of memory reads as. -/
def emptyByte : Byte := 0

/-- The canonical form: addresses strictly rising and no entry equal to what an unlisted address reads as. -/
abbrev Memory.wf (m : Memory) : Prop := m.Pairwise (fun a b => a.1 < b.1) ∧ ∀ c ∈ m, c.2 ≠ emptyByte

/-- One byte of a memory. -/
def memByte (m : Memory) (a : Nat) : Byte := tabGet emptyByte a m

/-- `n` consecutive bytes, lowest address first. -/
def memRead (m : Memory) (a : Nat) : Nat → List Byte
  | 0 => []
  | n + 1 => memByte m a :: memRead m (a + 1) n

/-- The cells that list the bytes `bs` from address `a`. -/
def memCells (a : Nat) : List Byte → Memory
  | [] => []
  | b :: bs => if b = emptyByte then memCells (a + 1) bs else (a, b) :: memCells (a + 1) bs

/-- Writes consecutive bytes from address `a`. -/
def memWrite (m : Memory) (a : Nat) (bs : List Byte) : Memory :=
  m.filter (fun c => decide (c.1 < a)) ++ memCells a bs ++ m.filter (fun c => decide (a + bs.length ≤ c.1))

/-- Clears every byte of [a, a + n). -/
def memClear (m : Memory) (a n : Nat) : Memory :=
  m.filter (fun c => decide (c.1 < a)) ++ m.filter (fun c => decide (a + n ≤ c.1))

/-- The number whose little-endian bytes these are (R4). -/
def leNat : List Byte → Nat
  | [] => 0
  | b :: bs => b.toNat + 256 * leNat bs

/-- The `n` little-endian bytes of a number (R4). -/
def leBytes : Nat → Nat → List Byte
  | 0, _ => []
  | n + 1, v => BitVec.ofNat 8 v :: leBytes n (v / 256)

/-- Bytes as a bit vector, lowest address in the low bits. -/
def leWord (w : Nat) (bs : List Byte) : BitVec w := BitVec.ofNat w (leNat bs)

/-- The bytes of a 64-bit value. -/
def wordBytes (n : Nat) (w : Word) : List Byte := leBytes n w.toNat

/-- The 256 bytes of a vector, byte 0 first (R189). -/
def vecBytes (x : Vec) : List Byte := leBytes 256 x.toNat

/-- A vector from its bytes. -/
def vecOf (bs : List Byte) : Vec := leWord 2048 bs

/-- Bytes taken `n` at a time; a short last piece is dropped. -/
def chunks (n : Nat) : Nat → List Byte → List (List Byte)
  | 0, _ => []
  | c + 1, bs => bs.take n :: chunks n c (bs.drop n)

/-- Bits [lo + n − 1 : lo] of a number. -/
def bitsOf (v lo n : Nat) : Nat := (v >>> lo) % 2 ^ n

/-- Sign extension of the low `n` bits of a number to an integer. -/
def signed (n v : Nat) : Int :=
  let m := v % 2 ^ n
  if n = 0 then 0 else if m < 2 ^ (n - 1) then (m : Int) else (m : Int) - (2 ^ n : Nat)

/-- The low `n` bits of an integer in two's complement. -/
def unsigned (n : Nat) (v : Int) : Nat := (v % ((2 ^ n : Nat) : Int)).toNat

/-- Replaces element `i` of a list; nothing happens beyond its end. -/
def listSet {α : Type} (l : List α) (i : Nat) (v : α) : List α := l.set i v

/-- An integer clamped to [lo, hi]. -/
def clampInt (lo hi v : Int) : Int := if v < lo then lo else if hi < v then hi else v

/-- A vector entry by number; numbers beyond the end read as `d`. -/
def vecGet {α : Type} {n : Nat} (v : Vector α n) (i : Nat) (d : α) : α := (v[i]?).getD d

/-- A vector entry replaced by number; numbers beyond the end change nothing. -/
def vecSet {α : Type} {n : Nat} (v : Vector α n) (i : Nat) (x : α) : Vector α n := v.setIfInBounds i x

end Sys2Proof.Machine
end

