-- ==== Sys2Proof/Machine/Keccak.lean ====
section
/-!
DEFINITION. CRC-32C (R438), and the hash functions that the manual names: SHA3-384 (R484, R487) and KMAC128 (R424), which the manual names and does not define:
they are those of FIPS 202 and NIST SP 800-185 (log entry 195).
-/

namespace Sys2Proof.Machine

/-- One bit of CRC-32C, reflected. -/
def crcBit (c : BitVec 32) : BitVec 32 := (c >>> 1) ^^^ (if c.getLsbD 0 then 0x82F63B78 else 0)

/-- One byte of CRC-32C. -/
def crcByte (c : BitVec 32) (b : Byte) : BitVec 32 :=
  (List.range 8).foldl (fun c _ => crcBit c) (c ^^^ b.setWidth 32)

/-- CRC-32C with polynomial 0x1EDC_6F41, reflected, initial value and final XOR all ones (R438). -/
def crc32c (bs : List Byte) : BitVec 32 := ~~~ bs.foldl crcByte 0xFFFFFFFF

/-- Lane `i` of a Keccak state of 25 lanes; lane x + 5y stands at column x of row y. -/
def keccakLane (a : List Word) (i : Nat) : Word := a.getD i 0

/-- How far each lane is rotated. -/
def laneTurns : List Nat := [0, 1, 62, 28, 27, 36, 44, 6, 55, 20, 3, 10, 43, 25, 39, 41, 45, 15, 21, 8, 18, 2, 61, 56, 14]

/-- The constants of the 24 rounds. -/
def roundConstants : List Word :=
  [0x0000000000000001, 0x0000000000008082, 0x800000000000808A, 0x8000000080008000, 0x000000000000808B, 0x0000000080000001] ++
  [0x8000000080008081, 0x8000000000008009, 0x000000000000008A, 0x0000000000000088, 0x0000000080008009, 0x000000008000000A] ++
  [0x000000008000808B, 0x800000000000008B, 0x8000000000008089, 0x8000000000008003, 0x8000000000008002, 0x8000000000000080] ++
  [0x000000000000800A, 0x800000008000000A, 0x8000000080008081, 0x8000000000008080, 0x0000000080000001, 0x8000000080008008]

/-- Each lane takes the parities of two neighbouring columns. -/
def keccakTheta (a : List Word) : List Word :=
  let c := (List.range 5).map (fun x => keccakLane a x ^^^ keccakLane a (x + 5) ^^^ keccakLane a (x + 10) ^^^ keccakLane a (x + 15) ^^^ keccakLane a (x + 20))
  (List.range 25).map (fun i => keccakLane a i ^^^ keccakLane c ((i + 4) % 5) ^^^ (keccakLane c ((i + 1) % 5)).rotateLeft 1)

/-- Each lane is rotated and moves: lane x + 5y goes to y + 5(2x + 3y). -/
def keccakTurn (a : List Word) : List Word :=
  (List.range 25).map (fun j =>
    let x := (j % 5 + 3 * (j / 5)) % 5
    let i := x + 5 * (j % 5)
    (keccakLane a i).rotateLeft (laneTurns.getD i 0))

/-- The nonlinear step within each row. -/
def keccakChi (a : List Word) : List Word :=
  (List.range 25).map (fun i =>
    let row := i / 5 * 5
    keccakLane a i ^^^ (~~~ keccakLane a (row + (i + 1) % 5) &&& keccakLane a (row + (i + 2) % 5)))

/-- The permutation of 24 rounds. -/
def keccak (a : List Word) : List Word :=
  roundConstants.foldl (fun a rc => match keccakChi (keccakTurn (keccakTheta a)) with
    | [] => []
    | h :: t => (h ^^^ rc) :: t) a

/-- The state after a message of whole blocks of `rate` bytes has been absorbed. -/
def absorb (rate : Nat) : Nat → List Byte → List Word → List Word
  | 0, _, a => a
  | n + 1, m, a =>
    let block := m.take rate
    absorb rate n (m.drop rate) (keccak (a.zipIdx.map (fun e => if 8 * e.2 < rate then e.1 ^^^ leWord 64 ((block.drop (8 * e.2)).take 8) else e.1)))

/-- A message with its closing bits, filled up to a whole number of blocks. -/
def padBlocks (rate : Nat) (mark : Byte) (m : List Byte) : List Byte :=
  let fill := rate - m.length % rate
  m ++ (if fill = 1 then [mark ||| 0x80] else mark :: List.replicate (fill - 2) 0 ++ [0x80])

/-- The first `out` bytes, at most one block, that a sponge gives for a message. -/
def sponge (rate : Nat) (mark : Byte) (m : List Byte) (out : Nat) : List Byte :=
  let p := padBlocks rate mark m
  ((absorb rate (p.length / rate) p (List.replicate 25 0)).flatMap (fun w => leBytes 8 w.toNat)).take out

/-- SHA3-384. -/
def sha3 (m : List Byte) : List Byte := sponge 104 0x06 m 48

/-- The bytes of a number below 2^16, most significant first, as few as hold it. -/
def shortBytes (n : Nat) : List Byte := if n < 256 then [BitVec.ofNat 8 n] else [BitVec.ofNat 8 (n / 256), BitVec.ofNat 8 n]

/-- A number after the count of its bytes. -/
def leftEncode (n : Nat) : List Byte := BitVec.ofNat 8 (shortBytes n).length :: shortBytes n

/-- A number before the count of its bytes. -/
def rightEncode (n : Nat) : List Byte := shortBytes n ++ [BitVec.ofNat 8 (shortBytes n).length]

/-- A string after its length in bits. -/
def encodeString (l : List Byte) : List Byte := leftEncode (8 * l.length) ++ l

/-- A string after the block size, filled up with zeros to whole blocks. -/
def bytePad (rate : Nat) (l : List Byte) : List Byte :=
  let l := leftEncode rate ++ l
  l ++ List.replicate ((rate - l.length % rate) % rate) 0

/-- The bytes of a label in ASCII. -/
def asciiBytes (t : String) : List Byte := t.toList.map (fun c => BitVec.ofNat 8 c.toNat)

/-- KMAC128 of a message under a key, with a customisation string: the first `out` bytes of an output of that length. -/
def kmac128 (key m : List Byte) (out : Nat) (custom : String) : List Byte :=
  sponge 168 0x04 (bytePad 168 (encodeString (asciiBytes "KMAC") ++ encodeString (asciiBytes custom)) ++
    bytePad 168 (encodeString key) ++ m ++ rightEncode (8 * out)) out

end Sys2Proof.Machine
end

