-- ==== Sys2Proof/Config.lean ====
section
/-!
DEFINITION. What one implementation fixes, and the FREE VALUES: constants without a body, so that no proof can see which
value the device produced where the manual leaves it open. Each is applied to a fresh count (or to the operands it depends on).
-/

namespace Sys2Proof.Config

/-- A bit the manual leaves open (a register that "holds its old or its new value, independently", R188). -/
opaque freeBit : Nat → Bool

/-- A 64-bit value the manual does not state (a telemetry counter, R465). -/
opaque freeWord : Nat → BitVec 64

/-- A byte the manual does not state. -/
opaque freeByte : Nat → BitVec 8

/-- The rounding of a function value that the model's enclosures do not separate (never met for a correctly chosen precision):
the manual states the value (R144), the model leaves it free there. Arguments: function code, operand, destination type. -/
opaque freeFn : Nat → BitVec 32 → Nat → BitVec 32

/-- Whether host memory is reached through CXL.cache, or over PCIe without CXL (R314): fixed by the installation. -/
opaque hostCxl : Bool

/-- What the host's IOMMU answers to an ATS Translation Request (R256): the frame of 16 KiB that it maps, or none. Arguments: the page,
by the number of its address space and its virtual page, and how often its translation has been invalidated or requested anew. -/
opaque iommu : Nat → Nat → Option Nat

/-- The seal key that a partition (first argument) holds for a tenant (second), in the key epoch of the third: the root core draws it from
its random bit generator, and it never leaves the device (R424). -/
opaque sealKey : Nat → Nat → Nat → BitVec 256

/-- What the on-die physically unclonable function gives (R487). -/
opaque puf : BitVec 256

/-- The ML-DSA-65 key pair of a seed, public key and private key (R487). -/
opaque keyPair : BitVec 384 → BitVec 15616 × BitVec 32256

/-- The operator's public key, as the last 2,048 bytes of a configuration record hold it behind the signature: at which bytes is not stated
(R489). -/
opaque operatorKey : List (BitVec 8) → List (BitVec 8)

/-- The device certificate chain, which Osaroz writes at manufacture (R487). -/
opaque certificates : List (BitVec 8)

/-- A vector the manual does not state. -/
opaque freeVec : Nat → BitVec 2048

/-- Where the reduction tree of a communicator divides `n` ranks: the left part has this many, taken modulo n − 1, plus one (R155: the
communicator fixes its tree). Arguments: communicator, number of ranks. -/
opaque treeSplit : Nat → Nat → Nat

/-- The communicators below 4,088 that the front end writes when a job is set up (R350): each with its number, its participants in rank
order as pod die and cluster of the die, and whether a path crosses Ethernet (R353). Argument: a fresh count. -/
opaque jobComms : Nat → List (Nat × List (Nat × Nat) × Bool)

/-- The number of page requests that the host allows to be outstanding (R257): the host grants it. -/
opaque priAllowance : Nat

/-- Whether a key domain (first argument) owns a 16 MiB granule of device memory, by its number: the memory processor's choice of frames
(R440). -/
opaque domainOwns : Nat → Nat → Bool

/-- The Ethernet port that an endpoint is bound to, modulo 4 (R435): no register of the manual binds it. Argument: partition × 256 + endpoint. -/
opaque endpointPort : Nat → Nat

/-- The key domains that the physical function has assigned to a function by the time its configuration is frozen (R439, R448): no register of
the manual assigns them. Argument: a fresh count. -/
opaque givenDomains : Nat → List Nat

end Sys2Proof.Config
end

