-- ==== Sys2Proof/WellFormed.lean ====
section
/-!
DEFINITION. When an instruction's field values are legal: the reserved values of step 6 of R86 (R76, R81 and the entry of each
instruction; they raise 0x003) and the queue rules of step 7 (R80; 0x004 before 0x007).
-/

namespace Sys2Proof

/-- The scalar field names a queue (R77). -/
def isQ (r : BitVec 6) : Bool := decide (60#6 ≤ r)

/-- The vector field names a queue (R77). -/
def isQV (r : BitVec 5) : Bool := decide (28#5 ≤ r)

/-- The trap-if-empty bit beside a source that is g0 is reserved (R81). -/
def bitOk (r : BitVec 6) (t : Bool) : Bool := !(r == 0 && t)

/-- Container bytes of an element type code, with 13 INT32 and 14 INT16; 0 for the reserved code 15 (R103, R105). -/
def containerOf (t : BitVec 4) : Nat :=
  if t = 1 ∨ t = 13 then 4 else if t = 2 ∨ t = 3 ∨ t = 14 then 2 else if t = 15 then 0 else 1

/-- The geometry code is one that R113 lists for the format. -/
def geomAllowed (fmt : BitVec 4) (g : BitVec 3) : Bool :=
  if decide (fmt ≤ 3#4) then g == 0
  else if decide (fmt ≤ 8#4) then decide (g ≤ 4#3)
  else if fmt == 9 || fmt == 11 then g == 0 || (decide (2#3 ≤ g) && decide (g ≤ 4#3))
  else if fmt == 10 || fmt == 12 then decide (2#3 ≤ g) && decide (g ≤ 4#3)
  else false

/-- Elements per scale of a block geometry code (R112). -/
def blockLen (g : BitVec 3) : Nat := if g = 0 then 0 else 8 * 2 ^ g.toNat

/-- Functions that use neither rounding fields nor a second type (R209). -/
def vxPlain (f : VXF) : Bool := f.rnd == 0 && f.ovf == 0 && f.dt == f.st

/-- vb is not a source (R209, R76). -/
def vxNoB (f : VXF) : Bool := f.vb == 0 && !f.tb

/-- An immediate shift count lies below the container width (R211). -/
def vxShiftOk (f : VXF) : Bool := f.st == 15 || decide (f.imm.toNat < 8 * containerOf f.st)

/-- The lane number lies below the lane count (R217). -/
def vxLaneOk (t : BitVec 4) (k : BitVec 8) : Bool := t == 15 || decide (k.toNat < 256 / containerOf t)

/-- The ratio of the larger container to the smaller one (R213). -/
def vxRatio (f : VXF) : Nat :=
  let a := containerOf f.dt
  let b := containerOf f.st
  if a < b then b / a else a / b

/-- The segment number j lies below the container ratio (R213). -/
def vxSegOk (f : VXF) : Bool :=
  f.dt == 15 || f.st == 15 || decide ((f.imm.extractLsb' 6 2).toNat < vxRatio f)

/-- The conversion writes a narrower container than it reads (R80, R213). -/
def vxNarrows (f : VXF) : Bool := decide (containerOf f.dt < containerOf f.st)

/-- The geometry limits of R214 and R215: `q` is the scaled format, `w` the wide one. Codes 13 to 15 have no row in R113 and
are left to the type check. -/
def vxGeomOk (q w : BitVec 4) (f : VXF) : Bool :=
  let g := f.imm.extractLsb' 0 3
  g != 0 && (decide (13#4 ≤ q) || (geomAllowed q g && (w == 15 || decide (blockLen g ≤ 256 / containerOf w))))

/-- The word combinations of R333 and an unnamed channel's reserved number (R76, R337). -/
def cpyWordsOk (f : CpyF) : Bool :=
  (f.dfmt == 0 || f.dc) && !(f.dfmt == 10 || decide (12#4 ≤ f.dfmt)) &&
  (!f.pat || f.dfmt == 6 || f.dfmt == 7) && (f.dfmt != 0 || (f.rnd == 0 && f.ovf == 0)) && (f.che || f.ch == 0)

/-- No field holds a value that raises 0x003 at step 6 of R86. DESIGN CHOICE (entry 219): of the word combinations of R333 only the one of
pat holds for CPYR, whose other values of dfmt meet the 0x302 of R340 at its start. -/
def Instr.valuesOk : Instr → Bool
  | .add f => bitOk f.a f.ta && bitOk f.b f.tb
  | .adds f => bitOk f.a f.ta && bitOk f.b f.tb
  | .sub f => bitOk f.a f.ta && bitOk f.b f.tb
  | .subs f => bitOk f.a f.ta && bitOk f.b f.tb
  | .mul f => bitOk f.a f.ta && bitOk f.b f.tb
  | .mulh f => bitOk f.a f.ta && bitOk f.b f.tb
  | .mulhu f => bitOk f.a f.ta && bitOk f.b f.tb
  | .div f => bitOk f.a f.ta && bitOk f.b f.tb
  | .divu f => bitOk f.a f.ta && bitOk f.b f.tb
  | .rem f => bitOk f.a f.ta && bitOk f.b f.tb
  | .remu f => bitOk f.a f.ta && bitOk f.b f.tb
  | .and f => bitOk f.a f.ta && bitOk f.b f.tb
  | .or f => bitOk f.a f.ta && bitOk f.b f.tb
  | .xor f => bitOk f.a f.ta && bitOk f.b f.tb
  | .andn f => bitOk f.a f.ta && bitOk f.b f.tb
  | .shl f => bitOk f.a f.ta && bitOk f.b f.tb
  | .shr f => bitOk f.a f.ta && bitOk f.b f.tb
  | .sra f => bitOk f.a f.ta && bitOk f.b f.tb
  | .rol f => bitOk f.a f.ta && bitOk f.b f.tb
  | .min f => bitOk f.a f.ta && bitOk f.b f.tb
  | .minu f => bitOk f.a f.ta && bitOk f.b f.tb
  | .max f => bitOk f.a f.ta && bitOk f.b f.tb
  | .maxu f => bitOk f.a f.ta && bitOk f.b f.tb
  | .slt f => bitOk f.a f.ta && bitOk f.b f.tb
  | .sltu f => bitOk f.a f.ta && bitOk f.b f.tb
  | .seq f => bitOk f.a f.ta && bitOk f.b f.tb
  | .sne f => bitOk f.a f.ta && bitOk f.b f.tb
  | .cmov f => bitOk f.a f.ta && bitOk f.b f.tb
  | .clz f => bitOk f.a f.ta
  | .ctz f => bitOk f.a f.ta
  | .popc f => bitOk f.a f.ta
  | .brev f => bitOk f.a f.ta
  | .sextB f => bitOk f.a f.ta
  | .sextH f => bitOk f.a f.ta
  | .sextW f => bitOk f.a f.ta
  | .zextB f => bitOk f.a f.ta
  | .zextH f => bitOk f.a f.ta
  | .zextW f => bitOk f.a f.ta
  | .abs f => bitOk f.a f.ta
  | .neg f => bitOk f.a f.ta
  | .addi f => bitOk f.a f.ta
  | .andi f => bitOk f.a f.ta
  | .ori f => bitOk f.a f.ta
  | .xori f => bitOk f.a f.ta
  | .shli f => bitOk f.a f.ta
  | .shri f => bitOk f.a f.ta
  | .srai f => bitOk f.a f.ta
  | .slti f => bitOk f.a f.ta
  | .sltiu f => bitOk f.a f.ta
  | .bfx f => bitOk f.a f.ta && decide (f.pos.toNat + f.wm1.toNat + 1 ≤ 64)
  | .bfi f => bitOk f.a f.ta && decide (f.pos.toNat + f.wm1.toNat + 1 ≤ 64) && !f.sx
  | .li _ => true
  | .lis f => bitOk f.a f.ta
  | .addl f => bitOk f.a f.ta
  | .fadd f => bitOk f.a f.ta && bitOk f.b f.tb
  | .fsub f => bitOk f.a f.ta && bitOk f.b f.tb
  | .fmul f => bitOk f.a f.ta && bitOk f.b f.tb
  | .fma f => bitOk f.a f.ta && bitOk f.b f.tb
  | .fdiv f => bitOk f.a f.ta && bitOk f.b f.tb
  | .fmin f => bitOk f.a f.ta && bitOk f.b f.tb
  | .fmax f => bitOk f.a f.ta && bitOk f.b f.tb
  | .flt f => bitOk f.a f.ta && bitOk f.b f.tb
  | .fle f => bitOk f.a f.ta && bitOk f.b f.tb
  | .feq f => bitOk f.a f.ta && bitOk f.b f.tb
  | .fsqrt f => bitOk f.a f.ta
  | .fabs f => bitOk f.a f.ta
  | .fneg f => bitOk f.a f.ta
  | .fcvti f => bitOk f.a f.ta
  | .fcvtiz f => bitOk f.a f.ta
  | .fcvtf f => bitOk f.a f.ta
  | .fcvtfu f => bitOk f.a f.ta
  | .fclass f => bitOk f.a f.ta
  | .pand f => f.pd != 0
  | .por f => f.pd != 0
  | .pxor f => f.pd != 0
  | .pnot f => f.pd != 0
  | .pfrom f => f.pd != 0
  | .pto _ => true
  | .fset f => bitOk f.f f.tf && bitOk f.v f.tv
  | .frd f => bitOk f.f f.tf
  | .br _ => true
  | .bz f => bitOk f.a f.ta
  | .bnz f => bitOk f.a f.ta
  | .bltz f => bitOk f.a f.ta
  | .bgez f => bitOk f.a f.ta
  | .jl f => bitOk f.a f.ta
  | .brl _ => true
  | .loop f => bitOk f.a f.ta
  | .loopi _ => true
  | .trap f => decide (0x3C0#10 ≤ f.code)
  | .svc _ => true
  | .eret => true
  | .brk _ => true
  | .ld f => bitOk f.b f.tb && bitOk f.t f.tt && !f.tt
  | .ldu f => bitOk f.b f.tb && bitOk f.t f.tt && !f.tt
  | .st f => bitOk f.b f.tb && bitOk f.t f.tt
  | .lds f => bitOk f.b f.tb && bitOk f.t f.tt && !f.tt
  | .sts f => bitOk f.b f.tb && bitOk f.t f.tt
  | .lda f => bitOk f.b f.tb && bitOk f.t f.tt && !f.tt
  | .stl f => bitOk f.b f.tb && bitOk f.t f.tt
  | .aadd f => bitOk f.t f.tt && bitOk f.b f.tb && bitOk f.c f.tc && f.c == 0 && !f.tc
  | .aand f => bitOk f.t f.tt && bitOk f.b f.tb && bitOk f.c f.tc && f.c == 0 && !f.tc
  | .aor f => bitOk f.t f.tt && bitOk f.b f.tb && bitOk f.c f.tc && f.c == 0 && !f.tc
  | .axor f => bitOk f.t f.tt && bitOk f.b f.tb && bitOk f.c f.tc && f.c == 0 && !f.tc
  | .amin f => bitOk f.t f.tt && bitOk f.b f.tb && bitOk f.c f.tc && f.c == 0 && !f.tc
  | .amax f => bitOk f.t f.tt && bitOk f.b f.tb && bitOk f.c f.tc && f.c == 0 && !f.tc
  | .aminu f => bitOk f.t f.tt && bitOk f.b f.tb && bitOk f.c f.tc && f.c == 0 && !f.tc
  | .amaxu f => bitOk f.t f.tt && bitOk f.b f.tb && bitOk f.c f.tc && f.c == 0 && !f.tc
  | .aswp f => bitOk f.t f.tt && bitOk f.b f.tb && bitOk f.c f.tc && f.c == 0 && !f.tc
  | .acas f => bitOk f.t f.tt && bitOk f.b f.tb && bitOk f.c f.tc
  | .afadd f => bitOk f.t f.tt && bitOk f.b f.tb && bitOk f.c f.tc && f.c == 0 && !f.tc && !f.dbl
  | .waita f => bitOk f.t f.tt && bitOk f.b f.tb && bitOk f.o f.te && f.cond != 7 && (!f.sus || decide (f.d ≤ 3#6) || isQ f.d)
  | .fenceFull _ => true
  | .fenceAcq _ => true
  | .fenceRel _ => true
  | .fenceShoal _ => true
  | .fenceIo _ => true
  | .ldm f => bitOk f.b f.tb && bitOk f.t f.tt && !f.tt && (decide (60#6 ≤ f.t) || decide (f.t.toNat + f.m.toNat ≤ 59))
  | .stm f => bitOk f.b f.tb && bitOk f.t f.tt && (decide (60#6 ≤ f.t) || decide (f.t.toNat + f.m.toNat ≤ 59))
  | .cvta f => bitOk f.a f.ta && bitOk f.b f.tb
  | .aspc f => bitOk f.a f.ta && bitOk f.b f.tb
  | .finc f => bitOk f.f f.tf && bitOk f.v f.tv
  | .fwait f => bitOk f.f f.tf && bitOk f.v f.tv && f.cond != 7
  | .vadd _ => true
  | .vsub _ => true
  | .vmul _ => true
  | .vfma _ => true
  | .vfnma _ => true
  | .vmin _ => true
  | .vmax _ => true
  | .vcmp f => f.pd != 0
  | .vsel _ => true
  | .vbcast f => bitOk f.s f.ts
  | .vmov _ => true
  | .vld f => bitOk f.b f.tb
  | .vst f => bitOk f.b f.tb && !f.dc
  | .vldg f => bitOk f.b f.tb && f.sz != 3
  | .vsts f => bitOk f.b f.tb && f.sz != 3
  | .vred _ => true
  | .vsett _ => true
  | .vperm _ => true
  | .vand f => vxPlain f && f.imm == 0 && !f.x
  | .vor f => vxPlain f && f.imm == 0 && !f.x
  | .vxor f => vxPlain f && f.imm == 0 && !f.x
  | .vnot f => vxPlain f && vxNoB f && f.imm == 0 && !f.x
  | .vshl f => vxPlain f && (if f.x then vxNoB f && vxShiftOk f else f.imm == 0)
  | .vshr f => vxPlain f && (if f.x then vxNoB f && vxShiftOk f else f.imm == 0)
  | .vsra f => vxPlain f && (if f.x then vxNoB f && vxShiftOk f else f.imm == 0)
  | .vabs f => vxPlain f && vxNoB f && f.imm == 0 && !f.x
  | .vneg f => vxPlain f && vxNoB f && f.imm == 0 && !f.x
  | .vdiv f => f.dt == f.st && f.imm == 0 && !f.x
  | .vsqrt f => f.dt == f.st && vxNoB f && f.imm == 0 && !f.x
  | .vrcp f => f.dt == f.st && vxNoB f && f.imm == 0 && !f.x
  | .vrsqrt f => f.dt == f.st && vxNoB f && f.imm == 0 && !f.x
  | .vexp2 f => f.dt == f.st && vxNoB f && f.imm == 0 && !f.x
  | .vlog2 f => f.dt == f.st && vxNoB f && f.imm == 0 && !f.x
  | .vsinpi f => f.dt == f.st && vxNoB f && f.imm == 0 && !f.x
  | .vcospi f => f.dt == f.st && vxNoB f && f.imm == 0 && !f.x
  | .vtanh f => f.dt == f.st && vxNoB f && f.imm == 0 && !f.x
  | .vcvt f => vxNoB f && !f.x && f.p == 0 && f.imm.extractLsb' 0 6 == 0#6 && vxSegOk f
  | .vquant f => !f.tb && !f.x && f.p == 0 && f.imm.extractLsb' 3 2 == 0#2 && vxSegOk f && vxGeomOk f.dt f.st f
  | .vdeq f => !f.x && f.p == 0 && f.imm.extractLsb' 3 3 == 0#3 && vxSegOk f && vxGeomOk f.st f.dt f
  | .vpack f => vxPlain f && vxNoB f && !f.x && f.p == 0 && f.imm.extractLsb' 1 6 == 0#6 && (!f.imm.getLsbD 0 || f.st == 6 || f.st == 7)
  | .vunpk f => vxPlain f && vxNoB f && !f.x && f.p == 0 && f.imm.extractLsb' 1 6 == 0#6 && (!f.imm.getLsbD 0 || f.st == 6 || f.st == 7)
  | .vslide f => vxPlain f && !f.x && f.p == 0 && vxLaneOk f.st f.imm
  | .vextr f => vxPlain f && vxNoB f && !f.x && f.p == 0 && decide (f.vd ≤ 3#5) && vxLaneOk f.st f.imm
  | .vins f => bitOk f.s f.ts && f.dt == f.st && vxLaneOk f.st f.k
  | .viota f => vxPlain f && vxNoB f && f.va == 0 && !f.ta && !f.x && f.imm == 0
  | .vscan f => f.dt == f.st && vxNoB f && f.imm == 0 && !f.x
  | .vclass f => vxPlain f && vxNoB f && f.imm == 0 && !f.x
  | .mlease f => bitOk f.b f.tb
  | .mrel _ => true
  | .mma f => bitOk f.ga f.ta && bitOk f.gb f.tb && bitOk f.gs f.ts && bitOk f.gsa f.tsa && bitOk f.gsb f.tsb
  | .mmaq f => bitOk f.ga f.ta && bitOk f.gb f.tb && bitOk f.gs f.ts && bitOk f.gsa f.tsa && bitOk f.gsb f.tsb
  | .mmv f => bitOk f.ga f.ta && bitOk f.gb f.tb && bitOk f.gs f.ts && bitOk f.gsa f.tsa && bitOk f.gsb f.tsb
  | .mzero _ => true
  | .mdrain f => bitOk f.gt f.tt && bitOk f.gs f.ts
  | .mldacc f => bitOk f.gt f.tt && bitOk f.gs f.ts && !f.z && f.rnd == 0 && f.ovf == 0
  | .cpy f => bitOk f.gd f.td && bitOk f.gs f.ts && bitOk f.gn f.tn && cpyWordsOk f
  | .cpyg f => bitOk f.c.gd f.c.td && bitOk f.c.gs f.c.ts && bitOk f.c.gn f.c.tn && cpyWordsOk f.c && !(f.gi == 0 && f.ti) && !(f.gc == 0 && f.tc)
  | .cpys f => bitOk f.c.gd f.c.td && bitOk f.c.gs f.c.ts && bitOk f.c.gn f.c.tn && cpyWordsOk f.c && !f.c.dc && !(f.gi == 0 && f.ti) && !(f.gc == 0 && f.tc)
  | .cpyr f => bitOk f.c.gd f.c.td && bitOk f.c.gs f.c.ts && bitOk f.c.gn f.c.tn && !f.c.dc && !f.c.che && f.c.ch == 0 && (!f.c.pat || f.c.dfmt == 6 || f.c.dfmt == 7)
  | .cfill f => bitOk f.gv f.tv && bitOk f.gd f.td && bitOk f.gn f.tn && (f.che || f.ch == 0)
  | .chbind f => bitOk f.go f.te && bitOk f.gl f.tl
  | .chrd f => bitOk f.gp f.tp
  | .chunb _ => true
  | .pkset f => decide (f.n.toNat + f.cnt.toNat ≤ 15)
  | .xst f => bitOk f.gd f.td && bitOk f.gs f.ts && bitOk f.gf f.tf && bitOk f.gn f.tn
  | .xld f => bitOk f.gd f.td && bitOk f.gs f.ts && bitOk f.gn f.tn && (f.che || f.ch == 0)
  | .xamo f => bitOk f.go f.te && bitOk f.gv f.tv && bitOk f.gc f.tc && bitOk f.gp f.tp && f.sz.getLsbD 1 && (f.op == 9 || (f.gc == 0 && !f.tc)) && !(f.op == 10 && f.sz == 3)
  | .car f => bitOk f.gd f.td && bitOk f.gs f.ts && bitOk f.gn f.tn && bitOk f.groot f.troot && f.op != 3 && !(f.exact && f.op != 0) && f.groot == 0 && !f.troot
  | .cag f => bitOk f.gd f.td && bitOk f.gs f.ts && bitOk f.gn f.tn && bitOk f.groot f.troot && !f.exact && f.efmt == 0 && f.rnd == 0 && f.ovf == 0 && f.op == 0 && f.groot == 0 && !f.troot
  | .crs f => bitOk f.gd f.td && bitOk f.gs f.ts && bitOk f.gn f.tn && bitOk f.groot f.troot && f.op != 3 && !(f.exact && f.op != 0) && f.groot == 0 && !f.troot
  | .ca2a f => bitOk f.gd f.td && bitOk f.gs f.ts && bitOk f.gn f.tn && bitOk f.groot f.troot && !f.exact && f.efmt == 0 && f.rnd == 0 && f.ovf == 0 && f.op == 0 && f.groot == 0 && !f.troot
  | .cbc f => bitOk f.gd f.td && bitOk f.gs f.ts && bitOk f.gn f.tn && bitOk f.groot f.troot && !f.exact && f.efmt == 0 && f.rnd == 0 && f.ovf == 0 && f.op == 0
  | .cbar f => bitOk f.gn f.tn
  | .nsend f => bitOk f.gp f.tp && bitOk f.gs f.ts && bitOk f.gt f.tt && bitOk f.gn f.tn && (f.mode == 0 || f.mode == 2)
  | .nrecv f => bitOk f.gp f.tp && bitOk f.gd f.td && bitOk f.gt f.tt && bitOk f.gn f.tn && bitOk f.gm f.tm && (f.mode == 0 || f.mode == 2)
  | .nwrite f => bitOk f.gp f.tp && bitOk f.gl f.tl && bitOk f.gr f.tr && bitOk f.gn f.tn && f.mode != 3
  | .nread f => bitOk f.gp f.tp && bitOk f.gl f.tl && bitOk f.gr f.tr && bitOk f.gn f.tn && f.mode != 3
  | .opwait f => (!f.sus || decide (f.d ≤ 3#6))
  | .optest _ => true
  | .opcancel _ => true
  | .opdetach _ => true
  | .opadopt f => bitOk f.a f.ta
  | .oppri _ => true
  | .opfault f => f.d != 0 && decide (f.d.toNat + 2 ≤ 59)
  | .oprel _ => true
  | .kdone _ => true
  | .kyield _ => true
  | .kspawn f => bitOk f.w f.tw && (!f.inh || f.pri == 0)
  | .krange f => bitOk f.a f.ta && bitOk f.b f.tb
  | .knext _ => true
  | .widf _ => true
  | .depdec _ => true
  | .nextok _ => true
  | .prevwait _ => true
  | .bar _ => true
  | .hld f => bitOk f.b f.tb && (!f.y || decide (f.reg ≤ 7#5))
  | .hst f => bitOk f.b f.tb && (!f.y || decide (f.reg ≤ 7#5))
  | .hnarrow f => bitOk f.go f.te && bitOk f.gl f.tl
  | .hinfo f => decide (f.n ≤ 5#3)
  | .hchk _ => true
  | .hdrop _ => true
  | .hreq _ => true
  | .csrr _ => true
  | .csrw _ => true
  | .csrx f => bitOk f.a f.ta && f.op != 3
  | .pmcrd f => bitOk f.a f.ta
  | .timerd _ => true
  | .evLongLatencyWriteback _ _ => true
  | .evShoalDrain _ _ => true
  | .evFaultService _ _ => true
  | .evTranslationHoldTimeout _ => true
  | .evPageRequestGroupSend => true
  | .evPriResponse _ _ => true
  | .evAtsInvalidation _ _ => true
  | .evWaitaWake _ => true
  | .evDecouplingDeadlock _ => true
  | .evTrapEntry _ => true
  | .evTokenIssueTimeout _ => true
  | .evFincArrival _ => true
  | .evFincRefusal _ => true
  | .evRemoteWriteApply _ => true
  | .evReleasePacketApply _ => true
  | .evRemoteWriteAck _ => true
  | .evMulticastRewrite _ _ => true
  | .evFabricPacketArrival _ _ _ _ _ => true
  | .evEscapeMove _ => true
  | .evLeaseGrant _ => true
  | .evIdlePossessionTimeout _ => true
  | .evLeaseRequestAging _ => true
  | .evLeaseReservationLapse _ => true
  | .evMatrixOpStart _ => true
  | .evMatrixBlockStep _ => true
  | .evMmvGroupStep _ => true
  | .evTileMoveStep _ => true
  | .evCopyStart _ _ => true
  | .evCopyStep _ _ => true
  | .evPksetStep _ => true
  | .evRemoteTransferStep _ _ _ => true
  | .evCollectiveStep _ _ => true
  | .evCbarComplete _ _ => true
  | .evMessageArrival _ _ _ _ _ => true
  | .evRemoteRegionAccess _ _ _ _ _ _ => true
  | .evEthernetRetryExhausted _ _ => true
  | .evEngineHeadAging _ _ => true
  | .evIssuePromotion _ _ => true
  | .evReadyEntryAging _ => true
  | .evWorkRequest _ => true
  | .evRangeTaskStart _ _ => true
  | .evContinuationResume _ _ => true
  | .evLaunchr _ _ _ => true
  | .evEnable _ => true
  | .evReset _ => true
  | .evDestroy _ => true
  | .evDestroyWithDeadline _ => true
  | .evDestroyDeadlineExpiry _ => true
  | .evPad _ => true
  | .evLaunch _ => true
  | .evFencePacket _ => true
  | .evFenceCountersMet _ => true
  | .evSignal _ => true
  | .evSignalPerform _ => true
  | .evGang _ => true
  | .evGangTickReached _ => true
  | .evIndirect _ => true
  | .evIndirectDispatch _ => true
  | .evTimestamp _ => true
  | .evTimestampWrite _ => true
  | .evNopPacket _ => true
  | .evFrontEndAccessFault _ _ => true
  | .evBundleResident _ _ => true
  | .evEarlyStart _ _ => true
  | .evXNodeReady _ _ _ => true
  | .evNodeRetire _ _ => true
  | .evBundleRetire _ => true
  | .evSkerryTakeEvent _ => true
  | .evHandlerWatchdog _ => true
  | .evEventRecordWrite => true
  | .evResseq _ => true
  | .evEvrridx _ => true
  | .evRegisterWrite _ _ _ _ => true
  | .evAlloc _ _ => true
  | .evMint _ _ => true
  | .evRevoke _ _ => true
  | .evFree _ _ => true
  | .evRotate _ _ => true
  | .evEpset _ _ => true
  | .evRevocationTablesDone _ => true
  | .evRevocationComplete _ => true
  | .evRotationWalkerStep _ _ => true
  | .evContextSwitchScrub _ => true
  | .evPartitionTableWrite _ _ => true
  | .evJobKeyRegister _ _ => true
  | .evTdispLock _ => true
  | .evTdispStart _ => true
  | .evTdispStop _ => true
  | .evBandwidthRefill _ => true
  | .evPowerInterval _ => true
  | .evPowerFloorWrite _ _ => true
  | .evOverCurrentWarning _ => true
  | .evThermalThrottle _ => true
  | .evThermalStop _ => true
  | .evThermalPowerOff => true
  | .evPreempt _ _ => true
  | .evEvict _ _ => true
  | .evRestore _ _ => true
  | .evGraceTimerExpiry _ => true
  | .evKillTimerExpiry _ => true
  | .evCheckpointWrite _ _ => true
  | .evPlannerPass _ => true
  | .evEvictionKillTime _ => true
  | .evFlr _ => true
  | .evFlrDrainBound _ => true
  | .evDebugHalt _ _ => true
  | .evDebugStep _ => true
  | .evBreakpointArm _ _ => true
  | .evEngineFreeze _ _ => true
  | .evContextStateError _ => true
  | .evL1ParityDrop _ _ _ => true
  | .evPowerOn => true
  | .evPfReset => true
  | .evBootlen _ => true
  | .evImageCheck _ _ => true
  | .evRecordCheck _ => true
  | .evStraitTraining _ => true
  | .evStraitAttest _ _ => true
  | .evKeyUpdate _ => true
  | .evStraitGroupFailure _ => true
  | .evStraitClose _ => true
  | .evPodTickSync _ => true
  | .evHostPortRequest _ _ _ _ _ => true
  | .evWriteThroughReachesHome _ _ => true
  | .evMessageAcknowledged _ _ _ _ => true

/-- The cause of a queue name in a field that forbids it (0x004), or of a register in a field that requires a queue (0x007):
step 7 of R86. In VM words the base field stands below the q field, so 0x004 comes first. -/
def Instr.queueCause : Instr → Option Cause
  | .add _ => none
  | .adds _ => none
  | .sub _ => none
  | .subs _ => none
  | .mul _ => none
  | .mulh _ => none
  | .mulhu _ => none
  | .div _ => none
  | .divu _ => none
  | .rem _ => none
  | .remu _ => none
  | .and _ => none
  | .or _ => none
  | .xor _ => none
  | .andn _ => none
  | .shl _ => none
  | .shr _ => none
  | .sra _ => none
  | .rol _ => none
  | .min _ => none
  | .minu _ => none
  | .max _ => none
  | .maxu _ => none
  | .slt _ => none
  | .sltu _ => none
  | .seq _ => none
  | .sne _ => none
  | .cmov f => if isQ f.d then some 0x004 else none
  | .clz _ => none
  | .ctz _ => none
  | .popc _ => none
  | .brev _ => none
  | .sextB _ => none
  | .sextH _ => none
  | .sextW _ => none
  | .zextB _ => none
  | .zextH _ => none
  | .zextW _ => none
  | .abs _ => none
  | .neg _ => none
  | .addi _ => none
  | .andi _ => none
  | .ori _ => none
  | .xori _ => none
  | .shli _ => none
  | .shri _ => none
  | .srai _ => none
  | .slti _ => none
  | .sltiu _ => none
  | .bfx _ => none
  | .bfi f => if isQ f.d then some 0x004 else none
  | .li _ => none
  | .lis _ => none
  | .addl _ => none
  | .fadd _ => none
  | .fsub _ => none
  | .fmul _ => none
  | .fma f => if isQ f.d then some 0x004 else none
  | .fdiv _ => none
  | .fmin _ => none
  | .fmax _ => none
  | .flt _ => none
  | .fle _ => none
  | .feq _ => none
  | .fsqrt _ => none
  | .fabs _ => none
  | .fneg _ => none
  | .fcvti _ => none
  | .fcvtiz _ => none
  | .fcvtf _ => none
  | .fcvtfu _ => none
  | .fclass _ => none
  | .pand _ => none
  | .por _ => none
  | .pxor _ => none
  | .pnot _ => none
  | .pfrom _ => none
  | .pto _ => none
  | .fset _ => none
  | .frd _ => none
  | .br _ => none
  | .bz _ => none
  | .bnz _ => none
  | .bltz _ => none
  | .bgez _ => none
  | .jl f => if isQ f.d || isQ f.a then some 0x004 else none
  | .brl f => if isQ f.d then some 0x004 else none
  | .loop _ => none
  | .loopi _ => none
  | .trap _ => none
  | .svc _ => none
  | .eret => none
  | .brk _ => none
  | .ld f => if isQ f.b then some 0x004 else none
  | .ldu f => if isQ f.b then some 0x004 else none
  | .st f => if isQ f.b then some 0x004 else none
  | .lds f => if isQ f.b then some 0x004 else none
  | .sts f => if isQ f.b then some 0x004 else none
  | .lda f => if isQ f.b then some 0x004 else none
  | .stl f => if isQ f.b then some 0x004 else none
  | .aadd f => if isQ f.b || (!f.nr && isQ f.t) then some 0x004 else none
  | .aand f => if isQ f.b || (!f.nr && isQ f.t) then some 0x004 else none
  | .aor f => if isQ f.b || (!f.nr && isQ f.t) then some 0x004 else none
  | .axor f => if isQ f.b || (!f.nr && isQ f.t) then some 0x004 else none
  | .amin f => if isQ f.b || (!f.nr && isQ f.t) then some 0x004 else none
  | .amax f => if isQ f.b || (!f.nr && isQ f.t) then some 0x004 else none
  | .aminu f => if isQ f.b || (!f.nr && isQ f.t) then some 0x004 else none
  | .amaxu f => if isQ f.b || (!f.nr && isQ f.t) then some 0x004 else none
  | .aswp f => if isQ f.b || (!f.nr && isQ f.t) then some 0x004 else none
  | .acas f => if isQ f.b || (!f.nr && isQ f.t) then some 0x004 else none
  | .afadd f => if isQ f.b || (!f.nr && isQ f.t) then some 0x004 else none
  | .waita f => if isQ f.b || (f.sus && (isQ f.t || isQ f.o || isQ f.d)) then some 0x004 else none
  | .fenceFull _ => none
  | .fenceAcq _ => none
  | .fenceRel _ => none
  | .fenceShoal _ => none
  | .fenceIo _ => none
  | .ldm f => if isQ f.b || isQ f.t then some 0x004 else none
  | .stm f => if isQ f.b || isQ f.t then some 0x004 else none
  | .cvta _ => none
  | .aspc _ => none
  | .finc _ => none
  | .fwait f => if f.sus && isQ f.v then some 0x004 else none
  | .vadd _ => none
  | .vsub _ => none
  | .vmul _ => none
  | .vfma f => if isQV f.vd then some 0x004 else none
  | .vfnma f => if isQV f.vd then some 0x004 else none
  | .vmin _ => none
  | .vmax _ => none
  | .vcmp _ => none
  | .vsel _ => none
  | .vbcast _ => none
  | .vmov _ => none
  | .vld f => if isQ f.b then some 0x004 else if isQV f.q then none else some 0x007
  | .vst f => if isQ f.b then some 0x004 else if isQV f.q then none else some 0x007
  | .vldg f => if isQ f.b then some 0x004 else if isQV f.q then none else some 0x007
  | .vsts f => if isQ f.b then some 0x004 else if isQV f.q then none else some 0x007
  | .vred _ => none
  | .vsett _ => none
  | .vperm _ => none
  | .vand _ => none
  | .vor _ => none
  | .vxor _ => none
  | .vnot _ => none
  | .vshl _ => none
  | .vshr _ => none
  | .vsra _ => none
  | .vabs _ => none
  | .vneg _ => none
  | .vdiv _ => none
  | .vsqrt _ => none
  | .vrcp _ => none
  | .vrsqrt _ => none
  | .vexp2 _ => none
  | .vlog2 _ => none
  | .vsinpi _ => none
  | .vcospi _ => none
  | .vtanh _ => none
  | .vcvt f => if vxNarrows f && isQV f.vd then some 0x004 else none
  | .vquant f => if isQV f.vd || isQV f.vb then some 0x004 else none
  | .vdeq f => if vxNarrows f && isQV f.vd then some 0x004 else none
  | .vpack f => if isQV f.vd then some 0x004 else none
  | .vunpk _ => none
  | .vslide _ => none
  | .vextr _ => none
  | .vins f => if isQV f.vd then some 0x004 else none
  | .viota _ => none
  | .vscan _ => none
  | .vclass _ => none
  | .mlease f => if isQ f.b then some 0x004 else none
  | .mrel _ => none
  | .mma f => if isQ f.ga || isQ f.gb || isQ f.gs || isQ f.gsa || isQ f.gsb then some 0x004 else none
  | .mmaq f => if isQ f.ga || isQ f.gb || isQ f.gs || isQ f.gsa || isQ f.gsb then some 0x004 else none
  | .mmv f => if isQ f.ga || isQ f.gb || isQ f.gs || isQ f.gsa || isQ f.gsb then some 0x004 else none
  | .mzero _ => none
  | .mdrain f => if isQ f.gt || isQ f.gs then some 0x004 else none
  | .mldacc f => if isQ f.gt || isQ f.gs then some 0x004 else none
  | .cpy f => if isQ f.gd || isQ f.gs || isQ f.gn then some 0x004 else none
  | .cpyg f => if isQ f.c.gd || isQ f.c.gs || isQ f.c.gn || isQ f.gi || isQ f.gc then some 0x004 else none
  | .cpys f => if isQ f.c.gd || isQ f.c.gs || isQ f.c.gn || isQ f.gi || isQ f.gc then some 0x004 else none
  | .cpyr f => if isQ f.c.gd || isQ f.c.gs || isQ f.c.gn then some 0x004 else none
  | .cfill f => if isQ f.gv || isQ f.gd || isQ f.gn then some 0x004 else none
  | .chbind f => if isQ f.go || isQ f.gl then some 0x004 else none
  | .chrd f => if isQ f.gp then some 0x004 else none
  | .chunb _ => none
  | .pkset _ => none
  | .xst f => if isQ f.gd || isQ f.gs || isQ f.gf || isQ f.gn then some 0x004 else none
  | .xld f => if isQ f.gd || isQ f.gs || isQ f.gn then some 0x004 else none
  | .xamo f => if isQ f.go || isQ f.gv || isQ f.gc || isQ f.gp then some 0x004 else none
  | .car f => if isQ f.gd || isQ f.gs || isQ f.gn || isQ f.groot then some 0x004 else none
  | .cag f => if isQ f.gd || isQ f.gs || isQ f.gn || isQ f.groot then some 0x004 else none
  | .crs f => if isQ f.gd || isQ f.gs || isQ f.gn || isQ f.groot then some 0x004 else none
  | .ca2a f => if isQ f.gd || isQ f.gs || isQ f.gn || isQ f.groot then some 0x004 else none
  | .cbc f => if isQ f.gd || isQ f.gs || isQ f.gn || isQ f.groot then some 0x004 else none
  | .cbar f => if isQ f.gn then some 0x004 else none
  | .nsend f => if isQ f.gp || isQ f.gs || isQ f.gt || isQ f.gn then some 0x004 else none
  | .nrecv f => if isQ f.gp || isQ f.gd || isQ f.gt || isQ f.gn || isQ f.gm then some 0x004 else none
  | .nwrite f => if isQ f.gp || isQ f.gl || isQ f.gr || isQ f.gn then some 0x004 else none
  | .nread f => if isQ f.gp || isQ f.gl || isQ f.gr || isQ f.gn then some 0x004 else none
  | .opwait f => if isQ f.d then some 0x004 else none
  | .optest f => if isQ f.d then some 0x004 else none
  | .opcancel f => if isQ f.d then some 0x004 else none
  | .opdetach f => if isQ f.d then some 0x004 else none
  | .opadopt f => if isQ f.a then some 0x004 else none
  | .oppri _ => none
  | .opfault f => if isQ f.d then some 0x004 else none
  | .oprel _ => none
  | .kdone _ => none
  | .kyield _ => none
  | .kspawn f => if isQ f.d || isQ f.w then some 0x004 else none
  | .krange f => if isQ f.d || isQ f.a || isQ f.b then some 0x004 else none
  | .knext f => if isQ f.d then some 0x004 else none
  | .widf f => if isQ f.d then some 0x004 else none
  | .depdec _ => none
  | .nextok _ => none
  | .prevwait _ => none
  | .bar _ => none
  | .hld f => if isQ f.b then some 0x004 else none
  | .hst f => if isQ f.b then some 0x004 else none
  | .hnarrow f => if isQ f.go || isQ f.gl then some 0x004 else none
  | .hinfo _ => none
  | .hchk f => if isQ f.a then some 0x004 else none
  | .hdrop _ => none
  | .hreq f => if isQ f.a then some 0x004 else none
  | .csrr _ => none
  | .csrw _ => none
  | .csrx _ => none
  | .pmcrd _ => none
  | .timerd _ => none
  | .evLongLatencyWriteback _ _ => none
  | .evShoalDrain _ _ => none
  | .evFaultService _ _ => none
  | .evTranslationHoldTimeout _ => none
  | .evPageRequestGroupSend => none
  | .evPriResponse _ _ => none
  | .evAtsInvalidation _ _ => none
  | .evWaitaWake _ => none
  | .evDecouplingDeadlock _ => none
  | .evTrapEntry _ => none
  | .evTokenIssueTimeout _ => none
  | .evFincArrival _ => none
  | .evFincRefusal _ => none
  | .evRemoteWriteApply _ => none
  | .evReleasePacketApply _ => none
  | .evRemoteWriteAck _ => none
  | .evMulticastRewrite _ _ => none
  | .evFabricPacketArrival _ _ _ _ _ => none
  | .evEscapeMove _ => none
  | .evLeaseGrant _ => none
  | .evIdlePossessionTimeout _ => none
  | .evLeaseRequestAging _ => none
  | .evLeaseReservationLapse _ => none
  | .evMatrixOpStart _ => none
  | .evMatrixBlockStep _ => none
  | .evMmvGroupStep _ => none
  | .evTileMoveStep _ => none
  | .evCopyStart _ _ => none
  | .evCopyStep _ _ => none
  | .evPksetStep _ => none
  | .evRemoteTransferStep _ _ _ => none
  | .evCollectiveStep _ _ => none
  | .evCbarComplete _ _ => none
  | .evMessageArrival _ _ _ _ _ => none
  | .evRemoteRegionAccess _ _ _ _ _ _ => none
  | .evEthernetRetryExhausted _ _ => none
  | .evEngineHeadAging _ _ => none
  | .evIssuePromotion _ _ => none
  | .evReadyEntryAging _ => none
  | .evWorkRequest _ => none
  | .evRangeTaskStart _ _ => none
  | .evContinuationResume _ _ => none
  | .evLaunchr _ _ _ => none
  | .evEnable _ => none
  | .evReset _ => none
  | .evDestroy _ => none
  | .evDestroyWithDeadline _ => none
  | .evDestroyDeadlineExpiry _ => none
  | .evPad _ => none
  | .evLaunch _ => none
  | .evFencePacket _ => none
  | .evFenceCountersMet _ => none
  | .evSignal _ => none
  | .evSignalPerform _ => none
  | .evGang _ => none
  | .evGangTickReached _ => none
  | .evIndirect _ => none
  | .evIndirectDispatch _ => none
  | .evTimestamp _ => none
  | .evTimestampWrite _ => none
  | .evNopPacket _ => none
  | .evFrontEndAccessFault _ _ => none
  | .evBundleResident _ _ => none
  | .evEarlyStart _ _ => none
  | .evXNodeReady _ _ _ => none
  | .evNodeRetire _ _ => none
  | .evBundleRetire _ => none
  | .evSkerryTakeEvent _ => none
  | .evHandlerWatchdog _ => none
  | .evEventRecordWrite => none
  | .evResseq _ => none
  | .evEvrridx _ => none
  | .evRegisterWrite _ _ _ _ => none
  | .evAlloc _ _ => none
  | .evMint _ _ => none
  | .evRevoke _ _ => none
  | .evFree _ _ => none
  | .evRotate _ _ => none
  | .evEpset _ _ => none
  | .evRevocationTablesDone _ => none
  | .evRevocationComplete _ => none
  | .evRotationWalkerStep _ _ => none
  | .evContextSwitchScrub _ => none
  | .evPartitionTableWrite _ _ => none
  | .evJobKeyRegister _ _ => none
  | .evTdispLock _ => none
  | .evTdispStart _ => none
  | .evTdispStop _ => none
  | .evBandwidthRefill _ => none
  | .evPowerInterval _ => none
  | .evPowerFloorWrite _ _ => none
  | .evOverCurrentWarning _ => none
  | .evThermalThrottle _ => none
  | .evThermalStop _ => none
  | .evThermalPowerOff => none
  | .evPreempt _ _ => none
  | .evEvict _ _ => none
  | .evRestore _ _ => none
  | .evGraceTimerExpiry _ => none
  | .evKillTimerExpiry _ => none
  | .evCheckpointWrite _ _ => none
  | .evPlannerPass _ => none
  | .evEvictionKillTime _ => none
  | .evFlr _ => none
  | .evFlrDrainBound _ => none
  | .evDebugHalt _ _ => none
  | .evDebugStep _ => none
  | .evBreakpointArm _ _ => none
  | .evEngineFreeze _ _ => none
  | .evContextStateError _ => none
  | .evL1ParityDrop _ _ _ => none
  | .evPowerOn => none
  | .evPfReset => none
  | .evBootlen _ => none
  | .evImageCheck _ _ => none
  | .evRecordCheck _ => none
  | .evStraitTraining _ => none
  | .evStraitAttest _ _ => none
  | .evKeyUpdate _ => none
  | .evStraitGroupFailure _ => none
  | .evStraitClose _ => none
  | .evPodTickSync _ => none
  | .evHostPortRequest _ _ _ _ _ => none
  | .evWriteThroughReachesHome _ _ => none
  | .evMessageAcknowledged _ _ _ _ => none

/-- A well-formed instruction: no check of steps 6 and 7 of R86 refuses it. -/
def Instr.wf (i : Instr) : Bool := i.valuesOk && i.queueCause.isNone

end Sys2Proof
end

