-- ==== Sys2Proof/Decode.lean ====
section
/-!
DEFINITION. The binary form of every instruction (R60–R101): the encoder, the field parser and the decoder with the checks of
R86 in their order. Decoding is total: every word sequence gives an instruction or a cause. The 125 rows of other agents'
steps have no words. The encoder stands first, since a reserved bit is exactly one that re-encoding does not reproduce.
-/

namespace Sys2Proof

open Sys2Proof

/-- The ring nibble as bits [31:28] (R61). -/
def Ring.bits (r : Ring) : BitVec 4 := BitVec.ofBool r.wp ++ BitVec.ofBool r.wn ++ BitVec.ofBool r.sp ++ BitVec.ofBool r.sn

/-- The ring nibble of word 0 (R61). -/
def Ring.ofBits (w : IWord) : Ring := ⟨w.getLsbD 31, w.getLsbD 30, w.getLsbD 29, w.getLsbD 28⟩

/-- The words of an instruction, with every reserved bit zero; no words for the step of another agent. -/
def encode : Instr → List IWord
  | .add f => [(f.ring.bits ++ 0x00#7 ++ f.d ++ f.a ++ f.b ++ BitVec.ofBool f.ta ++ BitVec.ofBool f.tb ++ 0#1 : IWord)]
  | .adds f => [(f.ring.bits ++ 0x00#7 ++ f.d ++ f.a ++ f.b ++ BitVec.ofBool f.ta ++ BitVec.ofBool f.tb ++ 1#1 : IWord)]
  | .sub f => [(f.ring.bits ++ 0x01#7 ++ f.d ++ f.a ++ f.b ++ BitVec.ofBool f.ta ++ BitVec.ofBool f.tb ++ 0#1 : IWord)]
  | .subs f => [(f.ring.bits ++ 0x01#7 ++ f.d ++ f.a ++ f.b ++ BitVec.ofBool f.ta ++ BitVec.ofBool f.tb ++ 1#1 : IWord)]
  | .mul f => [(f.ring.bits ++ 0x02#7 ++ f.d ++ f.a ++ f.b ++ BitVec.ofBool f.ta ++ BitVec.ofBool f.tb ++ 0#1 : IWord)]
  | .mulh f => [(f.ring.bits ++ 0x03#7 ++ f.d ++ f.a ++ f.b ++ BitVec.ofBool f.ta ++ BitVec.ofBool f.tb ++ 0#1 : IWord)]
  | .mulhu f => [(f.ring.bits ++ 0x03#7 ++ f.d ++ f.a ++ f.b ++ BitVec.ofBool f.ta ++ BitVec.ofBool f.tb ++ 1#1 : IWord)]
  | .div f => [(f.ring.bits ++ 0x04#7 ++ f.d ++ f.a ++ f.b ++ BitVec.ofBool f.ta ++ BitVec.ofBool f.tb ++ 0#1 : IWord)]
  | .divu f => [(f.ring.bits ++ 0x04#7 ++ f.d ++ f.a ++ f.b ++ BitVec.ofBool f.ta ++ BitVec.ofBool f.tb ++ 1#1 : IWord)]
  | .rem f => [(f.ring.bits ++ 0x05#7 ++ f.d ++ f.a ++ f.b ++ BitVec.ofBool f.ta ++ BitVec.ofBool f.tb ++ 0#1 : IWord)]
  | .remu f => [(f.ring.bits ++ 0x05#7 ++ f.d ++ f.a ++ f.b ++ BitVec.ofBool f.ta ++ BitVec.ofBool f.tb ++ 1#1 : IWord)]
  | .and f => [(f.ring.bits ++ 0x06#7 ++ f.d ++ f.a ++ f.b ++ BitVec.ofBool f.ta ++ BitVec.ofBool f.tb ++ 0#1 : IWord)]
  | .or f => [(f.ring.bits ++ 0x07#7 ++ f.d ++ f.a ++ f.b ++ BitVec.ofBool f.ta ++ BitVec.ofBool f.tb ++ 0#1 : IWord)]
  | .xor f => [(f.ring.bits ++ 0x08#7 ++ f.d ++ f.a ++ f.b ++ BitVec.ofBool f.ta ++ BitVec.ofBool f.tb ++ 0#1 : IWord)]
  | .andn f => [(f.ring.bits ++ 0x09#7 ++ f.d ++ f.a ++ f.b ++ BitVec.ofBool f.ta ++ BitVec.ofBool f.tb ++ 0#1 : IWord)]
  | .shl f => [(f.ring.bits ++ 0x0A#7 ++ f.d ++ f.a ++ f.b ++ BitVec.ofBool f.ta ++ BitVec.ofBool f.tb ++ 0#1 : IWord)]
  | .shr f => [(f.ring.bits ++ 0x0B#7 ++ f.d ++ f.a ++ f.b ++ BitVec.ofBool f.ta ++ BitVec.ofBool f.tb ++ 0#1 : IWord)]
  | .sra f => [(f.ring.bits ++ 0x0B#7 ++ f.d ++ f.a ++ f.b ++ BitVec.ofBool f.ta ++ BitVec.ofBool f.tb ++ 1#1 : IWord)]
  | .rol f => [(f.ring.bits ++ 0x0C#7 ++ f.d ++ f.a ++ f.b ++ BitVec.ofBool f.ta ++ BitVec.ofBool f.tb ++ 0#1 : IWord)]
  | .min f => [(f.ring.bits ++ 0x0D#7 ++ f.d ++ f.a ++ f.b ++ BitVec.ofBool f.ta ++ BitVec.ofBool f.tb ++ 0#1 : IWord)]
  | .minu f => [(f.ring.bits ++ 0x0D#7 ++ f.d ++ f.a ++ f.b ++ BitVec.ofBool f.ta ++ BitVec.ofBool f.tb ++ 1#1 : IWord)]
  | .max f => [(f.ring.bits ++ 0x0E#7 ++ f.d ++ f.a ++ f.b ++ BitVec.ofBool f.ta ++ BitVec.ofBool f.tb ++ 0#1 : IWord)]
  | .maxu f => [(f.ring.bits ++ 0x0E#7 ++ f.d ++ f.a ++ f.b ++ BitVec.ofBool f.ta ++ BitVec.ofBool f.tb ++ 1#1 : IWord)]
  | .slt f => [(f.ring.bits ++ 0x0F#7 ++ f.d ++ f.a ++ f.b ++ BitVec.ofBool f.ta ++ BitVec.ofBool f.tb ++ 0#1 : IWord)]
  | .sltu f => [(f.ring.bits ++ 0x0F#7 ++ f.d ++ f.a ++ f.b ++ BitVec.ofBool f.ta ++ BitVec.ofBool f.tb ++ 1#1 : IWord)]
  | .seq f => [(f.ring.bits ++ 0x10#7 ++ f.d ++ f.a ++ f.b ++ BitVec.ofBool f.ta ++ BitVec.ofBool f.tb ++ 0#1 : IWord)]
  | .sne f => [(f.ring.bits ++ 0x10#7 ++ f.d ++ f.a ++ f.b ++ BitVec.ofBool f.ta ++ BitVec.ofBool f.tb ++ 1#1 : IWord)]
  | .cmov f => [(f.ring.bits ++ 0x11#7 ++ f.d ++ f.a ++ f.b ++ BitVec.ofBool f.ta ++ BitVec.ofBool f.tb ++ 0#1 : IWord)]
  | .clz f => [(f.ring.bits ++ 0x12#7 ++ f.d ++ f.a ++ 0#6 ++ BitVec.ofBool f.ta ++ 0#1 ++ 0#1 : IWord)]
  | .ctz f => [(f.ring.bits ++ 0x12#7 ++ f.d ++ f.a ++ 1#6 ++ BitVec.ofBool f.ta ++ 0#1 ++ 0#1 : IWord)]
  | .popc f => [(f.ring.bits ++ 0x12#7 ++ f.d ++ f.a ++ 2#6 ++ BitVec.ofBool f.ta ++ 0#1 ++ 0#1 : IWord)]
  | .brev f => [(f.ring.bits ++ 0x12#7 ++ f.d ++ f.a ++ 3#6 ++ BitVec.ofBool f.ta ++ 0#1 ++ 0#1 : IWord)]
  | .sextB f => [(f.ring.bits ++ 0x12#7 ++ f.d ++ f.a ++ 4#6 ++ BitVec.ofBool f.ta ++ 0#1 ++ 0#1 : IWord)]
  | .sextH f => [(f.ring.bits ++ 0x12#7 ++ f.d ++ f.a ++ 5#6 ++ BitVec.ofBool f.ta ++ 0#1 ++ 0#1 : IWord)]
  | .sextW f => [(f.ring.bits ++ 0x12#7 ++ f.d ++ f.a ++ 6#6 ++ BitVec.ofBool f.ta ++ 0#1 ++ 0#1 : IWord)]
  | .zextB f => [(f.ring.bits ++ 0x12#7 ++ f.d ++ f.a ++ 7#6 ++ BitVec.ofBool f.ta ++ 0#1 ++ 0#1 : IWord)]
  | .zextH f => [(f.ring.bits ++ 0x12#7 ++ f.d ++ f.a ++ 8#6 ++ BitVec.ofBool f.ta ++ 0#1 ++ 0#1 : IWord)]
  | .zextW f => [(f.ring.bits ++ 0x12#7 ++ f.d ++ f.a ++ 9#6 ++ BitVec.ofBool f.ta ++ 0#1 ++ 0#1 : IWord)]
  | .abs f => [(f.ring.bits ++ 0x12#7 ++ f.d ++ f.a ++ 10#6 ++ BitVec.ofBool f.ta ++ 0#1 ++ 0#1 : IWord)]
  | .neg f => [(f.ring.bits ++ 0x12#7 ++ f.d ++ f.a ++ 11#6 ++ BitVec.ofBool f.ta ++ 0#1 ++ 0#1 : IWord)]
  | .addi f => [(f.ring.bits ++ 0x13#7 ++ f.d ++ f.a ++ BitVec.ofBool f.ta ++ f.imm : IWord)]
  | .andi f => [(f.ring.bits ++ 0x14#7 ++ f.d ++ f.a ++ BitVec.ofBool f.ta ++ f.imm : IWord)]
  | .ori f => [(f.ring.bits ++ 0x15#7 ++ f.d ++ f.a ++ BitVec.ofBool f.ta ++ f.imm : IWord)]
  | .xori f => [(f.ring.bits ++ 0x16#7 ++ f.d ++ f.a ++ BitVec.ofBool f.ta ++ f.imm : IWord)]
  | .shli f => [(f.ring.bits ++ 0x17#7 ++ f.d ++ f.a ++ BitVec.ofBool f.ta ++ 0#2 ++ f.sh : IWord)]
  | .shri f => [(f.ring.bits ++ 0x18#7 ++ f.d ++ f.a ++ BitVec.ofBool f.ta ++ 0#2 ++ f.sh : IWord)]
  | .srai f => [(f.ring.bits ++ 0x18#7 ++ f.d ++ f.a ++ BitVec.ofBool f.ta ++ 1#2 ++ f.sh : IWord)]
  | .slti f => [(f.ring.bits ++ 0x19#7 ++ f.d ++ f.a ++ BitVec.ofBool f.ta ++ f.imm : IWord)]
  | .sltiu f => [(f.ring.bits ++ 0x1A#7 ++ f.d ++ f.a ++ BitVec.ofBool f.ta ++ f.imm : IWord)]
  | .bfx f => [(f.ring.bits ++ 0x1B#7 ++ f.d ++ f.a ++ BitVec.ofBool f.ta ++ 0#8 : IWord), (0#4 ++ 0#15 ++ BitVec.ofBool f.sx ++ f.wm1 ++ f.pos : IWord)]
  | .bfi f => [(f.ring.bits ++ 0x1C#7 ++ f.d ++ f.a ++ BitVec.ofBool f.ta ++ 0#8 : IWord), (0#4 ++ 0#15 ++ BitVec.ofBool f.sx ++ f.wm1 ++ f.pos : IWord)]
  | .li f => [(f.ring.bits ++ 0x1D#7 ++ f.d ++ 0#6 ++ 0#1 ++ 0#8 : IWord), (0#4 ++ f.imm : IWord)]
  | .lis f => [(f.ring.bits ++ 0x1E#7 ++ f.d ++ f.a ++ BitVec.ofBool f.ta ++ 0#8 : IWord), (0#4 ++ f.imm : IWord)]
  | .addl f => [(f.ring.bits ++ 0x1F#7 ++ f.d ++ f.a ++ BitVec.ofBool f.ta ++ 0#8 : IWord), (0#4 ++ f.imm : IWord)]
  | .fadd f => [(f.ring.bits ++ 0x20#7 ++ f.d ++ f.a ++ f.b ++ BitVec.ofBool f.ta ++ BitVec.ofBool f.tb ++ 0#1 : IWord)]
  | .fsub f => [(f.ring.bits ++ 0x20#7 ++ f.d ++ f.a ++ f.b ++ BitVec.ofBool f.ta ++ BitVec.ofBool f.tb ++ 1#1 : IWord)]
  | .fmul f => [(f.ring.bits ++ 0x21#7 ++ f.d ++ f.a ++ f.b ++ BitVec.ofBool f.ta ++ BitVec.ofBool f.tb ++ 0#1 : IWord)]
  | .fma f => [(f.ring.bits ++ 0x22#7 ++ f.d ++ f.a ++ f.b ++ BitVec.ofBool f.ta ++ BitVec.ofBool f.tb ++ 0#1 : IWord)]
  | .fdiv f => [(f.ring.bits ++ 0x23#7 ++ f.d ++ f.a ++ f.b ++ BitVec.ofBool f.ta ++ BitVec.ofBool f.tb ++ 0#1 : IWord)]
  | .fmin f => [(f.ring.bits ++ 0x24#7 ++ f.d ++ f.a ++ f.b ++ BitVec.ofBool f.ta ++ BitVec.ofBool f.tb ++ 0#1 : IWord)]
  | .fmax f => [(f.ring.bits ++ 0x24#7 ++ f.d ++ f.a ++ f.b ++ BitVec.ofBool f.ta ++ BitVec.ofBool f.tb ++ 1#1 : IWord)]
  | .flt f => [(f.ring.bits ++ 0x25#7 ++ f.d ++ f.a ++ f.b ++ BitVec.ofBool f.ta ++ BitVec.ofBool f.tb ++ 0#1 : IWord)]
  | .fle f => [(f.ring.bits ++ 0x25#7 ++ f.d ++ f.a ++ f.b ++ BitVec.ofBool f.ta ++ BitVec.ofBool f.tb ++ 1#1 : IWord)]
  | .feq f => [(f.ring.bits ++ 0x26#7 ++ f.d ++ f.a ++ f.b ++ BitVec.ofBool f.ta ++ BitVec.ofBool f.tb ++ 0#1 : IWord)]
  | .fsqrt f => [(f.ring.bits ++ 0x27#7 ++ f.d ++ f.a ++ 0#6 ++ BitVec.ofBool f.ta ++ 0#1 ++ 0#1 : IWord)]
  | .fabs f => [(f.ring.bits ++ 0x27#7 ++ f.d ++ f.a ++ 1#6 ++ BitVec.ofBool f.ta ++ 0#1 ++ 0#1 : IWord)]
  | .fneg f => [(f.ring.bits ++ 0x27#7 ++ f.d ++ f.a ++ 2#6 ++ BitVec.ofBool f.ta ++ 0#1 ++ 0#1 : IWord)]
  | .fcvti f => [(f.ring.bits ++ 0x27#7 ++ f.d ++ f.a ++ 3#6 ++ BitVec.ofBool f.ta ++ 0#1 ++ 0#1 : IWord)]
  | .fcvtiz f => [(f.ring.bits ++ 0x27#7 ++ f.d ++ f.a ++ 3#6 ++ BitVec.ofBool f.ta ++ 0#1 ++ 1#1 : IWord)]
  | .fcvtf f => [(f.ring.bits ++ 0x27#7 ++ f.d ++ f.a ++ 4#6 ++ BitVec.ofBool f.ta ++ 0#1 ++ 0#1 : IWord)]
  | .fcvtfu f => [(f.ring.bits ++ 0x27#7 ++ f.d ++ f.a ++ 4#6 ++ BitVec.ofBool f.ta ++ 0#1 ++ 1#1 : IWord)]
  | .fclass f => [(f.ring.bits ++ 0x27#7 ++ f.d ++ f.a ++ 5#6 ++ BitVec.ofBool f.ta ++ 0#1 ++ 0#1 : IWord)]
  | .pand f => [(f.ring.bits ++ 0x28#7 ++ 0#2 ++ f.pd ++ 0#2 ++ f.pa ++ 0#2 ++ f.pb ++ 0#6 : IWord)]
  | .por f => [(f.ring.bits ++ 0x29#7 ++ 0#2 ++ f.pd ++ 0#2 ++ f.pa ++ 0#2 ++ f.pb ++ 0#6 : IWord)]
  | .pxor f => [(f.ring.bits ++ 0x2A#7 ++ 0#2 ++ f.pd ++ 0#2 ++ f.pa ++ 0#2 ++ f.pb ++ 0#6 : IWord)]
  | .pnot f => [(f.ring.bits ++ 0x2B#7 ++ 0#2 ++ f.pd ++ 0#2 ++ f.pa ++ 0#2 ++ 0#3 ++ 0#6 : IWord)]
  | .pfrom f => [(f.ring.bits ++ 0x2C#7 ++ f.pd ++ f.n ++ BitVec.ofBool f.tq ++ f.j ++ BitVec.ofBool f.z ++ 0#12 : IWord)]
  | .pto f => [(f.ring.bits ++ 0x2D#7 ++ f.ps ++ f.n ++ 0#1 ++ f.j ++ 0#13 : IWord)]
  | .fset f => [(f.ring.bits ++ 0x2E#7 ++ f.f ++ BitVec.ofBool f.tf ++ f.v ++ BitVec.ofBool f.tv ++ 0#7 : IWord)]
  | .frd f => [(f.ring.bits ++ 0x2F#7 ++ f.d ++ f.f ++ BitVec.ofBool f.tf ++ 0#8 : IWord)]
  | .br f => [(f.ring.bits ++ 0x30#7 ++ 0#7 ++ f.off : IWord)]
  | .bz f => [(f.ring.bits ++ 0x31#7 ++ f.a ++ BitVec.ofBool f.ta ++ f.off : IWord)]
  | .bnz f => [(f.ring.bits ++ 0x32#7 ++ f.a ++ BitVec.ofBool f.ta ++ f.off : IWord)]
  | .bltz f => [(f.ring.bits ++ 0x33#7 ++ f.a ++ BitVec.ofBool f.ta ++ f.off : IWord)]
  | .bgez f => [(f.ring.bits ++ 0x34#7 ++ f.a ++ BitVec.ofBool f.ta ++ f.off : IWord)]
  | .jl f => [(f.ring.bits ++ 0x35#7 ++ f.d ++ f.a ++ 0#6 ++ BitVec.ofBool f.ta ++ 0#1 ++ 0#1 : IWord)]
  | .brl f => [(f.ring.bits ++ 0x36#7 ++ f.d ++ 0#6 ++ 0#1 ++ 0#8 : IWord), (0#4 ++ f.imm : IWord)]
  | .loop f => [(f.ring.bits ++ 0x37#7 ++ f.a ++ BitVec.ofBool f.ta ++ 0#3 ++ f.endo : IWord)]
  | .loopi f => [(f.ring.bits ++ 0x38#7 ++ f.count ++ f.endo : IWord)]
  | .trap f => [(f.ring.bits ++ 0x39#7 ++ 0#11 ++ f.code : IWord)]
  | .svc f => [(f.ring.bits ++ 0x3A#7 ++ 0#9 ++ f.svc : IWord)]
  | .eret => [(0#4 ++ 0x3B#7 ++ 0#21 : IWord)]
  | .brk f => [(0#4 ++ 0x3C#7 ++ 0#11 ++ f.tag : IWord)]
  | .ld f => [(f.ring.bits ++ 0x40#7 ++ f.t ++ f.b ++ BitVec.ofBool f.tt ++ BitVec.ofBool f.tb ++ f.sz ++ f.m : IWord)]
  | .ldu f => [(f.ring.bits ++ 0x41#7 ++ f.t ++ f.b ++ BitVec.ofBool f.tt ++ BitVec.ofBool f.tb ++ f.sz ++ f.m : IWord)]
  | .st f => [(f.ring.bits ++ 0x42#7 ++ f.t ++ f.b ++ BitVec.ofBool f.tt ++ BitVec.ofBool f.tb ++ f.sz ++ f.m : IWord)]
  | .lds f => [(f.ring.bits ++ 0x43#7 ++ f.t ++ f.b ++ BitVec.ofBool f.tt ++ BitVec.ofBool f.tb ++ f.sz ++ f.sc ++ 0#3 : IWord)]
  | .sts f => [(f.ring.bits ++ 0x44#7 ++ f.t ++ f.b ++ BitVec.ofBool f.tt ++ BitVec.ofBool f.tb ++ f.sz ++ f.sc ++ 0#3 : IWord)]
  | .lda f => [(f.ring.bits ++ 0x45#7 ++ f.t ++ f.b ++ BitVec.ofBool f.tt ++ BitVec.ofBool f.tb ++ f.sz ++ f.sc ++ 0#3 : IWord)]
  | .stl f => [(f.ring.bits ++ 0x46#7 ++ f.t ++ f.b ++ BitVec.ofBool f.tt ++ BitVec.ofBool f.tb ++ f.sz ++ f.sc ++ 0#3 : IWord)]
  | .aadd f => [(f.ring.bits ++ 0x47#7 ++ f.t ++ f.b ++ BitVec.ofBool f.tt ++ BitVec.ofBool f.tb ++ 0#7 : IWord), (0#4 ++ 0#4 ++ f.sc ++ f.ord ++ f.c ++ BitVec.ofBool f.tc ++ 1#1 ++ BitVec.ofBool f.dbl ++ BitVec.ofBool f.nr ++ 0#10 : IWord)]
  | .aand f => [(f.ring.bits ++ 0x47#7 ++ f.t ++ f.b ++ BitVec.ofBool f.tt ++ BitVec.ofBool f.tb ++ 0#7 : IWord), (0#4 ++ 1#4 ++ f.sc ++ f.ord ++ f.c ++ BitVec.ofBool f.tc ++ 1#1 ++ BitVec.ofBool f.dbl ++ BitVec.ofBool f.nr ++ 0#10 : IWord)]
  | .aor f => [(f.ring.bits ++ 0x47#7 ++ f.t ++ f.b ++ BitVec.ofBool f.tt ++ BitVec.ofBool f.tb ++ 0#7 : IWord), (0#4 ++ 2#4 ++ f.sc ++ f.ord ++ f.c ++ BitVec.ofBool f.tc ++ 1#1 ++ BitVec.ofBool f.dbl ++ BitVec.ofBool f.nr ++ 0#10 : IWord)]
  | .axor f => [(f.ring.bits ++ 0x47#7 ++ f.t ++ f.b ++ BitVec.ofBool f.tt ++ BitVec.ofBool f.tb ++ 0#7 : IWord), (0#4 ++ 3#4 ++ f.sc ++ f.ord ++ f.c ++ BitVec.ofBool f.tc ++ 1#1 ++ BitVec.ofBool f.dbl ++ BitVec.ofBool f.nr ++ 0#10 : IWord)]
  | .amin f => [(f.ring.bits ++ 0x47#7 ++ f.t ++ f.b ++ BitVec.ofBool f.tt ++ BitVec.ofBool f.tb ++ 0#7 : IWord), (0#4 ++ 4#4 ++ f.sc ++ f.ord ++ f.c ++ BitVec.ofBool f.tc ++ 1#1 ++ BitVec.ofBool f.dbl ++ BitVec.ofBool f.nr ++ 0#10 : IWord)]
  | .amax f => [(f.ring.bits ++ 0x47#7 ++ f.t ++ f.b ++ BitVec.ofBool f.tt ++ BitVec.ofBool f.tb ++ 0#7 : IWord), (0#4 ++ 5#4 ++ f.sc ++ f.ord ++ f.c ++ BitVec.ofBool f.tc ++ 1#1 ++ BitVec.ofBool f.dbl ++ BitVec.ofBool f.nr ++ 0#10 : IWord)]
  | .aminu f => [(f.ring.bits ++ 0x47#7 ++ f.t ++ f.b ++ BitVec.ofBool f.tt ++ BitVec.ofBool f.tb ++ 0#7 : IWord), (0#4 ++ 6#4 ++ f.sc ++ f.ord ++ f.c ++ BitVec.ofBool f.tc ++ 1#1 ++ BitVec.ofBool f.dbl ++ BitVec.ofBool f.nr ++ 0#10 : IWord)]
  | .amaxu f => [(f.ring.bits ++ 0x47#7 ++ f.t ++ f.b ++ BitVec.ofBool f.tt ++ BitVec.ofBool f.tb ++ 0#7 : IWord), (0#4 ++ 7#4 ++ f.sc ++ f.ord ++ f.c ++ BitVec.ofBool f.tc ++ 1#1 ++ BitVec.ofBool f.dbl ++ BitVec.ofBool f.nr ++ 0#10 : IWord)]
  | .aswp f => [(f.ring.bits ++ 0x47#7 ++ f.t ++ f.b ++ BitVec.ofBool f.tt ++ BitVec.ofBool f.tb ++ 0#7 : IWord), (0#4 ++ 8#4 ++ f.sc ++ f.ord ++ f.c ++ BitVec.ofBool f.tc ++ 1#1 ++ BitVec.ofBool f.dbl ++ BitVec.ofBool f.nr ++ 0#10 : IWord)]
  | .acas f => [(f.ring.bits ++ 0x47#7 ++ f.t ++ f.b ++ BitVec.ofBool f.tt ++ BitVec.ofBool f.tb ++ 0#7 : IWord), (0#4 ++ 9#4 ++ f.sc ++ f.ord ++ f.c ++ BitVec.ofBool f.tc ++ 1#1 ++ BitVec.ofBool f.dbl ++ BitVec.ofBool f.nr ++ 0#10 : IWord)]
  | .afadd f => [(f.ring.bits ++ 0x47#7 ++ f.t ++ f.b ++ BitVec.ofBool f.tt ++ BitVec.ofBool f.tb ++ 0#7 : IWord), (0#4 ++ 10#4 ++ f.sc ++ f.ord ++ f.c ++ BitVec.ofBool f.tc ++ 1#1 ++ BitVec.ofBool f.dbl ++ BitVec.ofBool f.nr ++ 0#10 : IWord)]
  | .waita f => [(f.ring.bits ++ 0x48#7 ++ f.t ++ f.b ++ BitVec.ofBool f.tt ++ BitVec.ofBool f.tb ++ 1#1 ++ BitVec.ofBool f.dbl ++ 0#5 : IWord), (0#4 ++ f.cond ++ f.sc ++ BitVec.ofBool f.acq ++ f.o ++ BitVec.ofBool f.te ++ BitVec.ofBool f.sus ++ f.d ++ 0#8 : IWord)]
  | .fenceFull f => [(f.ring.bits ++ 0x49#7 ++ 0#16 ++ f.sc ++ 0#3 : IWord)]
  | .fenceAcq f => [(f.ring.bits ++ 0x49#7 ++ 0#16 ++ f.sc ++ 1#3 : IWord)]
  | .fenceRel f => [(f.ring.bits ++ 0x49#7 ++ 0#16 ++ f.sc ++ 2#3 : IWord)]
  | .fenceShoal f => [(f.ring.bits ++ 0x49#7 ++ 0#16 ++ 0#2 ++ 3#3 : IWord)]
  | .fenceIo f => [(f.ring.bits ++ 0x49#7 ++ 0#16 ++ 0#2 ++ 4#3 : IWord)]
  | .ldm f => [(f.ring.bits ++ 0x4A#7 ++ f.t ++ f.b ++ BitVec.ofBool f.tt ++ BitVec.ofBool f.tb ++ 3#2 ++ 0#1 ++ f.m : IWord)]
  | .stm f => [(f.ring.bits ++ 0x4B#7 ++ f.t ++ f.b ++ BitVec.ofBool f.tt ++ BitVec.ofBool f.tb ++ 3#2 ++ 0#1 ++ f.m : IWord)]
  | .cvta f => [(f.ring.bits ++ 0x4C#7 ++ f.d ++ f.a ++ f.b ++ BitVec.ofBool f.ta ++ BitVec.ofBool f.tb ++ 0#1 : IWord)]
  | .aspc f => [(f.ring.bits ++ 0x4D#7 ++ f.d ++ f.a ++ f.b ++ BitVec.ofBool f.ta ++ BitVec.ofBool f.tb ++ 0#1 : IWord)]
  | .finc f => [(f.ring.bits ++ 0x4E#7 ++ f.f ++ BitVec.ofBool f.tf ++ f.v ++ BitVec.ofBool f.tv ++ 0#7 : IWord)]
  | .fwait f => [(f.ring.bits ++ 0x4F#7 ++ f.f ++ BitVec.ofBool f.tf ++ f.v ++ BitVec.ofBool f.tv ++ f.cond ++ BitVec.ofBool f.sus ++ 0#3 : IWord)]
  | .vadd f => [(f.ring.bits ++ 0x50#7 ++ f.vd ++ f.va ++ f.vb ++ BitVec.ofBool f.ta ++ BitVec.ofBool f.tb ++ f.p ++ 0#1 : IWord)]
  | .vsub f => [(f.ring.bits ++ 0x50#7 ++ f.vd ++ f.va ++ f.vb ++ BitVec.ofBool f.ta ++ BitVec.ofBool f.tb ++ f.p ++ 1#1 : IWord)]
  | .vmul f => [(f.ring.bits ++ 0x51#7 ++ f.vd ++ f.va ++ f.vb ++ BitVec.ofBool f.ta ++ BitVec.ofBool f.tb ++ f.p ++ 0#1 : IWord)]
  | .vfma f => [(f.ring.bits ++ 0x52#7 ++ f.vd ++ f.va ++ f.vb ++ BitVec.ofBool f.ta ++ BitVec.ofBool f.tb ++ f.p ++ 0#1 : IWord)]
  | .vfnma f => [(f.ring.bits ++ 0x52#7 ++ f.vd ++ f.va ++ f.vb ++ BitVec.ofBool f.ta ++ BitVec.ofBool f.tb ++ f.p ++ 1#1 : IWord)]
  | .vmin f => [(f.ring.bits ++ 0x53#7 ++ f.vd ++ f.va ++ f.vb ++ BitVec.ofBool f.ta ++ BitVec.ofBool f.tb ++ f.p ++ 0#1 : IWord)]
  | .vmax f => [(f.ring.bits ++ 0x53#7 ++ f.vd ++ f.va ++ f.vb ++ BitVec.ofBool f.ta ++ BitVec.ofBool f.tb ++ f.p ++ 1#1 : IWord)]
  | .vcmp f => [(f.ring.bits ++ 0x54#7 ++ f.c.extractLsb' 1 2 ++ f.pd ++ f.va ++ f.vb ++ BitVec.ofBool f.ta ++ BitVec.ofBool f.tb ++ f.p ++ f.c.extractLsb' 0 1 : IWord)]
  | .vsel f => [(f.ring.bits ++ 0x55#7 ++ f.vd ++ f.va ++ f.vb ++ BitVec.ofBool f.ta ++ BitVec.ofBool f.tb ++ f.p ++ 0#1 : IWord)]
  | .vbcast f => [(f.ring.bits ++ 0x56#7 ++ f.vd ++ f.s ++ 0#4 ++ BitVec.ofBool f.ts ++ 0#1 ++ f.p ++ 0#1 : IWord)]
  | .vmov f => [(f.ring.bits ++ 0x57#7 ++ f.vd ++ f.va ++ 0#5 ++ BitVec.ofBool f.ta ++ 0#1 ++ f.p ++ 0#1 : IWord)]
  | .vld f => [(f.ring.bits ++ 0x58#7 ++ f.q ++ f.b ++ BitVec.ofBool f.tb ++ BitVec.ofBool f.dc ++ f.off : IWord)]
  | .vst f => [(f.ring.bits ++ 0x59#7 ++ f.q ++ f.b ++ BitVec.ofBool f.tb ++ BitVec.ofBool f.dc ++ f.off : IWord)]
  | .vldg f => [(f.ring.bits ++ 0x5A#7 ++ f.q ++ f.b ++ BitVec.ofBool f.tb ++ 0#1 ++ 0#6 ++ f.sz : IWord)]
  | .vsts f => [(f.ring.bits ++ 0x5B#7 ++ f.q ++ f.b ++ BitVec.ofBool f.tb ++ 0#1 ++ 0#6 ++ f.sz : IWord)]
  | .vred f => [(f.ring.bits ++ 0x5C#7 ++ f.vd ++ f.va ++ 0#3 ++ f.op ++ BitVec.ofBool f.ta ++ 0#1 ++ f.p ++ 0#1 : IWord)]
  | .vsett f => [(f.ring.bits ++ 0x5D#7 ++ 0#1 ++ f.type ++ f.rnd ++ f.ovf ++ 0#12 : IWord)]
  | .vperm f => [(f.ring.bits ++ 0x5E#7 ++ f.vd ++ f.va ++ f.vb ++ BitVec.ofBool f.ta ++ BitVec.ofBool f.tb ++ f.p ++ 0#1 : IWord)]
  | .vand f => [(f.ring.bits ++ 0x5F#7 ++ f.vd ++ f.va ++ f.vb ++ BitVec.ofBool f.ta ++ BitVec.ofBool f.tb ++ f.p ++ BitVec.ofBool f.x : IWord), (0#4 ++ 0#8 ++ f.rnd ++ f.ovf ++ f.dt ++ f.st ++ f.imm : IWord)]
  | .vor f => [(f.ring.bits ++ 0x5F#7 ++ f.vd ++ f.va ++ f.vb ++ BitVec.ofBool f.ta ++ BitVec.ofBool f.tb ++ f.p ++ BitVec.ofBool f.x : IWord), (0#4 ++ 1#8 ++ f.rnd ++ f.ovf ++ f.dt ++ f.st ++ f.imm : IWord)]
  | .vxor f => [(f.ring.bits ++ 0x5F#7 ++ f.vd ++ f.va ++ f.vb ++ BitVec.ofBool f.ta ++ BitVec.ofBool f.tb ++ f.p ++ BitVec.ofBool f.x : IWord), (0#4 ++ 2#8 ++ f.rnd ++ f.ovf ++ f.dt ++ f.st ++ f.imm : IWord)]
  | .vnot f => [(f.ring.bits ++ 0x5F#7 ++ f.vd ++ f.va ++ f.vb ++ BitVec.ofBool f.ta ++ BitVec.ofBool f.tb ++ f.p ++ BitVec.ofBool f.x : IWord), (0#4 ++ 3#8 ++ f.rnd ++ f.ovf ++ f.dt ++ f.st ++ f.imm : IWord)]
  | .vshl f => [(f.ring.bits ++ 0x5F#7 ++ f.vd ++ f.va ++ f.vb ++ BitVec.ofBool f.ta ++ BitVec.ofBool f.tb ++ f.p ++ BitVec.ofBool f.x : IWord), (0#4 ++ 4#8 ++ f.rnd ++ f.ovf ++ f.dt ++ f.st ++ f.imm : IWord)]
  | .vshr f => [(f.ring.bits ++ 0x5F#7 ++ f.vd ++ f.va ++ f.vb ++ BitVec.ofBool f.ta ++ BitVec.ofBool f.tb ++ f.p ++ BitVec.ofBool f.x : IWord), (0#4 ++ 5#8 ++ f.rnd ++ f.ovf ++ f.dt ++ f.st ++ f.imm : IWord)]
  | .vsra f => [(f.ring.bits ++ 0x5F#7 ++ f.vd ++ f.va ++ f.vb ++ BitVec.ofBool f.ta ++ BitVec.ofBool f.tb ++ f.p ++ BitVec.ofBool f.x : IWord), (0#4 ++ 6#8 ++ f.rnd ++ f.ovf ++ f.dt ++ f.st ++ f.imm : IWord)]
  | .vabs f => [(f.ring.bits ++ 0x5F#7 ++ f.vd ++ f.va ++ f.vb ++ BitVec.ofBool f.ta ++ BitVec.ofBool f.tb ++ f.p ++ BitVec.ofBool f.x : IWord), (0#4 ++ 7#8 ++ f.rnd ++ f.ovf ++ f.dt ++ f.st ++ f.imm : IWord)]
  | .vneg f => [(f.ring.bits ++ 0x5F#7 ++ f.vd ++ f.va ++ f.vb ++ BitVec.ofBool f.ta ++ BitVec.ofBool f.tb ++ f.p ++ BitVec.ofBool f.x : IWord), (0#4 ++ 8#8 ++ f.rnd ++ f.ovf ++ f.dt ++ f.st ++ f.imm : IWord)]
  | .vdiv f => [(f.ring.bits ++ 0x5F#7 ++ f.vd ++ f.va ++ f.vb ++ BitVec.ofBool f.ta ++ BitVec.ofBool f.tb ++ f.p ++ BitVec.ofBool f.x : IWord), (0#4 ++ 16#8 ++ f.rnd ++ f.ovf ++ f.dt ++ f.st ++ f.imm : IWord)]
  | .vsqrt f => [(f.ring.bits ++ 0x5F#7 ++ f.vd ++ f.va ++ f.vb ++ BitVec.ofBool f.ta ++ BitVec.ofBool f.tb ++ f.p ++ BitVec.ofBool f.x : IWord), (0#4 ++ 17#8 ++ f.rnd ++ f.ovf ++ f.dt ++ f.st ++ f.imm : IWord)]
  | .vrcp f => [(f.ring.bits ++ 0x5F#7 ++ f.vd ++ f.va ++ f.vb ++ BitVec.ofBool f.ta ++ BitVec.ofBool f.tb ++ f.p ++ BitVec.ofBool f.x : IWord), (0#4 ++ 18#8 ++ f.rnd ++ f.ovf ++ f.dt ++ f.st ++ f.imm : IWord)]
  | .vrsqrt f => [(f.ring.bits ++ 0x5F#7 ++ f.vd ++ f.va ++ f.vb ++ BitVec.ofBool f.ta ++ BitVec.ofBool f.tb ++ f.p ++ BitVec.ofBool f.x : IWord), (0#4 ++ 19#8 ++ f.rnd ++ f.ovf ++ f.dt ++ f.st ++ f.imm : IWord)]
  | .vexp2 f => [(f.ring.bits ++ 0x5F#7 ++ f.vd ++ f.va ++ f.vb ++ BitVec.ofBool f.ta ++ BitVec.ofBool f.tb ++ f.p ++ BitVec.ofBool f.x : IWord), (0#4 ++ 20#8 ++ f.rnd ++ f.ovf ++ f.dt ++ f.st ++ f.imm : IWord)]
  | .vlog2 f => [(f.ring.bits ++ 0x5F#7 ++ f.vd ++ f.va ++ f.vb ++ BitVec.ofBool f.ta ++ BitVec.ofBool f.tb ++ f.p ++ BitVec.ofBool f.x : IWord), (0#4 ++ 21#8 ++ f.rnd ++ f.ovf ++ f.dt ++ f.st ++ f.imm : IWord)]
  | .vsinpi f => [(f.ring.bits ++ 0x5F#7 ++ f.vd ++ f.va ++ f.vb ++ BitVec.ofBool f.ta ++ BitVec.ofBool f.tb ++ f.p ++ BitVec.ofBool f.x : IWord), (0#4 ++ 22#8 ++ f.rnd ++ f.ovf ++ f.dt ++ f.st ++ f.imm : IWord)]
  | .vcospi f => [(f.ring.bits ++ 0x5F#7 ++ f.vd ++ f.va ++ f.vb ++ BitVec.ofBool f.ta ++ BitVec.ofBool f.tb ++ f.p ++ BitVec.ofBool f.x : IWord), (0#4 ++ 23#8 ++ f.rnd ++ f.ovf ++ f.dt ++ f.st ++ f.imm : IWord)]
  | .vtanh f => [(f.ring.bits ++ 0x5F#7 ++ f.vd ++ f.va ++ f.vb ++ BitVec.ofBool f.ta ++ BitVec.ofBool f.tb ++ f.p ++ BitVec.ofBool f.x : IWord), (0#4 ++ 24#8 ++ f.rnd ++ f.ovf ++ f.dt ++ f.st ++ f.imm : IWord)]
  | .vcvt f => [(f.ring.bits ++ 0x5F#7 ++ f.vd ++ f.va ++ f.vb ++ BitVec.ofBool f.ta ++ BitVec.ofBool f.tb ++ f.p ++ BitVec.ofBool f.x : IWord), (0#4 ++ 32#8 ++ f.rnd ++ f.ovf ++ f.dt ++ f.st ++ f.imm : IWord)]
  | .vquant f => [(f.ring.bits ++ 0x5F#7 ++ f.vd ++ f.va ++ f.vb ++ BitVec.ofBool f.ta ++ BitVec.ofBool f.tb ++ f.p ++ BitVec.ofBool f.x : IWord), (0#4 ++ 33#8 ++ f.rnd ++ f.ovf ++ f.dt ++ f.st ++ f.imm : IWord)]
  | .vdeq f => [(f.ring.bits ++ 0x5F#7 ++ f.vd ++ f.va ++ f.vb ++ BitVec.ofBool f.ta ++ BitVec.ofBool f.tb ++ f.p ++ BitVec.ofBool f.x : IWord), (0#4 ++ 34#8 ++ f.rnd ++ f.ovf ++ f.dt ++ f.st ++ f.imm : IWord)]
  | .vpack f => [(f.ring.bits ++ 0x5F#7 ++ f.vd ++ f.va ++ f.vb ++ BitVec.ofBool f.ta ++ BitVec.ofBool f.tb ++ f.p ++ BitVec.ofBool f.x : IWord), (0#4 ++ 35#8 ++ f.rnd ++ f.ovf ++ f.dt ++ f.st ++ f.imm : IWord)]
  | .vunpk f => [(f.ring.bits ++ 0x5F#7 ++ f.vd ++ f.va ++ f.vb ++ BitVec.ofBool f.ta ++ BitVec.ofBool f.tb ++ f.p ++ BitVec.ofBool f.x : IWord), (0#4 ++ 36#8 ++ f.rnd ++ f.ovf ++ f.dt ++ f.st ++ f.imm : IWord)]
  | .vslide f => [(f.ring.bits ++ 0x5F#7 ++ f.vd ++ f.va ++ f.vb ++ BitVec.ofBool f.ta ++ BitVec.ofBool f.tb ++ f.p ++ BitVec.ofBool f.x : IWord), (0#4 ++ 48#8 ++ f.rnd ++ f.ovf ++ f.dt ++ f.st ++ f.imm : IWord)]
  | .vextr f => [(f.ring.bits ++ 0x5F#7 ++ f.vd ++ f.va ++ f.vb ++ BitVec.ofBool f.ta ++ BitVec.ofBool f.tb ++ f.p ++ BitVec.ofBool f.x : IWord), (0#4 ++ 49#8 ++ f.rnd ++ f.ovf ++ f.dt ++ f.st ++ f.imm : IWord)]
  | .vins f => [(f.ring.bits ++ 0x5F#7 ++ f.vd ++ f.s ++ 0#4 ++ BitVec.ofBool f.ts ++ 0#5 : IWord), (0#4 ++ 50#8 ++ 0#4 ++ f.dt ++ f.st ++ f.k : IWord)]
  | .viota f => [(f.ring.bits ++ 0x5F#7 ++ f.vd ++ f.va ++ f.vb ++ BitVec.ofBool f.ta ++ BitVec.ofBool f.tb ++ f.p ++ BitVec.ofBool f.x : IWord), (0#4 ++ 51#8 ++ f.rnd ++ f.ovf ++ f.dt ++ f.st ++ f.imm : IWord)]
  | .vscan f => [(f.ring.bits ++ 0x5F#7 ++ f.vd ++ f.va ++ f.vb ++ BitVec.ofBool f.ta ++ BitVec.ofBool f.tb ++ f.p ++ BitVec.ofBool f.x : IWord), (0#4 ++ 52#8 ++ f.rnd ++ f.ovf ++ f.dt ++ f.st ++ f.imm : IWord)]
  | .vclass f => [(f.ring.bits ++ 0x5F#7 ++ f.vd ++ f.va ++ f.vb ++ BitVec.ofBool f.ta ++ BitVec.ofBool f.tb ++ f.p ++ BitVec.ofBool f.x : IWord), (0#4 ++ 53#8 ++ f.rnd ++ f.ovf ++ f.dt ++ f.st ++ f.imm : IWord)]
  | .mlease f => [(f.ring.bits ++ 0x60#7 ++ f.k ++ f.pri ++ 0#1 ++ f.b ++ BitVec.ofBool f.tb ++ BitVec.ofBool f.sus ++ 0#6 : IWord)]
  | .mrel f => [(f.ring.bits ++ 0x61#7 ++ f.k ++ f.pri ++ 0#1 ++ 0#14 : IWord)]
  | .mma f => [(f.ring.bits ++ 0x62#7 ++ f.k ++ f.pri ++ BitVec.ofBool f.dt ++ f.ha ++ f.hb ++ BitVec.ofBool f.z ++ 0#3 : IWord), (0#4 ++ f.acc ++ f.ga ++ BitVec.ofBool f.ta ++ f.gb ++ BitVec.ofBool f.tb ++ 0#6 : IWord), (0#4 ++ f.gs ++ BitVec.ofBool f.ts ++ f.gsa ++ BitVec.ofBool f.tsa ++ f.gsb ++ BitVec.ofBool f.tsb ++ 0#7 : IWord), (0#4 ++ f.bufa ++ f.bufb ++ 0#12 : IWord)]
  | .mmaq f => [(f.ring.bits ++ 0x63#7 ++ f.k ++ f.pri ++ BitVec.ofBool f.dt ++ f.ha ++ f.hb ++ BitVec.ofBool f.z ++ 0#3 : IWord), (0#4 ++ f.acc ++ f.ga ++ BitVec.ofBool f.ta ++ f.gb ++ BitVec.ofBool f.tb ++ 0#6 : IWord), (0#4 ++ f.gs ++ BitVec.ofBool f.ts ++ f.gsa ++ BitVec.ofBool f.tsa ++ f.gsb ++ BitVec.ofBool f.tsb ++ 0#7 : IWord), (0#4 ++ f.bufa ++ f.bufb ++ 0#12 : IWord)]
  | .mmv f => [(f.ring.bits ++ 0x64#7 ++ f.k ++ f.pri ++ BitVec.ofBool f.dt ++ f.ha ++ f.hb ++ BitVec.ofBool f.z ++ 0#3 : IWord), (0#4 ++ f.acc ++ f.ga ++ BitVec.ofBool f.ta ++ f.gb ++ BitVec.ofBool f.tb ++ 0#6 : IWord), (0#4 ++ f.gs ++ BitVec.ofBool f.ts ++ f.gsa ++ BitVec.ofBool f.tsa ++ f.gsb ++ BitVec.ofBool f.tsb ++ 0#7 : IWord), (0#4 ++ f.bufa ++ f.bufb ++ 0#12 : IWord)]
  | .mzero f => [(f.ring.bits ++ 0x65#7 ++ f.k ++ f.pri ++ BitVec.ofBool f.dt ++ f.acc ++ f.cnt : IWord)]
  | .mdrain f => [(f.ring.bits ++ 0x66#7 ++ f.k ++ f.pri ++ BitVec.ofBool f.dt ++ f.h ++ BitVec.ofBool f.z ++ f.rnd ++ f.ovf ++ 0#4 : IWord), (0#4 ++ f.acc ++ f.gt ++ BitVec.ofBool f.tt ++ f.gs ++ BitVec.ofBool f.ts ++ 0#6 : IWord), (0#4 ++ f.buf ++ 0#20 : IWord)]
  | .mldacc f => [(f.ring.bits ++ 0x67#7 ++ f.k ++ f.pri ++ BitVec.ofBool f.dt ++ f.h ++ BitVec.ofBool f.z ++ f.rnd ++ f.ovf ++ 0#4 : IWord), (0#4 ++ f.acc ++ f.gt ++ BitVec.ofBool f.tt ++ f.gs ++ BitVec.ofBool f.ts ++ 0#6 : IWord), (0#4 ++ f.buf ++ 0#20 : IWord)]
  | .cpy f => [(f.ring.bits ++ 0x68#7 ++ f.k ++ f.pri ++ BitVec.ofBool f.dt ++ f.hd ++ f.hs ++ BitVec.ofBool f.dc ++ 0#3 : IWord), (0#4 ++ f.gd ++ BitVec.ofBool f.td ++ f.gs ++ BitVec.ofBool f.ts ++ f.yd ++ f.ys ++ f.buf : IWord), (0#4 ++ f.dfmt ++ f.rnd ++ f.ovf ++ BitVec.ofBool f.pat ++ f.esz ++ f.gn ++ BitVec.ofBool f.tn ++ BitVec.ofBool f.che ++ f.ch ++ 0#6 : IWord)]
  | .cpyg f => [(f.c.ring.bits ++ 0x69#7 ++ f.c.k ++ f.c.pri ++ BitVec.ofBool f.c.dt ++ f.c.hd ++ f.c.hs ++ BitVec.ofBool f.c.dc ++ 0#3 : IWord), (0#4 ++ f.c.gd ++ BitVec.ofBool f.c.td ++ f.c.gs ++ BitVec.ofBool f.c.ts ++ f.c.yd ++ f.c.ys ++ f.c.buf : IWord), (0#4 ++ f.c.dfmt ++ f.c.rnd ++ f.c.ovf ++ BitVec.ofBool f.c.pat ++ f.c.esz ++ f.c.gn ++ BitVec.ofBool f.c.tn ++ BitVec.ofBool f.c.che ++ f.c.ch ++ 0#6 : IWord), (0#4 ++ f.hi ++ f.gi ++ BitVec.ofBool f.ti ++ f.gc ++ BitVec.ofBool f.tc ++ 0#9 : IWord)]
  | .cpys f => [(f.c.ring.bits ++ 0x6A#7 ++ f.c.k ++ f.c.pri ++ BitVec.ofBool f.c.dt ++ f.c.hd ++ f.c.hs ++ BitVec.ofBool f.c.dc ++ 0#3 : IWord), (0#4 ++ f.c.gd ++ BitVec.ofBool f.c.td ++ f.c.gs ++ BitVec.ofBool f.c.ts ++ f.c.yd ++ f.c.ys ++ f.c.buf : IWord), (0#4 ++ f.c.dfmt ++ f.c.rnd ++ f.c.ovf ++ BitVec.ofBool f.c.pat ++ f.c.esz ++ f.c.gn ++ BitVec.ofBool f.c.tn ++ BitVec.ofBool f.c.che ++ f.c.ch ++ 0#6 : IWord), (0#4 ++ f.hi ++ f.gi ++ BitVec.ofBool f.ti ++ f.gc ++ BitVec.ofBool f.tc ++ 0#9 : IWord)]
  | .cpyr f => [(f.c.ring.bits ++ 0x6B#7 ++ f.c.k ++ f.c.pri ++ BitVec.ofBool f.c.dt ++ f.c.hd ++ f.c.hs ++ BitVec.ofBool f.c.dc ++ 0#3 : IWord), (0#4 ++ f.c.gd ++ BitVec.ofBool f.c.td ++ f.c.gs ++ BitVec.ofBool f.c.ts ++ f.c.yd ++ f.c.ys ++ f.c.buf : IWord), (0#4 ++ f.c.dfmt ++ f.c.rnd ++ f.c.ovf ++ BitVec.ofBool f.c.pat ++ f.c.esz ++ f.c.gn ++ BitVec.ofBool f.c.tn ++ BitVec.ofBool f.c.che ++ f.c.ch ++ 0#6 : IWord), (0#4 ++ f.op ++ 0#26 : IWord)]
  | .cfill f => [(f.ring.bits ++ 0x6C#7 ++ f.k ++ f.pri ++ BitVec.ofBool f.dt ++ f.hd ++ f.gv ++ BitVec.ofBool f.tv ++ 0#2 : IWord), (0#4 ++ f.gd ++ BitVec.ofBool f.td ++ f.yd ++ f.gn ++ BitVec.ofBool f.tn ++ BitVec.ofBool f.che ++ f.ch ++ 0#7 : IWord), (0#4 ++ f.buf ++ 0#20 : IWord)]
  | .chbind f => [(f.ring.bits ++ 0x6D#7 ++ f.k ++ f.pri ++ BitVec.ofBool f.dt ++ BitVec.ofBool f.se ++ f.c ++ f.h ++ 0#5 : IWord), (0#4 ++ f.go ++ BitVec.ofBool f.te ++ f.gl ++ BitVec.ofBool f.tl ++ 0#14 : IWord)]
  | .chrd f => [(f.ring.bits ++ 0x6E#7 ++ f.k ++ f.pri ++ BitVec.ofBool f.dt ++ BitVec.ofBool f.se ++ f.c ++ f.gp ++ BitVec.ofBool f.tp ++ 0#2 ++ 0#1 : IWord)]
  | .chunb f => [(f.ring.bits ++ 0x6E#7 ++ f.k ++ f.pri ++ BitVec.ofBool f.dt ++ BitVec.ofBool f.se ++ f.c ++ 0#9 ++ 1#1 : IWord)]
  | .pkset f => [(f.ring.bits ++ 0x6F#7 ++ f.k ++ f.pri ++ BitVec.ofBool f.dt ++ f.n ++ 0#10 : IWord), (0#4 ++ f.cnt ++ 0#24 : IWord)]
  | .xst f => [(f.ring.bits ++ 0x70#7 ++ f.k ++ f.pri ++ BitVec.ofBool f.dt ++ f.hd ++ f.hs ++ 0#4 : IWord), (0#4 ++ f.gd ++ BitVec.ofBool f.td ++ f.gs ++ BitVec.ofBool f.ts ++ f.yd ++ f.ys ++ f.buf : IWord), (0#4 ++ f.gf ++ BitVec.ofBool f.tf ++ f.gn ++ BitVec.ofBool f.tn ++ 0#14 : IWord), (0#4 ++ f.grp ++ 0#16 : IWord)]
  | .xld f => [(f.ring.bits ++ 0x71#7 ++ f.k ++ f.pri ++ BitVec.ofBool f.dt ++ f.hd ++ f.hs ++ 0#4 : IWord), (0#4 ++ f.gd ++ BitVec.ofBool f.td ++ f.gs ++ BitVec.ofBool f.ts ++ f.yd ++ f.ys ++ f.buf : IWord), (0#4 ++ f.gn ++ BitVec.ofBool f.tn ++ BitVec.ofBool f.che ++ f.ch ++ 0#17 : IWord), (0#4 ++ 0#28 : IWord)]
  | .xamo f => [(f.ring.bits ++ 0x72#7 ++ f.k ++ f.pri ++ BitVec.ofBool f.dt ++ f.h ++ f.op ++ f.ord ++ f.sz ++ 0#1 : IWord), (0#4 ++ f.go ++ BitVec.ofBool f.te ++ f.gv ++ BitVec.ofBool f.tv ++ f.gc ++ BitVec.ofBool f.tc ++ 0#7 : IWord), (0#4 ++ f.gp ++ BitVec.ofBool f.tp ++ 0#21 : IWord)]
  | .car f => [(f.ring.bits ++ 0x73#7 ++ f.k ++ f.pri ++ BitVec.ofBool f.dt ++ f.hd ++ f.hs ++ BitVec.ofBool f.exact ++ 0#3 : IWord), (0#4 ++ f.gd ++ BitVec.ofBool f.td ++ f.gs ++ BitVec.ofBool f.ts ++ f.yd ++ f.ys ++ f.buf : IWord), (0#4 ++ f.comm ++ f.efmt ++ f.rnd ++ f.ovf ++ f.op ++ 0#6 : IWord), (0#4 ++ f.gn ++ BitVec.ofBool f.tn ++ f.ent ++ f.groot ++ BitVec.ofBool f.troot ++ 0#8 : IWord)]
  | .cag f => [(f.ring.bits ++ 0x73#7 ++ f.k ++ f.pri ++ BitVec.ofBool f.dt ++ f.hd ++ f.hs ++ BitVec.ofBool f.exact ++ 1#3 : IWord), (0#4 ++ f.gd ++ BitVec.ofBool f.td ++ f.gs ++ BitVec.ofBool f.ts ++ f.yd ++ f.ys ++ f.buf : IWord), (0#4 ++ f.comm ++ f.efmt ++ f.rnd ++ f.ovf ++ f.op ++ 0#6 : IWord), (0#4 ++ f.gn ++ BitVec.ofBool f.tn ++ f.ent ++ f.groot ++ BitVec.ofBool f.troot ++ 0#8 : IWord)]
  | .crs f => [(f.ring.bits ++ 0x73#7 ++ f.k ++ f.pri ++ BitVec.ofBool f.dt ++ f.hd ++ f.hs ++ BitVec.ofBool f.exact ++ 2#3 : IWord), (0#4 ++ f.gd ++ BitVec.ofBool f.td ++ f.gs ++ BitVec.ofBool f.ts ++ f.yd ++ f.ys ++ f.buf : IWord), (0#4 ++ f.comm ++ f.efmt ++ f.rnd ++ f.ovf ++ f.op ++ 0#6 : IWord), (0#4 ++ f.gn ++ BitVec.ofBool f.tn ++ f.ent ++ f.groot ++ BitVec.ofBool f.troot ++ 0#8 : IWord)]
  | .ca2a f => [(f.ring.bits ++ 0x73#7 ++ f.k ++ f.pri ++ BitVec.ofBool f.dt ++ f.hd ++ f.hs ++ BitVec.ofBool f.exact ++ 3#3 : IWord), (0#4 ++ f.gd ++ BitVec.ofBool f.td ++ f.gs ++ BitVec.ofBool f.ts ++ f.yd ++ f.ys ++ f.buf : IWord), (0#4 ++ f.comm ++ f.efmt ++ f.rnd ++ f.ovf ++ f.op ++ 0#6 : IWord), (0#4 ++ f.gn ++ BitVec.ofBool f.tn ++ f.ent ++ f.groot ++ BitVec.ofBool f.troot ++ 0#8 : IWord)]
  | .cbc f => [(f.ring.bits ++ 0x73#7 ++ f.k ++ f.pri ++ BitVec.ofBool f.dt ++ f.hd ++ f.hs ++ BitVec.ofBool f.exact ++ 4#3 : IWord), (0#4 ++ f.gd ++ BitVec.ofBool f.td ++ f.gs ++ BitVec.ofBool f.ts ++ f.yd ++ f.ys ++ f.buf : IWord), (0#4 ++ f.comm ++ f.efmt ++ f.rnd ++ f.ovf ++ f.op ++ 0#6 : IWord), (0#4 ++ f.gn ++ BitVec.ofBool f.tn ++ f.ent ++ f.groot ++ BitVec.ofBool f.troot ++ 0#8 : IWord)]
  | .cbar f => [(f.ring.bits ++ 0x74#7 ++ f.k ++ f.pri ++ BitVec.ofBool f.dt ++ f.comm ++ 0#2 : IWord), (0#4 ++ f.gn ++ BitVec.ofBool f.tn ++ 0#21 : IWord)]
  | .nsend f => [(f.ring.bits ++ 0x75#7 ++ f.k ++ f.pri ++ BitVec.ofBool f.dt ++ f.he ++ f.hs ++ f.mode ++ 0#2 : IWord), (0#4 ++ f.gp ++ BitVec.ofBool f.tp ++ f.gs ++ BitVec.ofBool f.ts ++ f.ys ++ 0#3 ++ f.buf : IWord), (0#4 ++ f.gt ++ BitVec.ofBool f.tt ++ f.gn ++ BitVec.ofBool f.tn ++ f.ent ++ 0#8 : IWord), (0#4 ++ 0#28 : IWord)]
  | .nrecv f => [(f.ring.bits ++ 0x76#7 ++ f.k ++ f.pri ++ BitVec.ofBool f.dt ++ f.he ++ f.hd ++ f.mode ++ 0#2 : IWord), (0#4 ++ f.gp ++ BitVec.ofBool f.tp ++ f.gd ++ BitVec.ofBool f.td ++ f.yd ++ 0#3 ++ f.buf : IWord), (0#4 ++ f.gt ++ BitVec.ofBool f.tt ++ f.gn ++ BitVec.ofBool f.tn ++ 0#14 : IWord), (0#4 ++ f.gm ++ BitVec.ofBool f.tm ++ 0#21 : IWord)]
  | .nwrite f => [(f.ring.bits ++ 0x77#7 ++ f.k ++ f.pri ++ BitVec.ofBool f.dt ++ f.he ++ f.hl ++ f.mode ++ 0#1 ++ 0#1 : IWord), (0#4 ++ f.gp ++ BitVec.ofBool f.tp ++ f.gl ++ BitVec.ofBool f.tl ++ f.yl ++ 0#3 ++ f.buf : IWord), (0#4 ++ f.gr ++ BitVec.ofBool f.tr ++ f.gn ++ BitVec.ofBool f.tn ++ f.ent ++ f.region : IWord), (0#4 ++ 0#28 : IWord)]
  | .nread f => [(f.ring.bits ++ 0x77#7 ++ f.k ++ f.pri ++ BitVec.ofBool f.dt ++ f.he ++ f.hl ++ f.mode ++ 0#1 ++ 1#1 : IWord), (0#4 ++ f.gp ++ BitVec.ofBool f.tp ++ f.gl ++ BitVec.ofBool f.tl ++ f.yl ++ 0#3 ++ f.buf : IWord), (0#4 ++ f.gr ++ BitVec.ofBool f.tr ++ f.gn ++ BitVec.ofBool f.tn ++ f.ent ++ f.region : IWord), (0#4 ++ 0#28 : IWord)]
  | .opwait f => [(f.ring.bits ++ 0x78#7 ++ 0#4 ++ f.k ++ f.d ++ 0#1 ++ BitVec.ofBool f.sus ++ 0#5 : IWord)]
  | .optest f => [(f.ring.bits ++ 0x78#7 ++ 1#4 ++ f.k ++ f.d ++ 0#7 : IWord)]
  | .opcancel f => [(f.ring.bits ++ 0x78#7 ++ 2#4 ++ f.k ++ f.d ++ 0#7 : IWord)]
  | .opdetach f => [(f.ring.bits ++ 0x78#7 ++ 3#4 ++ f.k ++ f.d ++ 0#7 : IWord)]
  | .opadopt f => [(f.ring.bits ++ 0x78#7 ++ 4#4 ++ f.k ++ f.a ++ BitVec.ofBool f.ta ++ 0#6 : IWord)]
  | .oppri f => [(f.ring.bits ++ 0x78#7 ++ 5#4 ++ f.k ++ f.pri ++ 0#11 : IWord)]
  | .opfault f => [(f.ring.bits ++ 0x78#7 ++ 6#4 ++ f.k ++ f.d ++ 0#7 : IWord)]
  | .oprel f => [(f.ring.bits ++ 0x78#7 ++ 7#4 ++ f.k ++ 0#13 : IWord)]
  | .kdone f => [(f.ring.bits ++ 0x79#7 ++ 0#4 ++ 0#17 : IWord)]
  | .kyield f => [(f.ring.bits ++ 0x79#7 ++ 1#4 ++ BitVec.ofBool f.free ++ 0#16 : IWord)]
  | .kspawn f => [(f.ring.bits ++ 0x79#7 ++ 2#4 ++ f.d ++ f.w ++ BitVec.ofBool f.tw ++ BitVec.ofBool f.free ++ f.pri ++ BitVec.ofBool f.inh : IWord), (0#4 ++ f.imm : IWord)]
  | .krange f => [(f.ring.bits ++ 0x79#7 ++ 3#4 ++ f.d ++ f.a ++ BitVec.ofBool f.ta ++ 0#4 : IWord), (0#4 ++ f.b ++ BitVec.ofBool f.tb ++ f.off : IWord)]
  | .knext f => [(f.ring.bits ++ 0x79#7 ++ 4#4 ++ f.d ++ 0#11 : IWord)]
  | .widf f => [(f.ring.bits ++ 0x79#7 ++ 5#4 ++ f.d ++ f.n ++ 0#8 : IWord)]
  | .depdec f => [(f.ring.bits ++ 0x79#7 ++ 6#4 ++ 0#9 ++ f.mask : IWord)]
  | .nextok f => [(f.ring.bits ++ 0x79#7 ++ 7#4 ++ 0#17 : IWord)]
  | .prevwait f => [(f.ring.bits ++ 0x79#7 ++ 8#4 ++ 0#17 : IWord)]
  | .bar f => [(f.ring.bits ++ 0x7A#7 ++ 0#21 : IWord)]
  | .hld f => [(f.ring.bits ++ 0x7C#7 ++ 0#4 ++ BitVec.ofBool f.y ++ f.reg ++ f.b ++ BitVec.ofBool f.tb ++ 0#4 : IWord)]
  | .hst f => [(f.ring.bits ++ 0x7C#7 ++ 1#4 ++ BitVec.ofBool f.y ++ f.reg ++ f.b ++ BitVec.ofBool f.tb ++ 0#4 : IWord)]
  | .hnarrow f => [(f.ring.bits ++ 0x7C#7 ++ 2#4 ++ f.hd ++ f.hs ++ 0#7 : IWord), (0#4 ++ f.go ++ BitVec.ofBool f.te ++ f.gl ++ BitVec.ofBool f.tl ++ f.mask ++ 0#6 : IWord)]
  | .hinfo f => [(f.ring.bits ++ 0x7C#7 ++ 3#4 ++ f.d ++ f.h ++ f.n ++ 0#3 : IWord)]
  | .hchk f => [(f.ring.bits ++ 0x7C#7 ++ 4#4 ++ f.d ++ f.h ++ f.a : IWord)]
  | .hdrop f => [(f.ring.bits ++ 0x7C#7 ++ 5#4 ++ f.h ++ 0#12 : IWord)]
  | .hreq f => [(f.ring.bits ++ 0x7C#7 ++ 6#4 ++ f.d ++ f.h ++ f.a : IWord)]
  | .csrr f => [(f.ring.bits ++ 0x7D#7 ++ 0#3 ++ f.d ++ f.csr : IWord)]
  | .csrw f => [(f.ring.bits ++ 0x7D#7 ++ 1#3 ++ f.a ++ f.csr : IWord)]
  | .csrx f => [(f.ring.bits ++ 0x7D#7 ++ 2#3 ++ f.d ++ f.csr : IWord), (0#4 ++ f.a ++ BitVec.ofBool f.ta ++ f.op ++ 0#19 : IWord)]
  | .pmcrd f => [(f.ring.bits ++ 0x7D#7 ++ 3#3 ++ f.d ++ f.a ++ BitVec.ofBool f.ta ++ 0#5 : IWord)]
  | .timerd f => [(f.ring.bits ++ 0x7D#7 ++ 4#3 ++ f.d ++ 0#12 : IWord)]
  | .evLongLatencyWriteback _ _ => []
  | .evShoalDrain _ _ => []
  | .evFaultService _ _ => []
  | .evTranslationHoldTimeout _ => []
  | .evPageRequestGroupSend => []
  | .evPriResponse _ _ => []
  | .evAtsInvalidation _ _ => []
  | .evWaitaWake _ => []
  | .evDecouplingDeadlock _ => []
  | .evTrapEntry _ => []
  | .evTokenIssueTimeout _ => []
  | .evFincArrival _ => []
  | .evFincRefusal _ => []
  | .evRemoteWriteApply _ => []
  | .evReleasePacketApply _ => []
  | .evRemoteWriteAck _ => []
  | .evMulticastRewrite _ _ => []
  | .evFabricPacketArrival _ _ _ _ _ => []
  | .evEscapeMove _ => []
  | .evLeaseGrant _ => []
  | .evIdlePossessionTimeout _ => []
  | .evLeaseRequestAging _ => []
  | .evLeaseReservationLapse _ => []
  | .evMatrixOpStart _ => []
  | .evMatrixBlockStep _ => []
  | .evMmvGroupStep _ => []
  | .evTileMoveStep _ => []
  | .evCopyStart _ _ => []
  | .evCopyStep _ _ => []
  | .evPksetStep _ => []
  | .evRemoteTransferStep _ _ _ => []
  | .evCollectiveStep _ _ => []
  | .evCbarComplete _ _ => []
  | .evMessageArrival _ _ _ _ _ => []
  | .evRemoteRegionAccess _ _ _ _ _ _ => []
  | .evEthernetRetryExhausted _ _ => []
  | .evEngineHeadAging _ _ => []
  | .evIssuePromotion _ _ => []
  | .evReadyEntryAging _ => []
  | .evWorkRequest _ => []
  | .evRangeTaskStart _ _ => []
  | .evContinuationResume _ _ => []
  | .evLaunchr _ _ _ => []
  | .evEnable _ => []
  | .evReset _ => []
  | .evDestroy _ => []
  | .evDestroyWithDeadline _ => []
  | .evDestroyDeadlineExpiry _ => []
  | .evPad _ => []
  | .evLaunch _ => []
  | .evFencePacket _ => []
  | .evFenceCountersMet _ => []
  | .evSignal _ => []
  | .evSignalPerform _ => []
  | .evGang _ => []
  | .evGangTickReached _ => []
  | .evIndirect _ => []
  | .evIndirectDispatch _ => []
  | .evTimestamp _ => []
  | .evTimestampWrite _ => []
  | .evNopPacket _ => []
  | .evFrontEndAccessFault _ _ => []
  | .evBundleResident _ _ => []
  | .evEarlyStart _ _ => []
  | .evXNodeReady _ _ _ => []
  | .evNodeRetire _ _ => []
  | .evBundleRetire _ => []
  | .evSkerryTakeEvent _ => []
  | .evHandlerWatchdog _ => []
  | .evEventRecordWrite => []
  | .evResseq _ => []
  | .evEvrridx _ => []
  | .evRegisterWrite _ _ _ _ => []
  | .evAlloc _ _ => []
  | .evMint _ _ => []
  | .evRevoke _ _ => []
  | .evFree _ _ => []
  | .evRotate _ _ => []
  | .evEpset _ _ => []
  | .evRevocationTablesDone _ => []
  | .evRevocationComplete _ => []
  | .evRotationWalkerStep _ _ => []
  | .evContextSwitchScrub _ => []
  | .evPartitionTableWrite _ _ => []
  | .evJobKeyRegister _ _ => []
  | .evTdispLock _ => []
  | .evTdispStart _ => []
  | .evTdispStop _ => []
  | .evBandwidthRefill _ => []
  | .evPowerInterval _ => []
  | .evPowerFloorWrite _ _ => []
  | .evOverCurrentWarning _ => []
  | .evThermalThrottle _ => []
  | .evThermalStop _ => []
  | .evThermalPowerOff => []
  | .evPreempt _ _ => []
  | .evEvict _ _ => []
  | .evRestore _ _ => []
  | .evGraceTimerExpiry _ => []
  | .evKillTimerExpiry _ => []
  | .evCheckpointWrite _ _ => []
  | .evPlannerPass _ => []
  | .evEvictionKillTime _ => []
  | .evFlr _ => []
  | .evFlrDrainBound _ => []
  | .evDebugHalt _ _ => []
  | .evDebugStep _ => []
  | .evBreakpointArm _ _ => []
  | .evEngineFreeze _ _ => []
  | .evContextStateError _ => []
  | .evL1ParityDrop _ _ _ => []
  | .evPowerOn => []
  | .evPfReset => []
  | .evBootlen _ => []
  | .evImageCheck _ _ => []
  | .evRecordCheck _ => []
  | .evStraitTraining _ => []
  | .evStraitAttest _ _ => []
  | .evKeyUpdate _ => []
  | .evStraitGroupFailure _ => []
  | .evStraitClose _ => []
  | .evPodTickSync _ => []
  | .evHostPortRequest _ _ _ _ _ => []
  | .evWriteThroughReachesHome _ _ => []
  | .evMessageAcknowledged _ _ _ _ => []

/-- The number of words of the instruction that word 0 begins, 0 for a reserved opcode or selector: step 2 of R86 (R75, R93). -/
def wordCount (w0 : IWord) : Nat :=
  let op := w0.extractLsb' 21 7
  if op = 0x00#7 then 1 else
  if op = 0x01#7 then 1 else
  if op = 0x02#7 then 1 else
  if op = 0x03#7 then 1 else
  if op = 0x04#7 then 1 else
  if op = 0x05#7 then 1 else
  if op = 0x06#7 then 1 else
  if op = 0x07#7 then 1 else
  if op = 0x08#7 then 1 else
  if op = 0x09#7 then 1 else
  if op = 0x0A#7 then 1 else
  if op = 0x0B#7 then 1 else
  if op = 0x0C#7 then 1 else
  if op = 0x0D#7 then 1 else
  if op = 0x0E#7 then 1 else
  if op = 0x0F#7 then 1 else
  if op = 0x10#7 then 1 else
  if op = 0x11#7 then 1 else
  if op = 0x12#7 then if 12#6 ≤ w0.extractLsb' 3 6 then 0 else 1 else
  if op = 0x13#7 then 1 else
  if op = 0x14#7 then 1 else
  if op = 0x15#7 then 1 else
  if op = 0x16#7 then 1 else
  if op = 0x17#7 then 1 else
  if op = 0x18#7 then 1 else
  if op = 0x19#7 then 1 else
  if op = 0x1A#7 then 1 else
  if op = 0x1B#7 then 2 else
  if op = 0x1C#7 then 2 else
  if op = 0x1D#7 then 2 else
  if op = 0x1E#7 then 2 else
  if op = 0x1F#7 then 2 else
  if op = 0x20#7 then 1 else
  if op = 0x21#7 then 1 else
  if op = 0x22#7 then 1 else
  if op = 0x23#7 then 1 else
  if op = 0x24#7 then 1 else
  if op = 0x25#7 then 1 else
  if op = 0x26#7 then 1 else
  if op = 0x27#7 then if 6#6 ≤ w0.extractLsb' 3 6 then 0 else 1 else
  if op = 0x28#7 then 1 else
  if op = 0x29#7 then 1 else
  if op = 0x2A#7 then 1 else
  if op = 0x2B#7 then 1 else
  if op = 0x2C#7 then 1 else
  if op = 0x2D#7 then 1 else
  if op = 0x2E#7 then 1 else
  if op = 0x2F#7 then 1 else
  if op = 0x30#7 then 1 else
  if op = 0x31#7 then 1 else
  if op = 0x32#7 then 1 else
  if op = 0x33#7 then 1 else
  if op = 0x34#7 then 1 else
  if op = 0x35#7 then 1 else
  if op = 0x36#7 then 2 else
  if op = 0x37#7 then 1 else
  if op = 0x38#7 then 1 else
  if op = 0x39#7 then 1 else
  if op = 0x3A#7 then 1 else
  if op = 0x3B#7 then 1 else
  if op = 0x3C#7 then 1 else
  if op = 0x40#7 then 1 else
  if op = 0x41#7 then 1 else
  if op = 0x42#7 then 1 else
  if op = 0x43#7 then 1 else
  if op = 0x44#7 then 1 else
  if op = 0x45#7 then 1 else
  if op = 0x46#7 then 1 else
  if op = 0x47#7 then 2 else
  if op = 0x48#7 then 2 else
  if op = 0x49#7 then if 5#3 ≤ w0.extractLsb' 0 3 then 0 else 1 else
  if op = 0x4A#7 then 1 else
  if op = 0x4B#7 then 1 else
  if op = 0x4C#7 then 1 else
  if op = 0x4D#7 then 1 else
  if op = 0x4E#7 then 1 else
  if op = 0x4F#7 then 1 else
  if op = 0x50#7 then 1 else
  if op = 0x51#7 then 1 else
  if op = 0x52#7 then 1 else
  if op = 0x53#7 then 1 else
  if op = 0x54#7 then 1 else
  if op = 0x55#7 then 1 else
  if op = 0x56#7 then 1 else
  if op = 0x57#7 then 1 else
  if op = 0x58#7 then 1 else
  if op = 0x59#7 then 1 else
  if op = 0x5A#7 then 1 else
  if op = 0x5B#7 then 1 else
  if op = 0x5C#7 then if w0.extractLsb' 6 2 = 3#2 then 0 else 1 else
  if op = 0x5D#7 then 1 else
  if op = 0x5E#7 then 1 else
  if op = 0x5F#7 then 2 else
  if op = 0x60#7 then 1 else
  if op = 0x61#7 then 1 else
  if op = 0x62#7 then 4 else
  if op = 0x63#7 then 4 else
  if op = 0x64#7 then 4 else
  if op = 0x65#7 then 1 else
  if op = 0x66#7 then 3 else
  if op = 0x67#7 then 3 else
  if op = 0x68#7 then 3 else
  if op = 0x69#7 then 4 else
  if op = 0x6A#7 then 4 else
  if op = 0x6B#7 then 4 else
  if op = 0x6C#7 then 3 else
  if op = 0x6D#7 then 2 else
  if op = 0x6E#7 then 1 else
  if op = 0x6F#7 then 2 else
  if op = 0x70#7 then 4 else
  if op = 0x71#7 then 4 else
  if op = 0x72#7 then if 11#4 ≤ w0.extractLsb' 5 4 then 0 else 3 else
  if op = 0x73#7 then if 5#3 ≤ w0.extractLsb' 0 3 then 0 else 4 else
  if op = 0x74#7 then 2 else
  if op = 0x75#7 then 4 else
  if op = 0x76#7 then 4 else
  if op = 0x77#7 then 4 else
  if op = 0x78#7 then if 8#4 ≤ w0.extractLsb' 17 4 then 0 else 1 else
  if op = 0x79#7 then if 9#4 ≤ w0.extractLsb' 17 4 then 0 else if w0.extractLsb' 17 4 = 2#4 ∨ w0.extractLsb' 17 4 = 3#4 then 2 else 1 else
  if op = 0x7A#7 then 1 else
  if op = 0x7C#7 then if 7#4 ≤ w0.extractLsb' 17 4 then 0 else if w0.extractLsb' 17 4 = 2#4 then 2 else 1 else
  if op = 0x7D#7 then if 5#3 ≤ w0.extractLsb' 18 3 then 0 else if w0.extractLsb' 18 3 = 2#3 then 2 else 1 else
  0

/-- Fields of the instructions of opcodes 0x00 to 0x0F; none for a reserved selector (R88–R100). -/
def parse0 (op : BitVec 7) (w0 : IWord) : Option Instr :=
  if op = 0x00#7 then (if w0.getLsbD 0 then some (.adds ⟨Ring.ofBits w0, (w0.extractLsb' 15 6), (w0.extractLsb' 9 6), (w0.extractLsb' 3 6), (w0.getLsbD 2), (w0.getLsbD 1)⟩) else some (.add ⟨Ring.ofBits w0, (w0.extractLsb' 15 6), (w0.extractLsb' 9 6), (w0.extractLsb' 3 6), (w0.getLsbD 2), (w0.getLsbD 1)⟩)) else
  if op = 0x01#7 then (if w0.getLsbD 0 then some (.subs ⟨Ring.ofBits w0, (w0.extractLsb' 15 6), (w0.extractLsb' 9 6), (w0.extractLsb' 3 6), (w0.getLsbD 2), (w0.getLsbD 1)⟩) else some (.sub ⟨Ring.ofBits w0, (w0.extractLsb' 15 6), (w0.extractLsb' 9 6), (w0.extractLsb' 3 6), (w0.getLsbD 2), (w0.getLsbD 1)⟩)) else
  if op = 0x02#7 then (some (.mul ⟨Ring.ofBits w0, (w0.extractLsb' 15 6), (w0.extractLsb' 9 6), (w0.extractLsb' 3 6), (w0.getLsbD 2), (w0.getLsbD 1)⟩)) else
  if op = 0x03#7 then (if w0.getLsbD 0 then some (.mulhu ⟨Ring.ofBits w0, (w0.extractLsb' 15 6), (w0.extractLsb' 9 6), (w0.extractLsb' 3 6), (w0.getLsbD 2), (w0.getLsbD 1)⟩) else some (.mulh ⟨Ring.ofBits w0, (w0.extractLsb' 15 6), (w0.extractLsb' 9 6), (w0.extractLsb' 3 6), (w0.getLsbD 2), (w0.getLsbD 1)⟩)) else
  if op = 0x04#7 then (if w0.getLsbD 0 then some (.divu ⟨Ring.ofBits w0, (w0.extractLsb' 15 6), (w0.extractLsb' 9 6), (w0.extractLsb' 3 6), (w0.getLsbD 2), (w0.getLsbD 1)⟩) else some (.div ⟨Ring.ofBits w0, (w0.extractLsb' 15 6), (w0.extractLsb' 9 6), (w0.extractLsb' 3 6), (w0.getLsbD 2), (w0.getLsbD 1)⟩)) else
  if op = 0x05#7 then (if w0.getLsbD 0 then some (.remu ⟨Ring.ofBits w0, (w0.extractLsb' 15 6), (w0.extractLsb' 9 6), (w0.extractLsb' 3 6), (w0.getLsbD 2), (w0.getLsbD 1)⟩) else some (.rem ⟨Ring.ofBits w0, (w0.extractLsb' 15 6), (w0.extractLsb' 9 6), (w0.extractLsb' 3 6), (w0.getLsbD 2), (w0.getLsbD 1)⟩)) else
  if op = 0x06#7 then (some (.and ⟨Ring.ofBits w0, (w0.extractLsb' 15 6), (w0.extractLsb' 9 6), (w0.extractLsb' 3 6), (w0.getLsbD 2), (w0.getLsbD 1)⟩)) else
  if op = 0x07#7 then (some (.or ⟨Ring.ofBits w0, (w0.extractLsb' 15 6), (w0.extractLsb' 9 6), (w0.extractLsb' 3 6), (w0.getLsbD 2), (w0.getLsbD 1)⟩)) else
  if op = 0x08#7 then (some (.xor ⟨Ring.ofBits w0, (w0.extractLsb' 15 6), (w0.extractLsb' 9 6), (w0.extractLsb' 3 6), (w0.getLsbD 2), (w0.getLsbD 1)⟩)) else
  if op = 0x09#7 then (some (.andn ⟨Ring.ofBits w0, (w0.extractLsb' 15 6), (w0.extractLsb' 9 6), (w0.extractLsb' 3 6), (w0.getLsbD 2), (w0.getLsbD 1)⟩)) else
  if op = 0x0A#7 then (some (.shl ⟨Ring.ofBits w0, (w0.extractLsb' 15 6), (w0.extractLsb' 9 6), (w0.extractLsb' 3 6), (w0.getLsbD 2), (w0.getLsbD 1)⟩)) else
  if op = 0x0B#7 then (if w0.getLsbD 0 then some (.sra ⟨Ring.ofBits w0, (w0.extractLsb' 15 6), (w0.extractLsb' 9 6), (w0.extractLsb' 3 6), (w0.getLsbD 2), (w0.getLsbD 1)⟩) else some (.shr ⟨Ring.ofBits w0, (w0.extractLsb' 15 6), (w0.extractLsb' 9 6), (w0.extractLsb' 3 6), (w0.getLsbD 2), (w0.getLsbD 1)⟩)) else
  if op = 0x0C#7 then (some (.rol ⟨Ring.ofBits w0, (w0.extractLsb' 15 6), (w0.extractLsb' 9 6), (w0.extractLsb' 3 6), (w0.getLsbD 2), (w0.getLsbD 1)⟩)) else
  if op = 0x0D#7 then (if w0.getLsbD 0 then some (.minu ⟨Ring.ofBits w0, (w0.extractLsb' 15 6), (w0.extractLsb' 9 6), (w0.extractLsb' 3 6), (w0.getLsbD 2), (w0.getLsbD 1)⟩) else some (.min ⟨Ring.ofBits w0, (w0.extractLsb' 15 6), (w0.extractLsb' 9 6), (w0.extractLsb' 3 6), (w0.getLsbD 2), (w0.getLsbD 1)⟩)) else
  if op = 0x0E#7 then (if w0.getLsbD 0 then some (.maxu ⟨Ring.ofBits w0, (w0.extractLsb' 15 6), (w0.extractLsb' 9 6), (w0.extractLsb' 3 6), (w0.getLsbD 2), (w0.getLsbD 1)⟩) else some (.max ⟨Ring.ofBits w0, (w0.extractLsb' 15 6), (w0.extractLsb' 9 6), (w0.extractLsb' 3 6), (w0.getLsbD 2), (w0.getLsbD 1)⟩)) else
  if op = 0x0F#7 then (if w0.getLsbD 0 then some (.sltu ⟨Ring.ofBits w0, (w0.extractLsb' 15 6), (w0.extractLsb' 9 6), (w0.extractLsb' 3 6), (w0.getLsbD 2), (w0.getLsbD 1)⟩) else some (.slt ⟨Ring.ofBits w0, (w0.extractLsb' 15 6), (w0.extractLsb' 9 6), (w0.extractLsb' 3 6), (w0.getLsbD 2), (w0.getLsbD 1)⟩)) else
  none

/-- Fields of the instructions of opcodes 0x10 to 0x1F; none for a reserved selector (R88–R100). -/
def parse1 (op : BitVec 7) (w0 w1 : IWord) : Option Instr :=
  if op = 0x10#7 then (if w0.getLsbD 0 then some (.sne ⟨Ring.ofBits w0, (w0.extractLsb' 15 6), (w0.extractLsb' 9 6), (w0.extractLsb' 3 6), (w0.getLsbD 2), (w0.getLsbD 1)⟩) else some (.seq ⟨Ring.ofBits w0, (w0.extractLsb' 15 6), (w0.extractLsb' 9 6), (w0.extractLsb' 3 6), (w0.getLsbD 2), (w0.getLsbD 1)⟩)) else
  if op = 0x11#7 then (some (.cmov ⟨Ring.ofBits w0, (w0.extractLsb' 15 6), (w0.extractLsb' 9 6), (w0.extractLsb' 3 6), (w0.getLsbD 2), (w0.getLsbD 1)⟩)) else
  if op = 0x12#7 then (if w0.extractLsb' 3 6 = 0#6 then some (.clz ⟨Ring.ofBits w0, (w0.extractLsb' 15 6), (w0.extractLsb' 9 6), (w0.getLsbD 2)⟩) else
    if w0.extractLsb' 3 6 = 1#6 then some (.ctz ⟨Ring.ofBits w0, (w0.extractLsb' 15 6), (w0.extractLsb' 9 6), (w0.getLsbD 2)⟩) else
    if w0.extractLsb' 3 6 = 2#6 then some (.popc ⟨Ring.ofBits w0, (w0.extractLsb' 15 6), (w0.extractLsb' 9 6), (w0.getLsbD 2)⟩) else
    if w0.extractLsb' 3 6 = 3#6 then some (.brev ⟨Ring.ofBits w0, (w0.extractLsb' 15 6), (w0.extractLsb' 9 6), (w0.getLsbD 2)⟩) else
    if w0.extractLsb' 3 6 = 4#6 then some (.sextB ⟨Ring.ofBits w0, (w0.extractLsb' 15 6), (w0.extractLsb' 9 6), (w0.getLsbD 2)⟩) else
    if w0.extractLsb' 3 6 = 5#6 then some (.sextH ⟨Ring.ofBits w0, (w0.extractLsb' 15 6), (w0.extractLsb' 9 6), (w0.getLsbD 2)⟩) else
    if w0.extractLsb' 3 6 = 6#6 then some (.sextW ⟨Ring.ofBits w0, (w0.extractLsb' 15 6), (w0.extractLsb' 9 6), (w0.getLsbD 2)⟩) else
    if w0.extractLsb' 3 6 = 7#6 then some (.zextB ⟨Ring.ofBits w0, (w0.extractLsb' 15 6), (w0.extractLsb' 9 6), (w0.getLsbD 2)⟩) else
    if w0.extractLsb' 3 6 = 8#6 then some (.zextH ⟨Ring.ofBits w0, (w0.extractLsb' 15 6), (w0.extractLsb' 9 6), (w0.getLsbD 2)⟩) else
    if w0.extractLsb' 3 6 = 9#6 then some (.zextW ⟨Ring.ofBits w0, (w0.extractLsb' 15 6), (w0.extractLsb' 9 6), (w0.getLsbD 2)⟩) else
    if w0.extractLsb' 3 6 = 10#6 then some (.abs ⟨Ring.ofBits w0, (w0.extractLsb' 15 6), (w0.extractLsb' 9 6), (w0.getLsbD 2)⟩) else
    if w0.extractLsb' 3 6 = 11#6 then some (.neg ⟨Ring.ofBits w0, (w0.extractLsb' 15 6), (w0.extractLsb' 9 6), (w0.getLsbD 2)⟩) else
    none) else
  if op = 0x13#7 then (some (.addi ⟨Ring.ofBits w0, (w0.extractLsb' 15 6), (w0.extractLsb' 9 6), (w0.getLsbD 8), (w0.extractLsb' 0 8)⟩)) else
  if op = 0x14#7 then (some (.andi ⟨Ring.ofBits w0, (w0.extractLsb' 15 6), (w0.extractLsb' 9 6), (w0.getLsbD 8), (w0.extractLsb' 0 8)⟩)) else
  if op = 0x15#7 then (some (.ori ⟨Ring.ofBits w0, (w0.extractLsb' 15 6), (w0.extractLsb' 9 6), (w0.getLsbD 8), (w0.extractLsb' 0 8)⟩)) else
  if op = 0x16#7 then (some (.xori ⟨Ring.ofBits w0, (w0.extractLsb' 15 6), (w0.extractLsb' 9 6), (w0.getLsbD 8), (w0.extractLsb' 0 8)⟩)) else
  if op = 0x17#7 then (some (.shli ⟨Ring.ofBits w0, (w0.extractLsb' 15 6), (w0.extractLsb' 9 6), (w0.getLsbD 8), (w0.extractLsb' 0 6)⟩)) else
  if op = 0x18#7 then (if w0.getLsbD 6 then some (.srai ⟨Ring.ofBits w0, (w0.extractLsb' 15 6), (w0.extractLsb' 9 6), (w0.getLsbD 8), (w0.extractLsb' 0 6)⟩) else some (.shri ⟨Ring.ofBits w0, (w0.extractLsb' 15 6), (w0.extractLsb' 9 6), (w0.getLsbD 8), (w0.extractLsb' 0 6)⟩)) else
  if op = 0x19#7 then (some (.slti ⟨Ring.ofBits w0, (w0.extractLsb' 15 6), (w0.extractLsb' 9 6), (w0.getLsbD 8), (w0.extractLsb' 0 8)⟩)) else
  if op = 0x1A#7 then (some (.sltiu ⟨Ring.ofBits w0, (w0.extractLsb' 15 6), (w0.extractLsb' 9 6), (w0.getLsbD 8), (w0.extractLsb' 0 8)⟩)) else
  if op = 0x1B#7 then (some (.bfx ⟨Ring.ofBits w0, (w0.extractLsb' 15 6), (w0.extractLsb' 9 6), (w0.getLsbD 8), (w1.extractLsb' 0 6), (w1.extractLsb' 6 6), (w1.getLsbD 12)⟩)) else
  if op = 0x1C#7 then (some (.bfi ⟨Ring.ofBits w0, (w0.extractLsb' 15 6), (w0.extractLsb' 9 6), (w0.getLsbD 8), (w1.extractLsb' 0 6), (w1.extractLsb' 6 6), (w1.getLsbD 12)⟩)) else
  if op = 0x1D#7 then (some (.li ⟨Ring.ofBits w0, (w0.extractLsb' 15 6), (w1.extractLsb' 0 28)⟩)) else
  if op = 0x1E#7 then (some (.lis ⟨Ring.ofBits w0, (w0.extractLsb' 15 6), (w0.extractLsb' 9 6), (w0.getLsbD 8), (w1.extractLsb' 0 28)⟩)) else
  if op = 0x1F#7 then (some (.addl ⟨Ring.ofBits w0, (w0.extractLsb' 15 6), (w0.extractLsb' 9 6), (w0.getLsbD 8), (w1.extractLsb' 0 28)⟩)) else
  none

/-- Fields of the instructions of opcodes 0x20 to 0x2F; none for a reserved selector (R88–R100). -/
def parse2 (op : BitVec 7) (w0 : IWord) : Option Instr :=
  if op = 0x20#7 then (if w0.getLsbD 0 then some (.fsub ⟨Ring.ofBits w0, (w0.extractLsb' 15 6), (w0.extractLsb' 9 6), (w0.extractLsb' 3 6), (w0.getLsbD 2), (w0.getLsbD 1)⟩) else some (.fadd ⟨Ring.ofBits w0, (w0.extractLsb' 15 6), (w0.extractLsb' 9 6), (w0.extractLsb' 3 6), (w0.getLsbD 2), (w0.getLsbD 1)⟩)) else
  if op = 0x21#7 then (some (.fmul ⟨Ring.ofBits w0, (w0.extractLsb' 15 6), (w0.extractLsb' 9 6), (w0.extractLsb' 3 6), (w0.getLsbD 2), (w0.getLsbD 1)⟩)) else
  if op = 0x22#7 then (some (.fma ⟨Ring.ofBits w0, (w0.extractLsb' 15 6), (w0.extractLsb' 9 6), (w0.extractLsb' 3 6), (w0.getLsbD 2), (w0.getLsbD 1)⟩)) else
  if op = 0x23#7 then (some (.fdiv ⟨Ring.ofBits w0, (w0.extractLsb' 15 6), (w0.extractLsb' 9 6), (w0.extractLsb' 3 6), (w0.getLsbD 2), (w0.getLsbD 1)⟩)) else
  if op = 0x24#7 then (if w0.getLsbD 0 then some (.fmax ⟨Ring.ofBits w0, (w0.extractLsb' 15 6), (w0.extractLsb' 9 6), (w0.extractLsb' 3 6), (w0.getLsbD 2), (w0.getLsbD 1)⟩) else some (.fmin ⟨Ring.ofBits w0, (w0.extractLsb' 15 6), (w0.extractLsb' 9 6), (w0.extractLsb' 3 6), (w0.getLsbD 2), (w0.getLsbD 1)⟩)) else
  if op = 0x25#7 then (if w0.getLsbD 0 then some (.fle ⟨Ring.ofBits w0, (w0.extractLsb' 15 6), (w0.extractLsb' 9 6), (w0.extractLsb' 3 6), (w0.getLsbD 2), (w0.getLsbD 1)⟩) else some (.flt ⟨Ring.ofBits w0, (w0.extractLsb' 15 6), (w0.extractLsb' 9 6), (w0.extractLsb' 3 6), (w0.getLsbD 2), (w0.getLsbD 1)⟩)) else
  if op = 0x26#7 then (some (.feq ⟨Ring.ofBits w0, (w0.extractLsb' 15 6), (w0.extractLsb' 9 6), (w0.extractLsb' 3 6), (w0.getLsbD 2), (w0.getLsbD 1)⟩)) else
  if op = 0x27#7 then (if w0.extractLsb' 3 6 = 0#6 then some (.fsqrt ⟨Ring.ofBits w0, (w0.extractLsb' 15 6), (w0.extractLsb' 9 6), (w0.getLsbD 2)⟩) else
    if w0.extractLsb' 3 6 = 1#6 then some (.fabs ⟨Ring.ofBits w0, (w0.extractLsb' 15 6), (w0.extractLsb' 9 6), (w0.getLsbD 2)⟩) else
    if w0.extractLsb' 3 6 = 2#6 then some (.fneg ⟨Ring.ofBits w0, (w0.extractLsb' 15 6), (w0.extractLsb' 9 6), (w0.getLsbD 2)⟩) else
    if w0.extractLsb' 3 6 = 3#6 ∧ w0.getLsbD 0 = false then some (.fcvti ⟨Ring.ofBits w0, (w0.extractLsb' 15 6), (w0.extractLsb' 9 6), (w0.getLsbD 2)⟩) else
    if w0.extractLsb' 3 6 = 3#6 ∧ w0.getLsbD 0 = true then some (.fcvtiz ⟨Ring.ofBits w0, (w0.extractLsb' 15 6), (w0.extractLsb' 9 6), (w0.getLsbD 2)⟩) else
    if w0.extractLsb' 3 6 = 4#6 ∧ w0.getLsbD 0 = false then some (.fcvtf ⟨Ring.ofBits w0, (w0.extractLsb' 15 6), (w0.extractLsb' 9 6), (w0.getLsbD 2)⟩) else
    if w0.extractLsb' 3 6 = 4#6 ∧ w0.getLsbD 0 = true then some (.fcvtfu ⟨Ring.ofBits w0, (w0.extractLsb' 15 6), (w0.extractLsb' 9 6), (w0.getLsbD 2)⟩) else
    if w0.extractLsb' 3 6 = 5#6 then some (.fclass ⟨Ring.ofBits w0, (w0.extractLsb' 15 6), (w0.extractLsb' 9 6), (w0.getLsbD 2)⟩) else
    none) else
  if op = 0x28#7 then (some (.pand ⟨Ring.ofBits w0, (w0.extractLsb' 16 3), (w0.extractLsb' 11 3), (w0.extractLsb' 6 3)⟩)) else
  if op = 0x29#7 then (some (.por ⟨Ring.ofBits w0, (w0.extractLsb' 16 3), (w0.extractLsb' 11 3), (w0.extractLsb' 6 3)⟩)) else
  if op = 0x2A#7 then (some (.pxor ⟨Ring.ofBits w0, (w0.extractLsb' 16 3), (w0.extractLsb' 11 3), (w0.extractLsb' 6 3)⟩)) else
  if op = 0x2B#7 then (some (.pnot ⟨Ring.ofBits w0, (w0.extractLsb' 16 3), (w0.extractLsb' 11 3)⟩)) else
  if op = 0x2C#7 then (some (.pfrom ⟨Ring.ofBits w0, (w0.extractLsb' 18 3), (w0.extractLsb' 16 2), (w0.getLsbD 15), (w0.extractLsb' 13 2), (w0.getLsbD 12)⟩)) else
  if op = 0x2D#7 then (some (.pto ⟨Ring.ofBits w0, (w0.extractLsb' 18 3), (w0.extractLsb' 16 2), (w0.extractLsb' 13 2)⟩)) else
  if op = 0x2E#7 then (some (.fset ⟨Ring.ofBits w0, (w0.extractLsb' 15 6), (w0.getLsbD 14), (w0.extractLsb' 8 6), (w0.getLsbD 7)⟩)) else
  if op = 0x2F#7 then (some (.frd ⟨Ring.ofBits w0, (w0.extractLsb' 15 6), (w0.extractLsb' 9 6), (w0.getLsbD 8)⟩)) else
  none

/-- Fields of the instructions of opcodes 0x30 to 0x3F; none for a reserved selector (R88–R100). -/
def parse3 (op : BitVec 7) (w0 w1 : IWord) : Option Instr :=
  if op = 0x30#7 then (some (.br ⟨Ring.ofBits w0, (w0.extractLsb' 0 14)⟩)) else
  if op = 0x31#7 then (some (.bz ⟨Ring.ofBits w0, (w0.extractLsb' 15 6), (w0.getLsbD 14), (w0.extractLsb' 0 14)⟩)) else
  if op = 0x32#7 then (some (.bnz ⟨Ring.ofBits w0, (w0.extractLsb' 15 6), (w0.getLsbD 14), (w0.extractLsb' 0 14)⟩)) else
  if op = 0x33#7 then (some (.bltz ⟨Ring.ofBits w0, (w0.extractLsb' 15 6), (w0.getLsbD 14), (w0.extractLsb' 0 14)⟩)) else
  if op = 0x34#7 then (some (.bgez ⟨Ring.ofBits w0, (w0.extractLsb' 15 6), (w0.getLsbD 14), (w0.extractLsb' 0 14)⟩)) else
  if op = 0x35#7 then (some (.jl ⟨Ring.ofBits w0, (w0.extractLsb' 15 6), (w0.extractLsb' 9 6), (w0.getLsbD 2)⟩)) else
  if op = 0x36#7 then (some (.brl ⟨Ring.ofBits w0, (w0.extractLsb' 15 6), (w1.extractLsb' 0 28)⟩)) else
  if op = 0x37#7 then (some (.loop ⟨Ring.ofBits w0, (w0.extractLsb' 15 6), (w0.getLsbD 14), (w0.extractLsb' 0 11)⟩)) else
  if op = 0x38#7 then (some (.loopi ⟨Ring.ofBits w0, (w0.extractLsb' 11 10), (w0.extractLsb' 0 11)⟩)) else
  if op = 0x39#7 then (some (.trap ⟨Ring.ofBits w0, (w0.extractLsb' 0 10)⟩)) else
  if op = 0x3A#7 then (some (.svc ⟨Ring.ofBits w0, (w0.extractLsb' 0 12)⟩)) else
  if op = 0x3B#7 then (some (.eret)) else
  if op = 0x3C#7 then (some (.brk ⟨(w0.extractLsb' 0 10)⟩)) else
  none

/-- Fields of the instructions of opcodes 0x40 to 0x4F; none for a reserved selector (R88–R100). -/
def parse4 (op : BitVec 7) (w0 w1 : IWord) : Option Instr :=
  if op = 0x40#7 then (some (.ld ⟨Ring.ofBits w0, (w0.extractLsb' 15 6), (w0.extractLsb' 9 6), (w0.getLsbD 8), (w0.getLsbD 7), (w0.extractLsb' 5 2), (w0.extractLsb' 0 5)⟩)) else
  if op = 0x41#7 then (some (.ldu ⟨Ring.ofBits w0, (w0.extractLsb' 15 6), (w0.extractLsb' 9 6), (w0.getLsbD 8), (w0.getLsbD 7), (w0.extractLsb' 5 2), (w0.extractLsb' 0 5)⟩)) else
  if op = 0x42#7 then (some (.st ⟨Ring.ofBits w0, (w0.extractLsb' 15 6), (w0.extractLsb' 9 6), (w0.getLsbD 8), (w0.getLsbD 7), (w0.extractLsb' 5 2), (w0.extractLsb' 0 5)⟩)) else
  if op = 0x43#7 then (some (.lds ⟨Ring.ofBits w0, (w0.extractLsb' 15 6), (w0.extractLsb' 9 6), (w0.getLsbD 8), (w0.getLsbD 7), (w0.extractLsb' 5 2), (w0.extractLsb' 3 2)⟩)) else
  if op = 0x44#7 then (some (.sts ⟨Ring.ofBits w0, (w0.extractLsb' 15 6), (w0.extractLsb' 9 6), (w0.getLsbD 8), (w0.getLsbD 7), (w0.extractLsb' 5 2), (w0.extractLsb' 3 2)⟩)) else
  if op = 0x45#7 then (some (.lda ⟨Ring.ofBits w0, (w0.extractLsb' 15 6), (w0.extractLsb' 9 6), (w0.getLsbD 8), (w0.getLsbD 7), (w0.extractLsb' 5 2), (w0.extractLsb' 3 2)⟩)) else
  if op = 0x46#7 then (some (.stl ⟨Ring.ofBits w0, (w0.extractLsb' 15 6), (w0.extractLsb' 9 6), (w0.getLsbD 8), (w0.getLsbD 7), (w0.extractLsb' 5 2), (w0.extractLsb' 3 2)⟩)) else
  if op = 0x47#7 then (if w1.extractLsb' 24 4 = 0#4 then some (.aadd ⟨Ring.ofBits w0, (w0.extractLsb' 15 6), (w0.extractLsb' 9 6), (w0.getLsbD 8), (w0.getLsbD 7), (w1.extractLsb' 22 2), (w1.extractLsb' 20 2), (w1.extractLsb' 14 6), (w1.getLsbD 13), (w1.getLsbD 11), (w1.getLsbD 10)⟩) else
    if w1.extractLsb' 24 4 = 1#4 then some (.aand ⟨Ring.ofBits w0, (w0.extractLsb' 15 6), (w0.extractLsb' 9 6), (w0.getLsbD 8), (w0.getLsbD 7), (w1.extractLsb' 22 2), (w1.extractLsb' 20 2), (w1.extractLsb' 14 6), (w1.getLsbD 13), (w1.getLsbD 11), (w1.getLsbD 10)⟩) else
    if w1.extractLsb' 24 4 = 2#4 then some (.aor ⟨Ring.ofBits w0, (w0.extractLsb' 15 6), (w0.extractLsb' 9 6), (w0.getLsbD 8), (w0.getLsbD 7), (w1.extractLsb' 22 2), (w1.extractLsb' 20 2), (w1.extractLsb' 14 6), (w1.getLsbD 13), (w1.getLsbD 11), (w1.getLsbD 10)⟩) else
    if w1.extractLsb' 24 4 = 3#4 then some (.axor ⟨Ring.ofBits w0, (w0.extractLsb' 15 6), (w0.extractLsb' 9 6), (w0.getLsbD 8), (w0.getLsbD 7), (w1.extractLsb' 22 2), (w1.extractLsb' 20 2), (w1.extractLsb' 14 6), (w1.getLsbD 13), (w1.getLsbD 11), (w1.getLsbD 10)⟩) else
    if w1.extractLsb' 24 4 = 4#4 then some (.amin ⟨Ring.ofBits w0, (w0.extractLsb' 15 6), (w0.extractLsb' 9 6), (w0.getLsbD 8), (w0.getLsbD 7), (w1.extractLsb' 22 2), (w1.extractLsb' 20 2), (w1.extractLsb' 14 6), (w1.getLsbD 13), (w1.getLsbD 11), (w1.getLsbD 10)⟩) else
    if w1.extractLsb' 24 4 = 5#4 then some (.amax ⟨Ring.ofBits w0, (w0.extractLsb' 15 6), (w0.extractLsb' 9 6), (w0.getLsbD 8), (w0.getLsbD 7), (w1.extractLsb' 22 2), (w1.extractLsb' 20 2), (w1.extractLsb' 14 6), (w1.getLsbD 13), (w1.getLsbD 11), (w1.getLsbD 10)⟩) else
    if w1.extractLsb' 24 4 = 6#4 then some (.aminu ⟨Ring.ofBits w0, (w0.extractLsb' 15 6), (w0.extractLsb' 9 6), (w0.getLsbD 8), (w0.getLsbD 7), (w1.extractLsb' 22 2), (w1.extractLsb' 20 2), (w1.extractLsb' 14 6), (w1.getLsbD 13), (w1.getLsbD 11), (w1.getLsbD 10)⟩) else
    if w1.extractLsb' 24 4 = 7#4 then some (.amaxu ⟨Ring.ofBits w0, (w0.extractLsb' 15 6), (w0.extractLsb' 9 6), (w0.getLsbD 8), (w0.getLsbD 7), (w1.extractLsb' 22 2), (w1.extractLsb' 20 2), (w1.extractLsb' 14 6), (w1.getLsbD 13), (w1.getLsbD 11), (w1.getLsbD 10)⟩) else
    if w1.extractLsb' 24 4 = 8#4 then some (.aswp ⟨Ring.ofBits w0, (w0.extractLsb' 15 6), (w0.extractLsb' 9 6), (w0.getLsbD 8), (w0.getLsbD 7), (w1.extractLsb' 22 2), (w1.extractLsb' 20 2), (w1.extractLsb' 14 6), (w1.getLsbD 13), (w1.getLsbD 11), (w1.getLsbD 10)⟩) else
    if w1.extractLsb' 24 4 = 9#4 then some (.acas ⟨Ring.ofBits w0, (w0.extractLsb' 15 6), (w0.extractLsb' 9 6), (w0.getLsbD 8), (w0.getLsbD 7), (w1.extractLsb' 22 2), (w1.extractLsb' 20 2), (w1.extractLsb' 14 6), (w1.getLsbD 13), (w1.getLsbD 11), (w1.getLsbD 10)⟩) else
    if w1.extractLsb' 24 4 = 10#4 then some (.afadd ⟨Ring.ofBits w0, (w0.extractLsb' 15 6), (w0.extractLsb' 9 6), (w0.getLsbD 8), (w0.getLsbD 7), (w1.extractLsb' 22 2), (w1.extractLsb' 20 2), (w1.extractLsb' 14 6), (w1.getLsbD 13), (w1.getLsbD 11), (w1.getLsbD 10)⟩) else
    none) else
  if op = 0x48#7 then (some (.waita ⟨Ring.ofBits w0, (w0.extractLsb' 15 6), (w0.extractLsb' 9 6), (w0.getLsbD 8), (w0.getLsbD 7), (w0.getLsbD 5), (w1.extractLsb' 25 3), (w1.extractLsb' 23 2), (w1.getLsbD 22), (w1.extractLsb' 16 6), (w1.getLsbD 15), (w1.getLsbD 14), (w1.extractLsb' 8 6)⟩)) else
  if op = 0x49#7 then (if w0.extractLsb' 0 3 = 0#3 then some (.fenceFull ⟨Ring.ofBits w0, (w0.extractLsb' 3 2)⟩) else
    if w0.extractLsb' 0 3 = 1#3 then some (.fenceAcq ⟨Ring.ofBits w0, (w0.extractLsb' 3 2)⟩) else
    if w0.extractLsb' 0 3 = 2#3 then some (.fenceRel ⟨Ring.ofBits w0, (w0.extractLsb' 3 2)⟩) else
    if w0.extractLsb' 0 3 = 3#3 then some (.fenceShoal ⟨Ring.ofBits w0⟩) else
    if w0.extractLsb' 0 3 = 4#3 then some (.fenceIo ⟨Ring.ofBits w0⟩) else
    none) else
  if op = 0x4A#7 then (some (.ldm ⟨Ring.ofBits w0, (w0.extractLsb' 15 6), (w0.extractLsb' 9 6), (w0.getLsbD 8), (w0.getLsbD 7), (w0.extractLsb' 0 4)⟩)) else
  if op = 0x4B#7 then (some (.stm ⟨Ring.ofBits w0, (w0.extractLsb' 15 6), (w0.extractLsb' 9 6), (w0.getLsbD 8), (w0.getLsbD 7), (w0.extractLsb' 0 4)⟩)) else
  if op = 0x4C#7 then (some (.cvta ⟨Ring.ofBits w0, (w0.extractLsb' 15 6), (w0.extractLsb' 9 6), (w0.extractLsb' 3 6), (w0.getLsbD 2), (w0.getLsbD 1)⟩)) else
  if op = 0x4D#7 then (some (.aspc ⟨Ring.ofBits w0, (w0.extractLsb' 15 6), (w0.extractLsb' 9 6), (w0.extractLsb' 3 6), (w0.getLsbD 2), (w0.getLsbD 1)⟩)) else
  if op = 0x4E#7 then (some (.finc ⟨Ring.ofBits w0, (w0.extractLsb' 15 6), (w0.getLsbD 14), (w0.extractLsb' 8 6), (w0.getLsbD 7)⟩)) else
  if op = 0x4F#7 then (some (.fwait ⟨Ring.ofBits w0, (w0.extractLsb' 15 6), (w0.getLsbD 14), (w0.extractLsb' 8 6), (w0.getLsbD 7), (w0.extractLsb' 4 3), (w0.getLsbD 3)⟩)) else
  none

/-- Fields of the instructions of opcodes 0x50 to 0x5F; none for a reserved selector (R88–R100). -/
def parse5 (op : BitVec 7) (w0 w1 : IWord) : Option Instr :=
  if op = 0x50#7 then (if w0.getLsbD 0 then some (.vsub ⟨Ring.ofBits w0, (w0.extractLsb' 16 5), (w0.extractLsb' 11 5), (w0.extractLsb' 6 5), (w0.getLsbD 5), (w0.getLsbD 4), (w0.extractLsb' 1 3)⟩) else some (.vadd ⟨Ring.ofBits w0, (w0.extractLsb' 16 5), (w0.extractLsb' 11 5), (w0.extractLsb' 6 5), (w0.getLsbD 5), (w0.getLsbD 4), (w0.extractLsb' 1 3)⟩)) else
  if op = 0x51#7 then (some (.vmul ⟨Ring.ofBits w0, (w0.extractLsb' 16 5), (w0.extractLsb' 11 5), (w0.extractLsb' 6 5), (w0.getLsbD 5), (w0.getLsbD 4), (w0.extractLsb' 1 3)⟩)) else
  if op = 0x52#7 then (if w0.getLsbD 0 then some (.vfnma ⟨Ring.ofBits w0, (w0.extractLsb' 16 5), (w0.extractLsb' 11 5), (w0.extractLsb' 6 5), (w0.getLsbD 5), (w0.getLsbD 4), (w0.extractLsb' 1 3)⟩) else some (.vfma ⟨Ring.ofBits w0, (w0.extractLsb' 16 5), (w0.extractLsb' 11 5), (w0.extractLsb' 6 5), (w0.getLsbD 5), (w0.getLsbD 4), (w0.extractLsb' 1 3)⟩)) else
  if op = 0x53#7 then (if w0.getLsbD 0 then some (.vmax ⟨Ring.ofBits w0, (w0.extractLsb' 16 5), (w0.extractLsb' 11 5), (w0.extractLsb' 6 5), (w0.getLsbD 5), (w0.getLsbD 4), (w0.extractLsb' 1 3)⟩) else some (.vmin ⟨Ring.ofBits w0, (w0.extractLsb' 16 5), (w0.extractLsb' 11 5), (w0.extractLsb' 6 5), (w0.getLsbD 5), (w0.getLsbD 4), (w0.extractLsb' 1 3)⟩)) else
  if op = 0x54#7 then (some (.vcmp ⟨Ring.ofBits w0, (w0.extractLsb' 19 2 ++ w0.extractLsb' 0 1), (w0.extractLsb' 16 3), (w0.extractLsb' 11 5), (w0.extractLsb' 6 5), (w0.getLsbD 5), (w0.getLsbD 4), (w0.extractLsb' 1 3)⟩)) else
  if op = 0x55#7 then (some (.vsel ⟨Ring.ofBits w0, (w0.extractLsb' 16 5), (w0.extractLsb' 11 5), (w0.extractLsb' 6 5), (w0.getLsbD 5), (w0.getLsbD 4), (w0.extractLsb' 1 3)⟩)) else
  if op = 0x56#7 then (some (.vbcast ⟨Ring.ofBits w0, (w0.extractLsb' 16 5), (w0.extractLsb' 10 6), (w0.getLsbD 5), (w0.extractLsb' 1 3)⟩)) else
  if op = 0x57#7 then (some (.vmov ⟨Ring.ofBits w0, (w0.extractLsb' 16 5), (w0.extractLsb' 11 5), (w0.getLsbD 5), (w0.extractLsb' 1 3)⟩)) else
  if op = 0x58#7 then (some (.vld ⟨Ring.ofBits w0, (w0.extractLsb' 16 5), (w0.extractLsb' 10 6), (w0.getLsbD 9), (w0.getLsbD 8), (w0.extractLsb' 0 8)⟩)) else
  if op = 0x59#7 then (some (.vst ⟨Ring.ofBits w0, (w0.extractLsb' 16 5), (w0.extractLsb' 10 6), (w0.getLsbD 9), (w0.getLsbD 8), (w0.extractLsb' 0 8)⟩)) else
  if op = 0x5A#7 then (some (.vldg ⟨Ring.ofBits w0, (w0.extractLsb' 16 5), (w0.extractLsb' 10 6), (w0.getLsbD 9), (w0.extractLsb' 0 2)⟩)) else
  if op = 0x5B#7 then (some (.vsts ⟨Ring.ofBits w0, (w0.extractLsb' 16 5), (w0.extractLsb' 10 6), (w0.getLsbD 9), (w0.extractLsb' 0 2)⟩)) else
  if op = 0x5C#7 then (if w0.extractLsb' 6 2 = 3#2 then none else some (.vred ⟨Ring.ofBits w0, (w0.extractLsb' 16 5), (w0.extractLsb' 11 5), (w0.extractLsb' 6 2), (w0.getLsbD 5), (w0.extractLsb' 1 3)⟩)) else
  if op = 0x5D#7 then (some (.vsett ⟨Ring.ofBits w0, (w0.extractLsb' 16 4), (w0.extractLsb' 14 2), (w0.extractLsb' 12 2)⟩)) else
  if op = 0x5E#7 then (some (.vperm ⟨Ring.ofBits w0, (w0.extractLsb' 16 5), (w0.extractLsb' 11 5), (w0.extractLsb' 6 5), (w0.getLsbD 5), (w0.getLsbD 4), (w0.extractLsb' 1 3)⟩)) else
  if op = 0x5F#7 then (if w1.extractLsb' 20 8 = 0#8 then some (.vand ⟨Ring.ofBits w0, (w0.extractLsb' 16 5), (w0.extractLsb' 11 5), (w0.extractLsb' 6 5), (w0.getLsbD 5), (w0.getLsbD 4), (w0.extractLsb' 1 3), (w0.getLsbD 0), (w1.extractLsb' 18 2), (w1.extractLsb' 16 2), (w1.extractLsb' 12 4), (w1.extractLsb' 8 4), (w1.extractLsb' 0 8)⟩) else
    if w1.extractLsb' 20 8 = 1#8 then some (.vor ⟨Ring.ofBits w0, (w0.extractLsb' 16 5), (w0.extractLsb' 11 5), (w0.extractLsb' 6 5), (w0.getLsbD 5), (w0.getLsbD 4), (w0.extractLsb' 1 3), (w0.getLsbD 0), (w1.extractLsb' 18 2), (w1.extractLsb' 16 2), (w1.extractLsb' 12 4), (w1.extractLsb' 8 4), (w1.extractLsb' 0 8)⟩) else
    if w1.extractLsb' 20 8 = 2#8 then some (.vxor ⟨Ring.ofBits w0, (w0.extractLsb' 16 5), (w0.extractLsb' 11 5), (w0.extractLsb' 6 5), (w0.getLsbD 5), (w0.getLsbD 4), (w0.extractLsb' 1 3), (w0.getLsbD 0), (w1.extractLsb' 18 2), (w1.extractLsb' 16 2), (w1.extractLsb' 12 4), (w1.extractLsb' 8 4), (w1.extractLsb' 0 8)⟩) else
    if w1.extractLsb' 20 8 = 3#8 then some (.vnot ⟨Ring.ofBits w0, (w0.extractLsb' 16 5), (w0.extractLsb' 11 5), (w0.extractLsb' 6 5), (w0.getLsbD 5), (w0.getLsbD 4), (w0.extractLsb' 1 3), (w0.getLsbD 0), (w1.extractLsb' 18 2), (w1.extractLsb' 16 2), (w1.extractLsb' 12 4), (w1.extractLsb' 8 4), (w1.extractLsb' 0 8)⟩) else
    if w1.extractLsb' 20 8 = 4#8 then some (.vshl ⟨Ring.ofBits w0, (w0.extractLsb' 16 5), (w0.extractLsb' 11 5), (w0.extractLsb' 6 5), (w0.getLsbD 5), (w0.getLsbD 4), (w0.extractLsb' 1 3), (w0.getLsbD 0), (w1.extractLsb' 18 2), (w1.extractLsb' 16 2), (w1.extractLsb' 12 4), (w1.extractLsb' 8 4), (w1.extractLsb' 0 8)⟩) else
    if w1.extractLsb' 20 8 = 5#8 then some (.vshr ⟨Ring.ofBits w0, (w0.extractLsb' 16 5), (w0.extractLsb' 11 5), (w0.extractLsb' 6 5), (w0.getLsbD 5), (w0.getLsbD 4), (w0.extractLsb' 1 3), (w0.getLsbD 0), (w1.extractLsb' 18 2), (w1.extractLsb' 16 2), (w1.extractLsb' 12 4), (w1.extractLsb' 8 4), (w1.extractLsb' 0 8)⟩) else
    if w1.extractLsb' 20 8 = 6#8 then some (.vsra ⟨Ring.ofBits w0, (w0.extractLsb' 16 5), (w0.extractLsb' 11 5), (w0.extractLsb' 6 5), (w0.getLsbD 5), (w0.getLsbD 4), (w0.extractLsb' 1 3), (w0.getLsbD 0), (w1.extractLsb' 18 2), (w1.extractLsb' 16 2), (w1.extractLsb' 12 4), (w1.extractLsb' 8 4), (w1.extractLsb' 0 8)⟩) else
    if w1.extractLsb' 20 8 = 7#8 then some (.vabs ⟨Ring.ofBits w0, (w0.extractLsb' 16 5), (w0.extractLsb' 11 5), (w0.extractLsb' 6 5), (w0.getLsbD 5), (w0.getLsbD 4), (w0.extractLsb' 1 3), (w0.getLsbD 0), (w1.extractLsb' 18 2), (w1.extractLsb' 16 2), (w1.extractLsb' 12 4), (w1.extractLsb' 8 4), (w1.extractLsb' 0 8)⟩) else
    if w1.extractLsb' 20 8 = 8#8 then some (.vneg ⟨Ring.ofBits w0, (w0.extractLsb' 16 5), (w0.extractLsb' 11 5), (w0.extractLsb' 6 5), (w0.getLsbD 5), (w0.getLsbD 4), (w0.extractLsb' 1 3), (w0.getLsbD 0), (w1.extractLsb' 18 2), (w1.extractLsb' 16 2), (w1.extractLsb' 12 4), (w1.extractLsb' 8 4), (w1.extractLsb' 0 8)⟩) else
    if w1.extractLsb' 20 8 = 16#8 then some (.vdiv ⟨Ring.ofBits w0, (w0.extractLsb' 16 5), (w0.extractLsb' 11 5), (w0.extractLsb' 6 5), (w0.getLsbD 5), (w0.getLsbD 4), (w0.extractLsb' 1 3), (w0.getLsbD 0), (w1.extractLsb' 18 2), (w1.extractLsb' 16 2), (w1.extractLsb' 12 4), (w1.extractLsb' 8 4), (w1.extractLsb' 0 8)⟩) else
    if w1.extractLsb' 20 8 = 17#8 then some (.vsqrt ⟨Ring.ofBits w0, (w0.extractLsb' 16 5), (w0.extractLsb' 11 5), (w0.extractLsb' 6 5), (w0.getLsbD 5), (w0.getLsbD 4), (w0.extractLsb' 1 3), (w0.getLsbD 0), (w1.extractLsb' 18 2), (w1.extractLsb' 16 2), (w1.extractLsb' 12 4), (w1.extractLsb' 8 4), (w1.extractLsb' 0 8)⟩) else
    if w1.extractLsb' 20 8 = 18#8 then some (.vrcp ⟨Ring.ofBits w0, (w0.extractLsb' 16 5), (w0.extractLsb' 11 5), (w0.extractLsb' 6 5), (w0.getLsbD 5), (w0.getLsbD 4), (w0.extractLsb' 1 3), (w0.getLsbD 0), (w1.extractLsb' 18 2), (w1.extractLsb' 16 2), (w1.extractLsb' 12 4), (w1.extractLsb' 8 4), (w1.extractLsb' 0 8)⟩) else
    if w1.extractLsb' 20 8 = 19#8 then some (.vrsqrt ⟨Ring.ofBits w0, (w0.extractLsb' 16 5), (w0.extractLsb' 11 5), (w0.extractLsb' 6 5), (w0.getLsbD 5), (w0.getLsbD 4), (w0.extractLsb' 1 3), (w0.getLsbD 0), (w1.extractLsb' 18 2), (w1.extractLsb' 16 2), (w1.extractLsb' 12 4), (w1.extractLsb' 8 4), (w1.extractLsb' 0 8)⟩) else
    if w1.extractLsb' 20 8 = 20#8 then some (.vexp2 ⟨Ring.ofBits w0, (w0.extractLsb' 16 5), (w0.extractLsb' 11 5), (w0.extractLsb' 6 5), (w0.getLsbD 5), (w0.getLsbD 4), (w0.extractLsb' 1 3), (w0.getLsbD 0), (w1.extractLsb' 18 2), (w1.extractLsb' 16 2), (w1.extractLsb' 12 4), (w1.extractLsb' 8 4), (w1.extractLsb' 0 8)⟩) else
    if w1.extractLsb' 20 8 = 21#8 then some (.vlog2 ⟨Ring.ofBits w0, (w0.extractLsb' 16 5), (w0.extractLsb' 11 5), (w0.extractLsb' 6 5), (w0.getLsbD 5), (w0.getLsbD 4), (w0.extractLsb' 1 3), (w0.getLsbD 0), (w1.extractLsb' 18 2), (w1.extractLsb' 16 2), (w1.extractLsb' 12 4), (w1.extractLsb' 8 4), (w1.extractLsb' 0 8)⟩) else
    if w1.extractLsb' 20 8 = 22#8 then some (.vsinpi ⟨Ring.ofBits w0, (w0.extractLsb' 16 5), (w0.extractLsb' 11 5), (w0.extractLsb' 6 5), (w0.getLsbD 5), (w0.getLsbD 4), (w0.extractLsb' 1 3), (w0.getLsbD 0), (w1.extractLsb' 18 2), (w1.extractLsb' 16 2), (w1.extractLsb' 12 4), (w1.extractLsb' 8 4), (w1.extractLsb' 0 8)⟩) else
    if w1.extractLsb' 20 8 = 23#8 then some (.vcospi ⟨Ring.ofBits w0, (w0.extractLsb' 16 5), (w0.extractLsb' 11 5), (w0.extractLsb' 6 5), (w0.getLsbD 5), (w0.getLsbD 4), (w0.extractLsb' 1 3), (w0.getLsbD 0), (w1.extractLsb' 18 2), (w1.extractLsb' 16 2), (w1.extractLsb' 12 4), (w1.extractLsb' 8 4), (w1.extractLsb' 0 8)⟩) else
    if w1.extractLsb' 20 8 = 24#8 then some (.vtanh ⟨Ring.ofBits w0, (w0.extractLsb' 16 5), (w0.extractLsb' 11 5), (w0.extractLsb' 6 5), (w0.getLsbD 5), (w0.getLsbD 4), (w0.extractLsb' 1 3), (w0.getLsbD 0), (w1.extractLsb' 18 2), (w1.extractLsb' 16 2), (w1.extractLsb' 12 4), (w1.extractLsb' 8 4), (w1.extractLsb' 0 8)⟩) else
    if w1.extractLsb' 20 8 = 32#8 then some (.vcvt ⟨Ring.ofBits w0, (w0.extractLsb' 16 5), (w0.extractLsb' 11 5), (w0.extractLsb' 6 5), (w0.getLsbD 5), (w0.getLsbD 4), (w0.extractLsb' 1 3), (w0.getLsbD 0), (w1.extractLsb' 18 2), (w1.extractLsb' 16 2), (w1.extractLsb' 12 4), (w1.extractLsb' 8 4), (w1.extractLsb' 0 8)⟩) else
    if w1.extractLsb' 20 8 = 33#8 then some (.vquant ⟨Ring.ofBits w0, (w0.extractLsb' 16 5), (w0.extractLsb' 11 5), (w0.extractLsb' 6 5), (w0.getLsbD 5), (w0.getLsbD 4), (w0.extractLsb' 1 3), (w0.getLsbD 0), (w1.extractLsb' 18 2), (w1.extractLsb' 16 2), (w1.extractLsb' 12 4), (w1.extractLsb' 8 4), (w1.extractLsb' 0 8)⟩) else
    if w1.extractLsb' 20 8 = 34#8 then some (.vdeq ⟨Ring.ofBits w0, (w0.extractLsb' 16 5), (w0.extractLsb' 11 5), (w0.extractLsb' 6 5), (w0.getLsbD 5), (w0.getLsbD 4), (w0.extractLsb' 1 3), (w0.getLsbD 0), (w1.extractLsb' 18 2), (w1.extractLsb' 16 2), (w1.extractLsb' 12 4), (w1.extractLsb' 8 4), (w1.extractLsb' 0 8)⟩) else
    if w1.extractLsb' 20 8 = 35#8 then some (.vpack ⟨Ring.ofBits w0, (w0.extractLsb' 16 5), (w0.extractLsb' 11 5), (w0.extractLsb' 6 5), (w0.getLsbD 5), (w0.getLsbD 4), (w0.extractLsb' 1 3), (w0.getLsbD 0), (w1.extractLsb' 18 2), (w1.extractLsb' 16 2), (w1.extractLsb' 12 4), (w1.extractLsb' 8 4), (w1.extractLsb' 0 8)⟩) else
    if w1.extractLsb' 20 8 = 36#8 then some (.vunpk ⟨Ring.ofBits w0, (w0.extractLsb' 16 5), (w0.extractLsb' 11 5), (w0.extractLsb' 6 5), (w0.getLsbD 5), (w0.getLsbD 4), (w0.extractLsb' 1 3), (w0.getLsbD 0), (w1.extractLsb' 18 2), (w1.extractLsb' 16 2), (w1.extractLsb' 12 4), (w1.extractLsb' 8 4), (w1.extractLsb' 0 8)⟩) else
    if w1.extractLsb' 20 8 = 48#8 then some (.vslide ⟨Ring.ofBits w0, (w0.extractLsb' 16 5), (w0.extractLsb' 11 5), (w0.extractLsb' 6 5), (w0.getLsbD 5), (w0.getLsbD 4), (w0.extractLsb' 1 3), (w0.getLsbD 0), (w1.extractLsb' 18 2), (w1.extractLsb' 16 2), (w1.extractLsb' 12 4), (w1.extractLsb' 8 4), (w1.extractLsb' 0 8)⟩) else
    if w1.extractLsb' 20 8 = 49#8 then some (.vextr ⟨Ring.ofBits w0, (w0.extractLsb' 16 5), (w0.extractLsb' 11 5), (w0.extractLsb' 6 5), (w0.getLsbD 5), (w0.getLsbD 4), (w0.extractLsb' 1 3), (w0.getLsbD 0), (w1.extractLsb' 18 2), (w1.extractLsb' 16 2), (w1.extractLsb' 12 4), (w1.extractLsb' 8 4), (w1.extractLsb' 0 8)⟩) else
    if w1.extractLsb' 20 8 = 50#8 then some (.vins ⟨Ring.ofBits w0, (w0.extractLsb' 16 5), (w0.extractLsb' 10 6), (w0.getLsbD 5), (w1.extractLsb' 12 4), (w1.extractLsb' 8 4), (w1.extractLsb' 0 8)⟩) else
    if w1.extractLsb' 20 8 = 51#8 then some (.viota ⟨Ring.ofBits w0, (w0.extractLsb' 16 5), (w0.extractLsb' 11 5), (w0.extractLsb' 6 5), (w0.getLsbD 5), (w0.getLsbD 4), (w0.extractLsb' 1 3), (w0.getLsbD 0), (w1.extractLsb' 18 2), (w1.extractLsb' 16 2), (w1.extractLsb' 12 4), (w1.extractLsb' 8 4), (w1.extractLsb' 0 8)⟩) else
    if w1.extractLsb' 20 8 = 52#8 then some (.vscan ⟨Ring.ofBits w0, (w0.extractLsb' 16 5), (w0.extractLsb' 11 5), (w0.extractLsb' 6 5), (w0.getLsbD 5), (w0.getLsbD 4), (w0.extractLsb' 1 3), (w0.getLsbD 0), (w1.extractLsb' 18 2), (w1.extractLsb' 16 2), (w1.extractLsb' 12 4), (w1.extractLsb' 8 4), (w1.extractLsb' 0 8)⟩) else
    if w1.extractLsb' 20 8 = 53#8 then some (.vclass ⟨Ring.ofBits w0, (w0.extractLsb' 16 5), (w0.extractLsb' 11 5), (w0.extractLsb' 6 5), (w0.getLsbD 5), (w0.getLsbD 4), (w0.extractLsb' 1 3), (w0.getLsbD 0), (w1.extractLsb' 18 2), (w1.extractLsb' 16 2), (w1.extractLsb' 12 4), (w1.extractLsb' 8 4), (w1.extractLsb' 0 8)⟩) else
    none) else
  none

/-- Fields of the instructions of opcodes 0x60 to 0x6F; none for a reserved selector (R88–R100). -/
def parse6 (op : BitVec 7) (w0 w1 w2 w3 : IWord) : Option Instr :=
  if op = 0x60#7 then (some (.mlease ⟨Ring.ofBits w0, (w0.extractLsb' 17 4), (w0.extractLsb' 15 2), (w0.extractLsb' 8 6), (w0.getLsbD 7), (w0.getLsbD 6)⟩)) else
  if op = 0x61#7 then (some (.mrel ⟨Ring.ofBits w0, (w0.extractLsb' 17 4), (w0.extractLsb' 15 2)⟩)) else
  if op = 0x62#7 then (some (.mma ⟨Ring.ofBits w0, (w0.extractLsb' 17 4), (w0.extractLsb' 15 2), (w0.getLsbD 14), (w0.extractLsb' 9 5), (w0.extractLsb' 4 5), (w0.getLsbD 3), (w1.extractLsb' 20 8), (w1.extractLsb' 14 6), (w1.getLsbD 13), (w1.extractLsb' 7 6), (w1.getLsbD 6), (w2.extractLsb' 22 6), (w2.getLsbD 21), (w2.extractLsb' 15 6), (w2.getLsbD 14), (w2.extractLsb' 8 6), (w2.getLsbD 7), (w3.extractLsb' 20 8), (w3.extractLsb' 12 8)⟩)) else
  if op = 0x63#7 then (some (.mmaq ⟨Ring.ofBits w0, (w0.extractLsb' 17 4), (w0.extractLsb' 15 2), (w0.getLsbD 14), (w0.extractLsb' 9 5), (w0.extractLsb' 4 5), (w0.getLsbD 3), (w1.extractLsb' 20 8), (w1.extractLsb' 14 6), (w1.getLsbD 13), (w1.extractLsb' 7 6), (w1.getLsbD 6), (w2.extractLsb' 22 6), (w2.getLsbD 21), (w2.extractLsb' 15 6), (w2.getLsbD 14), (w2.extractLsb' 8 6), (w2.getLsbD 7), (w3.extractLsb' 20 8), (w3.extractLsb' 12 8)⟩)) else
  if op = 0x64#7 then (some (.mmv ⟨Ring.ofBits w0, (w0.extractLsb' 17 4), (w0.extractLsb' 15 2), (w0.getLsbD 14), (w0.extractLsb' 9 5), (w0.extractLsb' 4 5), (w0.getLsbD 3), (w1.extractLsb' 20 8), (w1.extractLsb' 14 6), (w1.getLsbD 13), (w1.extractLsb' 7 6), (w1.getLsbD 6), (w2.extractLsb' 22 6), (w2.getLsbD 21), (w2.extractLsb' 15 6), (w2.getLsbD 14), (w2.extractLsb' 8 6), (w2.getLsbD 7), (w3.extractLsb' 20 8), (w3.extractLsb' 12 8)⟩)) else
  if op = 0x65#7 then (some (.mzero ⟨Ring.ofBits w0, (w0.extractLsb' 17 4), (w0.extractLsb' 15 2), (w0.getLsbD 14), (w0.extractLsb' 6 8), (w0.extractLsb' 0 6)⟩)) else
  if op = 0x66#7 then (some (.mdrain ⟨Ring.ofBits w0, (w0.extractLsb' 17 4), (w0.extractLsb' 15 2), (w0.getLsbD 14), (w0.extractLsb' 9 5), (w0.getLsbD 8), (w0.extractLsb' 6 2), (w0.extractLsb' 4 2), (w1.extractLsb' 20 8), (w1.extractLsb' 14 6), (w1.getLsbD 13), (w1.extractLsb' 7 6), (w1.getLsbD 6), (w2.extractLsb' 20 8)⟩)) else
  if op = 0x67#7 then (some (.mldacc ⟨Ring.ofBits w0, (w0.extractLsb' 17 4), (w0.extractLsb' 15 2), (w0.getLsbD 14), (w0.extractLsb' 9 5), (w0.getLsbD 8), (w0.extractLsb' 6 2), (w0.extractLsb' 4 2), (w1.extractLsb' 20 8), (w1.extractLsb' 14 6), (w1.getLsbD 13), (w1.extractLsb' 7 6), (w1.getLsbD 6), (w2.extractLsb' 20 8)⟩)) else
  if op = 0x68#7 then (some (.cpy ⟨Ring.ofBits w0, (w0.extractLsb' 17 4), (w0.extractLsb' 15 2), (w0.getLsbD 14), (w0.extractLsb' 9 5), (w0.extractLsb' 4 5), (w0.getLsbD 3), (w1.extractLsb' 22 6), (w1.getLsbD 21), (w1.extractLsb' 15 6), (w1.getLsbD 14), (w1.extractLsb' 11 3), (w1.extractLsb' 8 3), (w1.extractLsb' 0 8), (w2.extractLsb' 24 4), (w2.extractLsb' 22 2), (w2.extractLsb' 20 2), (w2.getLsbD 19), (w2.extractLsb' 17 2), (w2.extractLsb' 11 6), (w2.getLsbD 10), (w2.getLsbD 9), (w2.extractLsb' 6 3)⟩)) else
  if op = 0x69#7 then (some (.cpyg ⟨⟨Ring.ofBits w0, (w0.extractLsb' 17 4), (w0.extractLsb' 15 2), (w0.getLsbD 14), (w0.extractLsb' 9 5), (w0.extractLsb' 4 5), (w0.getLsbD 3), (w1.extractLsb' 22 6), (w1.getLsbD 21), (w1.extractLsb' 15 6), (w1.getLsbD 14), (w1.extractLsb' 11 3), (w1.extractLsb' 8 3), (w1.extractLsb' 0 8), (w2.extractLsb' 24 4), (w2.extractLsb' 22 2), (w2.extractLsb' 20 2), (w2.getLsbD 19), (w2.extractLsb' 17 2), (w2.extractLsb' 11 6), (w2.getLsbD 10), (w2.getLsbD 9), (w2.extractLsb' 6 3)⟩, (w3.extractLsb' 23 5), (w3.extractLsb' 17 6), (w3.getLsbD 16), (w3.extractLsb' 10 6), (w3.getLsbD 9)⟩)) else
  if op = 0x6A#7 then (some (.cpys ⟨⟨Ring.ofBits w0, (w0.extractLsb' 17 4), (w0.extractLsb' 15 2), (w0.getLsbD 14), (w0.extractLsb' 9 5), (w0.extractLsb' 4 5), (w0.getLsbD 3), (w1.extractLsb' 22 6), (w1.getLsbD 21), (w1.extractLsb' 15 6), (w1.getLsbD 14), (w1.extractLsb' 11 3), (w1.extractLsb' 8 3), (w1.extractLsb' 0 8), (w2.extractLsb' 24 4), (w2.extractLsb' 22 2), (w2.extractLsb' 20 2), (w2.getLsbD 19), (w2.extractLsb' 17 2), (w2.extractLsb' 11 6), (w2.getLsbD 10), (w2.getLsbD 9), (w2.extractLsb' 6 3)⟩, (w3.extractLsb' 23 5), (w3.extractLsb' 17 6), (w3.getLsbD 16), (w3.extractLsb' 10 6), (w3.getLsbD 9)⟩)) else
  if op = 0x6B#7 then (if w3.extractLsb' 26 2 = 3#2 then none else some (.cpyr ⟨⟨Ring.ofBits w0, (w0.extractLsb' 17 4), (w0.extractLsb' 15 2), (w0.getLsbD 14), (w0.extractLsb' 9 5), (w0.extractLsb' 4 5), (w0.getLsbD 3), (w1.extractLsb' 22 6), (w1.getLsbD 21), (w1.extractLsb' 15 6), (w1.getLsbD 14), (w1.extractLsb' 11 3), (w1.extractLsb' 8 3), (w1.extractLsb' 0 8), (w2.extractLsb' 24 4), (w2.extractLsb' 22 2), (w2.extractLsb' 20 2), (w2.getLsbD 19), (w2.extractLsb' 17 2), (w2.extractLsb' 11 6), (w2.getLsbD 10), (w2.getLsbD 9), (w2.extractLsb' 6 3)⟩, (w3.extractLsb' 26 2)⟩)) else
  if op = 0x6C#7 then (some (.cfill ⟨Ring.ofBits w0, (w0.extractLsb' 17 4), (w0.extractLsb' 15 2), (w0.getLsbD 14), (w0.extractLsb' 9 5), (w0.extractLsb' 3 6), (w0.getLsbD 2), (w1.extractLsb' 22 6), (w1.getLsbD 21), (w1.extractLsb' 18 3), (w1.extractLsb' 12 6), (w1.getLsbD 11), (w1.getLsbD 10), (w1.extractLsb' 7 3), (w2.extractLsb' 20 8)⟩)) else
  if op = 0x6D#7 then (some (.chbind ⟨Ring.ofBits w0, (w0.extractLsb' 17 4), (w0.extractLsb' 15 2), (w0.getLsbD 14), (w0.getLsbD 13), (w0.extractLsb' 10 3), (w0.extractLsb' 5 5), (w1.extractLsb' 22 6), (w1.getLsbD 21), (w1.extractLsb' 15 6), (w1.getLsbD 14)⟩)) else
  if op = 0x6E#7 then (if w0.getLsbD 0 then some (.chunb ⟨Ring.ofBits w0, (w0.extractLsb' 17 4), (w0.extractLsb' 15 2), (w0.getLsbD 14), (w0.getLsbD 13), (w0.extractLsb' 10 3)⟩) else some (.chrd ⟨Ring.ofBits w0, (w0.extractLsb' 17 4), (w0.extractLsb' 15 2), (w0.getLsbD 14), (w0.getLsbD 13), (w0.extractLsb' 10 3), (w0.extractLsb' 4 6), (w0.getLsbD 3)⟩)) else
  if op = 0x6F#7 then (some (.pkset ⟨Ring.ofBits w0, (w0.extractLsb' 17 4), (w0.extractLsb' 15 2), (w0.getLsbD 14), (w0.extractLsb' 10 4), (w1.extractLsb' 24 4)⟩)) else
  none

/-- Fields of the instructions of opcodes 0x70 to 0x7F; none for a reserved selector (R88–R100). -/
def parse7 (op : BitVec 7) (w0 w1 w2 w3 : IWord) : Option Instr :=
  if op = 0x70#7 then (some (.xst ⟨Ring.ofBits w0, (w0.extractLsb' 17 4), (w0.extractLsb' 15 2), (w0.getLsbD 14), (w0.extractLsb' 9 5), (w0.extractLsb' 4 5), (w1.extractLsb' 22 6), (w1.getLsbD 21), (w1.extractLsb' 15 6), (w1.getLsbD 14), (w1.extractLsb' 11 3), (w1.extractLsb' 8 3), (w1.extractLsb' 0 8), (w2.extractLsb' 22 6), (w2.getLsbD 21), (w2.extractLsb' 15 6), (w2.getLsbD 14), (w3.extractLsb' 16 12)⟩)) else
  if op = 0x71#7 then (some (.xld ⟨Ring.ofBits w0, (w0.extractLsb' 17 4), (w0.extractLsb' 15 2), (w0.getLsbD 14), (w0.extractLsb' 9 5), (w0.extractLsb' 4 5), (w1.extractLsb' 22 6), (w1.getLsbD 21), (w1.extractLsb' 15 6), (w1.getLsbD 14), (w1.extractLsb' 11 3), (w1.extractLsb' 8 3), (w1.extractLsb' 0 8), (w2.extractLsb' 22 6), (w2.getLsbD 21), (w2.getLsbD 20), (w2.extractLsb' 17 3)⟩)) else
  if op = 0x72#7 then (if 11#4 ≤ w0.extractLsb' 5 4 then none else some (.xamo ⟨Ring.ofBits w0, (w0.extractLsb' 17 4), (w0.extractLsb' 15 2), (w0.getLsbD 14), (w0.extractLsb' 9 5), (w0.extractLsb' 5 4), (w0.extractLsb' 3 2), (w0.extractLsb' 1 2), (w1.extractLsb' 22 6), (w1.getLsbD 21), (w1.extractLsb' 15 6), (w1.getLsbD 14), (w1.extractLsb' 8 6), (w1.getLsbD 7), (w2.extractLsb' 22 6), (w2.getLsbD 21)⟩)) else
  if op = 0x73#7 then (if w0.extractLsb' 0 3 = 0#3 then some (.car ⟨Ring.ofBits w0, (w0.extractLsb' 17 4), (w0.extractLsb' 15 2), (w0.getLsbD 14), (w0.extractLsb' 9 5), (w0.extractLsb' 4 5), (w0.getLsbD 3), (w1.extractLsb' 22 6), (w1.getLsbD 21), (w1.extractLsb' 15 6), (w1.getLsbD 14), (w1.extractLsb' 11 3), (w1.extractLsb' 8 3), (w1.extractLsb' 0 8), (w2.extractLsb' 16 12), (w2.extractLsb' 12 4), (w2.extractLsb' 10 2), (w2.extractLsb' 8 2), (w2.extractLsb' 6 2), (w3.extractLsb' 22 6), (w3.getLsbD 21), (w3.extractLsb' 15 6), (w3.extractLsb' 9 6), (w3.getLsbD 8)⟩) else
    if w0.extractLsb' 0 3 = 1#3 then some (.cag ⟨Ring.ofBits w0, (w0.extractLsb' 17 4), (w0.extractLsb' 15 2), (w0.getLsbD 14), (w0.extractLsb' 9 5), (w0.extractLsb' 4 5), (w0.getLsbD 3), (w1.extractLsb' 22 6), (w1.getLsbD 21), (w1.extractLsb' 15 6), (w1.getLsbD 14), (w1.extractLsb' 11 3), (w1.extractLsb' 8 3), (w1.extractLsb' 0 8), (w2.extractLsb' 16 12), (w2.extractLsb' 12 4), (w2.extractLsb' 10 2), (w2.extractLsb' 8 2), (w2.extractLsb' 6 2), (w3.extractLsb' 22 6), (w3.getLsbD 21), (w3.extractLsb' 15 6), (w3.extractLsb' 9 6), (w3.getLsbD 8)⟩) else
    if w0.extractLsb' 0 3 = 2#3 then some (.crs ⟨Ring.ofBits w0, (w0.extractLsb' 17 4), (w0.extractLsb' 15 2), (w0.getLsbD 14), (w0.extractLsb' 9 5), (w0.extractLsb' 4 5), (w0.getLsbD 3), (w1.extractLsb' 22 6), (w1.getLsbD 21), (w1.extractLsb' 15 6), (w1.getLsbD 14), (w1.extractLsb' 11 3), (w1.extractLsb' 8 3), (w1.extractLsb' 0 8), (w2.extractLsb' 16 12), (w2.extractLsb' 12 4), (w2.extractLsb' 10 2), (w2.extractLsb' 8 2), (w2.extractLsb' 6 2), (w3.extractLsb' 22 6), (w3.getLsbD 21), (w3.extractLsb' 15 6), (w3.extractLsb' 9 6), (w3.getLsbD 8)⟩) else
    if w0.extractLsb' 0 3 = 3#3 then some (.ca2a ⟨Ring.ofBits w0, (w0.extractLsb' 17 4), (w0.extractLsb' 15 2), (w0.getLsbD 14), (w0.extractLsb' 9 5), (w0.extractLsb' 4 5), (w0.getLsbD 3), (w1.extractLsb' 22 6), (w1.getLsbD 21), (w1.extractLsb' 15 6), (w1.getLsbD 14), (w1.extractLsb' 11 3), (w1.extractLsb' 8 3), (w1.extractLsb' 0 8), (w2.extractLsb' 16 12), (w2.extractLsb' 12 4), (w2.extractLsb' 10 2), (w2.extractLsb' 8 2), (w2.extractLsb' 6 2), (w3.extractLsb' 22 6), (w3.getLsbD 21), (w3.extractLsb' 15 6), (w3.extractLsb' 9 6), (w3.getLsbD 8)⟩) else
    if w0.extractLsb' 0 3 = 4#3 then some (.cbc ⟨Ring.ofBits w0, (w0.extractLsb' 17 4), (w0.extractLsb' 15 2), (w0.getLsbD 14), (w0.extractLsb' 9 5), (w0.extractLsb' 4 5), (w0.getLsbD 3), (w1.extractLsb' 22 6), (w1.getLsbD 21), (w1.extractLsb' 15 6), (w1.getLsbD 14), (w1.extractLsb' 11 3), (w1.extractLsb' 8 3), (w1.extractLsb' 0 8), (w2.extractLsb' 16 12), (w2.extractLsb' 12 4), (w2.extractLsb' 10 2), (w2.extractLsb' 8 2), (w2.extractLsb' 6 2), (w3.extractLsb' 22 6), (w3.getLsbD 21), (w3.extractLsb' 15 6), (w3.extractLsb' 9 6), (w3.getLsbD 8)⟩) else
    none) else
  if op = 0x74#7 then (some (.cbar ⟨Ring.ofBits w0, (w0.extractLsb' 17 4), (w0.extractLsb' 15 2), (w0.getLsbD 14), (w0.extractLsb' 2 12), (w1.extractLsb' 22 6), (w1.getLsbD 21)⟩)) else
  if op = 0x75#7 then (some (.nsend ⟨Ring.ofBits w0, (w0.extractLsb' 17 4), (w0.extractLsb' 15 2), (w0.getLsbD 14), (w0.extractLsb' 9 5), (w0.extractLsb' 4 5), (w0.extractLsb' 2 2), (w1.extractLsb' 22 6), (w1.getLsbD 21), (w1.extractLsb' 15 6), (w1.getLsbD 14), (w1.extractLsb' 11 3), (w1.extractLsb' 0 8), (w2.extractLsb' 22 6), (w2.getLsbD 21), (w2.extractLsb' 15 6), (w2.getLsbD 14), (w2.extractLsb' 8 6)⟩)) else
  if op = 0x76#7 then (some (.nrecv ⟨Ring.ofBits w0, (w0.extractLsb' 17 4), (w0.extractLsb' 15 2), (w0.getLsbD 14), (w0.extractLsb' 9 5), (w0.extractLsb' 4 5), (w0.extractLsb' 2 2), (w1.extractLsb' 22 6), (w1.getLsbD 21), (w1.extractLsb' 15 6), (w1.getLsbD 14), (w1.extractLsb' 11 3), (w1.extractLsb' 0 8), (w2.extractLsb' 22 6), (w2.getLsbD 21), (w2.extractLsb' 15 6), (w2.getLsbD 14), (w3.extractLsb' 22 6), (w3.getLsbD 21)⟩)) else
  if op = 0x77#7 then (if w0.getLsbD 0 then some (.nread ⟨Ring.ofBits w0, (w0.extractLsb' 17 4), (w0.extractLsb' 15 2), (w0.getLsbD 14), (w0.extractLsb' 9 5), (w0.extractLsb' 4 5), (w0.extractLsb' 2 2), (w1.extractLsb' 22 6), (w1.getLsbD 21), (w1.extractLsb' 15 6), (w1.getLsbD 14), (w1.extractLsb' 11 3), (w1.extractLsb' 0 8), (w2.extractLsb' 22 6), (w2.getLsbD 21), (w2.extractLsb' 15 6), (w2.getLsbD 14), (w2.extractLsb' 8 6), (w2.extractLsb' 0 8)⟩) else some (.nwrite ⟨Ring.ofBits w0, (w0.extractLsb' 17 4), (w0.extractLsb' 15 2), (w0.getLsbD 14), (w0.extractLsb' 9 5), (w0.extractLsb' 4 5), (w0.extractLsb' 2 2), (w1.extractLsb' 22 6), (w1.getLsbD 21), (w1.extractLsb' 15 6), (w1.getLsbD 14), (w1.extractLsb' 11 3), (w1.extractLsb' 0 8), (w2.extractLsb' 22 6), (w2.getLsbD 21), (w2.extractLsb' 15 6), (w2.getLsbD 14), (w2.extractLsb' 8 6), (w2.extractLsb' 0 8)⟩)) else
  if op = 0x78#7 then (if w0.extractLsb' 17 4 = 0#4 then some (.opwait ⟨Ring.ofBits w0, (w0.extractLsb' 13 4), (w0.extractLsb' 7 6), (w0.getLsbD 5)⟩) else
    if w0.extractLsb' 17 4 = 1#4 then some (.optest ⟨Ring.ofBits w0, (w0.extractLsb' 13 4), (w0.extractLsb' 7 6)⟩) else
    if w0.extractLsb' 17 4 = 2#4 then some (.opcancel ⟨Ring.ofBits w0, (w0.extractLsb' 13 4), (w0.extractLsb' 7 6)⟩) else
    if w0.extractLsb' 17 4 = 3#4 then some (.opdetach ⟨Ring.ofBits w0, (w0.extractLsb' 13 4), (w0.extractLsb' 7 6)⟩) else
    if w0.extractLsb' 17 4 = 4#4 then some (.opadopt ⟨Ring.ofBits w0, (w0.extractLsb' 13 4), (w0.extractLsb' 7 6), (w0.getLsbD 6)⟩) else
    if w0.extractLsb' 17 4 = 5#4 then some (.oppri ⟨Ring.ofBits w0, (w0.extractLsb' 13 4), (w0.extractLsb' 11 2)⟩) else
    if w0.extractLsb' 17 4 = 6#4 then some (.opfault ⟨Ring.ofBits w0, (w0.extractLsb' 13 4), (w0.extractLsb' 7 6)⟩) else
    if w0.extractLsb' 17 4 = 7#4 then some (.oprel ⟨Ring.ofBits w0, (w0.extractLsb' 13 4)⟩) else
    none) else
  if op = 0x79#7 then (if w0.extractLsb' 17 4 = 0#4 then some (.kdone ⟨Ring.ofBits w0⟩) else
    if w0.extractLsb' 17 4 = 1#4 then some (.kyield ⟨Ring.ofBits w0, (w0.getLsbD 16)⟩) else
    if w0.extractLsb' 17 4 = 2#4 then some (.kspawn ⟨Ring.ofBits w0, (w0.extractLsb' 11 6), (w0.extractLsb' 5 6), (w0.getLsbD 4), (w0.getLsbD 3), (w0.extractLsb' 1 2), (w0.getLsbD 0), (w1.extractLsb' 0 28)⟩) else
    if w0.extractLsb' 17 4 = 3#4 then some (.krange ⟨Ring.ofBits w0, (w0.extractLsb' 11 6), (w0.extractLsb' 5 6), (w0.getLsbD 4), (w1.extractLsb' 22 6), (w1.getLsbD 21), (w1.extractLsb' 0 21)⟩) else
    if w0.extractLsb' 17 4 = 4#4 then some (.knext ⟨Ring.ofBits w0, (w0.extractLsb' 11 6)⟩) else
    if w0.extractLsb' 17 4 = 5#4 then some (.widf ⟨Ring.ofBits w0, (w0.extractLsb' 11 6), (w0.extractLsb' 8 3)⟩) else
    if w0.extractLsb' 17 4 = 6#4 then some (.depdec ⟨Ring.ofBits w0, (w0.extractLsb' 0 8)⟩) else
    if w0.extractLsb' 17 4 = 7#4 then some (.nextok ⟨Ring.ofBits w0⟩) else
    if w0.extractLsb' 17 4 = 8#4 then some (.prevwait ⟨Ring.ofBits w0⟩) else
    none) else
  if op = 0x7A#7 then (some (.bar ⟨Ring.ofBits w0⟩)) else
  if op = 0x7C#7 then (if w0.extractLsb' 17 4 = 0#4 then some (.hld ⟨Ring.ofBits w0, (w0.getLsbD 16), (w0.extractLsb' 11 5), (w0.extractLsb' 5 6), (w0.getLsbD 4)⟩) else
    if w0.extractLsb' 17 4 = 1#4 then some (.hst ⟨Ring.ofBits w0, (w0.getLsbD 16), (w0.extractLsb' 11 5), (w0.extractLsb' 5 6), (w0.getLsbD 4)⟩) else
    if w0.extractLsb' 17 4 = 2#4 then some (.hnarrow ⟨Ring.ofBits w0, (w0.extractLsb' 12 5), (w0.extractLsb' 7 5), (w1.extractLsb' 22 6), (w1.getLsbD 21), (w1.extractLsb' 15 6), (w1.getLsbD 14), (w1.extractLsb' 6 8)⟩) else
    if w0.extractLsb' 17 4 = 3#4 then some (.hinfo ⟨Ring.ofBits w0, (w0.extractLsb' 11 6), (w0.extractLsb' 6 5), (w0.extractLsb' 3 3)⟩) else
    if w0.extractLsb' 17 4 = 4#4 then some (.hchk ⟨Ring.ofBits w0, (w0.extractLsb' 11 6), (w0.extractLsb' 6 5), (w0.extractLsb' 0 6)⟩) else
    if w0.extractLsb' 17 4 = 5#4 then some (.hdrop ⟨Ring.ofBits w0, (w0.extractLsb' 12 5)⟩) else
    if w0.extractLsb' 17 4 = 6#4 then some (.hreq ⟨Ring.ofBits w0, (w0.extractLsb' 11 6), (w0.extractLsb' 6 5), (w0.extractLsb' 0 6)⟩) else
    none) else
  if op = 0x7D#7 then (if w0.extractLsb' 18 3 = 0#3 then some (.csrr ⟨Ring.ofBits w0, (w0.extractLsb' 12 6), (w0.extractLsb' 0 12)⟩) else
    if w0.extractLsb' 18 3 = 1#3 then some (.csrw ⟨Ring.ofBits w0, (w0.extractLsb' 12 6), (w0.extractLsb' 0 12)⟩) else
    if w0.extractLsb' 18 3 = 2#3 then some (.csrx ⟨Ring.ofBits w0, (w0.extractLsb' 12 6), (w0.extractLsb' 0 12), (w1.extractLsb' 22 6), (w1.getLsbD 21), (w1.extractLsb' 19 2)⟩) else
    if w0.extractLsb' 18 3 = 3#3 then some (.pmcrd ⟨Ring.ofBits w0, (w0.extractLsb' 12 6), (w0.extractLsb' 6 6), (w0.getLsbD 5)⟩) else
    if w0.extractLsb' 18 3 = 4#3 then some (.timerd ⟨Ring.ofBits w0, (w0.extractLsb' 12 6)⟩) else
    none) else
  none

/-- The instruction whose fields the words hold, before the checks of steps 4 to 7 of R86; none for a reserved opcode or selector. -/
def parse (w0 w1 w2 w3 : IWord) : Option Instr :=
  let op := w0.extractLsb' 21 7
  if op < 0x10#7 then parse0 op w0 else
  if op < 0x20#7 then parse1 op w0 w1 else
  if op < 0x30#7 then parse2 op w0 else
  if op < 0x40#7 then parse3 op w0 w1 else
  if op < 0x50#7 then parse4 op w0 w1 else
  if op < 0x60#7 then parse5 op w0 w1 else
  if op < 0x70#7 then parse6 op w0 w1 w2 w3 else
  parse7 op w0 w1 w2 w3

/-- An extension word whose bits [31:28] are nonzero among the first `n` words (R62). -/
def extNibble (n : Nat) (w1 w2 w3 : IWord) : Bool :=
  (2 ≤ n && w1.extractLsb' 28 4 != 0#4) || (3 ≤ n && w2.extractLsb' 28 4 != 0#4) || (4 ≤ n && w3.extractLsb' 28 4 != 0#4)

/-- Steps 2 and 4 to 7 of R86 on the words of an instruction (words beyond its count are not looked at): the instruction and
its word count, or the first cause. -/
def decode (w0 w1 w2 w3 : IWord) : Except Cause (Instr × Nat) :=
  let n := wordCount w0
  if n = 0 then .error 0x001
  else if extNibble n w1 w2 w3 then .error 0x002
  else match parse w0 w1 w2 w3 with
    | none => .error 0x001
    | some i =>
      if encode i ≠ [w0, w1, w2, w3].take n then .error 0x003
      else if i.valuesOk = false then .error 0x003
      else match i.queueCause with
        | some c => .error c
        | none => .ok (i, n)

/-- The words of a list, absent ones zero. -/
def decodeList (ws : List IWord) : Except Cause (Instr × Nat) :=
  decode (ws.getD 0 0) (ws.getD 1 0) (ws.getD 2 0) (ws.getD 3 0)

/-- Four words of a 128-bit image, the first word in its low bits. -/
def wordsOfNat (w : Nat) : List IWord :=
  [BitVec.ofNat 32 w, BitVec.ofNat 32 (w >>> 32), BitVec.ofNat 32 (w >>> 64), BitVec.ofNat 32 (w >>> 96)]

/-- The words of an `nbits`-bit instruction numbered as the opcode table numbers them, laid out as the device stores them
(R60: word 0 first), every bit above `nbits` zero. -/
def tableWords (nbits w : Nat) : List IWord := wordsOfNat (w % 2 ^ nbits)

/-- The instruction that the decoder reads from a table word. -/
def decodeTableWord (nbits w : Nat) : Option Instr :=
  match decodeList (tableWords nbits w) with
  | .ok (i, _) => some i
  | .error _ => none

end Sys2Proof
end

