-- ==== Sys2Proof/Machine/Flags.lean ====
section
/-!
DEFINITION. The sticky flags of FSTAT (R142) as sets of six bits, and how an instruction ORs them in (R143).
-/

namespace Sys2Proof.Machine

/-- A set of flags: FSTAT[5:0]. -/
abbrev Flags := BitVec 6

def flagNone : Flags := 0
/-- FSTAT[0] (R142). -/
def flagInvalid : Flags := 0x01
/-- FSTAT[1]: an exact infinity from finite operands (R142). -/
def flagDivZero : Flags := 0x02
/-- FSTAT[2] (R137). -/
def flagOverflow : Flags := 0x04
/-- FSTAT[3]: a nonzero result is tiny and inexact (R142). -/
def flagUnderflow : Flags := 0x08
/-- FSTAT[4]: a rounded or truncated result differs from the exact one (R142). -/
def flagInexact : Flags := 0x10
/-- FSTAT[5]: saturated for want of an infinity or NaN (R142). -/
def flagUnrep : Flags := 0x20

/-- `fl` when the condition holds. -/
def flagIf (c : Bool) (fl : Flags) : Flags := if c then fl else flagNone

/-- FSTAT with the flags of a retiring instruction ORed in; bits [63:6] stay zero (R142, R143). -/
def fstatOr (fstat : Word) (fl : Flags) : Word := fstat ||| (fl.setWidth 64)

/-- A context whose FSTAT has the flags ORed in. -/
def Context.orFlags (x : Context) (fl : Flags) : Context := { x with fstat := fstatOr x.fstat fl }

end Sys2Proof.Machine
end

