-- ==== Sys2Proof/Machine/Float.lean ====
section
/-!
DEFINITION. Element formats and exact arithmetic (chapters on number formats and on rounding): codes to exact values, exact
sums, products, quotients and roots, and the one rounding of R130–R142 into a destination format.
-/

namespace Sys2Proof.Machine

/-- What a format's special codes are (R107): infinities and NaNs, the two NaNs of E4M3, or none. -/
inductive Special where
  | ieee | e4m3 | none
  deriving DecidableEq, Repr

/-- The fields of a floating format (R106). -/
structure FloatFmt where
  ebits   : Nat
  mbits   : Nat
  bias    : Nat
  special : Special
  deriving DecidableEq, Repr

/-- The floating formats by the codes of R103; none for RAW and the integer formats. -/
def floatFmt : Nat → Option FloatFmt
  | 1 => some ⟨8, 23, 127, .ieee⟩
  | 2 => some ⟨8, 7, 127, .ieee⟩
  | 3 => some ⟨5, 10, 15, .ieee⟩
  | 4 => some ⟨5, 2, 15, .ieee⟩
  | 5 => some ⟨4, 3, 7, .e4m3⟩
  | 6 => some ⟨3, 2, 3, .none⟩
  | 7 => some ⟨2, 3, 1, .none⟩
  | 8 => some ⟨2, 1, 1, .none⟩
  | _ => none

/-- FP32, the format of accumulators and of the scalar instructions (R160). -/
def fp32 : FloatFmt := ⟨8, 23, 127, .ieee⟩

/-- FP16, the format of the scale field of an S32Q word (R115). -/
def fp16 : FloatFmt := ⟨5, 10, 15, .ieee⟩

/-- Bits of one element of a type: the codes of R103, with 13 for INT32 and 14 for INT16 (R105). -/
def elemBits : Nat → Nat
  | 1 => 32
  | 2 => 16
  | 3 => 16
  | 6 => 6
  | 7 => 6
  | 8 => 4
  | 11 => 4
  | 12 => 4
  | 13 => 32
  | 14 => 16
  | _ => 8

/-- Bytes of the container of a type (R103, R105). -/
def contBytes : Nat → Nat
  | 1 => 4
  | 13 => 4
  | 2 => 2
  | 3 => 2
  | 14 => 2
  | _ => 1

/-- Lanes of a vector of a type (R189). -/
def laneCount (ty : Nat) : Nat := 256 / contBytes ty

/-- The signed integer types INT8, INT4, INT32 and INT16. -/
def isSignedInt (ty : Nat) : Bool := ty = 9 || ty = 11 || ty = 13 || ty = 14

/-- An exact value: a NaN (signalling or not), an infinity, or (−1)^neg × m × 2^e, where `sticky` says that the magnitude lies
strictly between m × 2^e and (m + 1) × 2^e. -/
inductive ExactNum where
  | nan (sig : Bool)
  | inf (neg : Bool)
  | fin (neg : Bool) (m : Nat) (e : Int) (sticky : Bool)
  deriving DecidableEq, Repr

/-- An exact zero with a sign. -/
def ExactNum.zero (neg : Bool) : ExactNum := .fin neg 0 0 false

def ExactNum.isNan : ExactNum → Bool
  | .nan _ => true
  | _ => false

def ExactNum.isSig : ExactNum → Bool
  | .nan b => b
  | _ => false

def ExactNum.isInf : ExactNum → Bool
  | .inf _ => true
  | _ => false

def ExactNum.isZero : ExactNum → Bool
  | .fin _ m _ st => m = 0 && !st
  | _ => false

def ExactNum.neg : ExactNum → Bool
  | .nan _ => false
  | .inf n => n
  | .fin n _ _ _ => n

/-- The value with its sign inverted. -/
def ExactNum.flip : ExactNum → ExactNum
  | .nan s => .nan s
  | .inf n => .inf (!n)
  | .fin n m e s => .fin (!n) m e s

/-- An integer as an exact value. -/
def ExactNum.ofInt (v : Int) : ExactNum := .fin (decide (v < 0)) v.natAbs 0 false

/-- The value of a code of a floating format (R106, R107, R109). -/
def floatDecode (f : FloatFmt) (code : Nat) : ExactNum :=
  let m := code % 2 ^ f.mbits
  let e := (code >>> f.mbits) % 2 ^ f.ebits
  let s := (code >>> (f.ebits + f.mbits)) % 2 = 1
  let top := 2 ^ f.ebits - 1
  if f.special = .ieee && e = top then
    if m = 0 then .inf s else .nan (m >>> (f.mbits - 1) = 0)
  else if f.special = .e4m3 && e = top && m = 7 then .nan false
  else if e = 0 then .fin s m (1 - (f.bias : Int) - f.mbits) false
  else .fin s (2 ^ f.mbits + m) ((e : Int) - f.bias - f.mbits) false

/-- The unscaled value of a code of any element type (R106, R111). QA codes take zero point 0 here. -/
def elemDecode (ty code : Nat) : ExactNum :=
  match floatFmt ty with
  | some f => floatDecode f (code % 2 ^ (1 + f.ebits + f.mbits))
  | none => if isSignedInt ty then ExactNum.ofInt (signed (elemBits ty) code) else ExactNum.ofInt ((code % 2 ^ elemBits ty : Nat) : Int)

/-- The code of the largest finite magnitude (R110). -/
def maxCode (f : FloatFmt) : Nat :=
  match f.special with
  | .ieee => ((2 ^ f.ebits - 2) <<< f.mbits) + (2 ^ f.mbits - 1)
  | .e4m3 => 0x7E
  | .none => 2 ^ (f.ebits + f.mbits) - 1

/-- Exponent code all ones, mantissa zero. -/
def infCode (f : FloatFmt) : Nat := (2 ^ f.ebits - 1) <<< f.mbits

/-- The canonical NaN: positive, quiet, payload 1 (R109). -/
def nanCode (f : FloatFmt) : Nat :=
  match f.special with
  | .ieee => if f.mbits = 2 then 0x7F else infCode f + 2 ^ (f.mbits - 1) + 1
  | .e4m3 => 0x7F
  | .none => 0

/-- The sign bit of a format. -/
def signBit (f : FloatFmt) (neg : Bool) : Nat := if neg then 2 ^ (f.ebits + f.mbits) else 0

/-- How a result is rounded: the mode of R130, the policy of R138 and the lane's stepped LFSR state (R131). -/
structure Rnd where
  mode : BitVec 2
  ovf  : BitVec 2
  s    : BitVec 32
  deriving DecidableEq, Repr

/-- RNE with the INF policy: the rounding of scalar instructions and block sums (R133, R148). -/
def rneInf : Rnd := ⟨0, 1, 0⟩

/-- One step of a lane's LFSR (R131). -/
def lfsrStep (s : BitVec 32) : BitVec 32 :=
  let t := s >>> 1
  if s.getLsbD 0 then t ^^^ 0x80200003 else t

/-- The lane states that a write of SEED loads (R131). -/
def seedLane (seed : BitVec 32) (i : Nat) : BitVec 32 := seed ^^^ BitVec.ofNat 32 (i * 0x9E3779B9)

/-- The multiple of 2^q to which the magnitude m × 2^e (or just above it, with `sticky`) is rounded, and whether it is inexact
(R130). A sticky magnitude has at least 32 bits below 2^q. -/
def roundMag (r : Rnd) (m : Nat) (e : Int) (sticky : Bool) (q : Int) : Nat × Bool :=
  if q ≤ e then (m <<< (e - q).toNat, sticky)
  else
    let far := (q - e).toNat
    -- beyond the whole magnitude the exact fraction keeps its order against every threshold with this shift
    let sh := if far ≤ m.log2 + 34 then far else m.log2 + 34
    let st := sticky || (far != sh && m != 0)
    let lo := m >>> sh
    let rem := if far = sh then m - lo <<< sh else 0
    if rem = 0 && !st then (lo, false)
    else
      let up : Bool :=
        match r.mode.toNat with
        | 0 => rem * 2 > 2 ^ sh || (rem * 2 = 2 ^ sh && (st || lo % 2 = 1))
        | 1 => false
        | 2 => 2 ^ (32 + sh) ≤ rem * 2 ^ 32 + r.s.toNat * 2 ^ sh
        | _ => 2 ^ sh ≤ rem * 2
      (if up then lo + 1 else lo, true)

/-- A rounded result: a code with its flags, or the cause it raises under the TRAP policy. -/
inductive Coded where
  | ok (code : Nat) (fl : Flags)
  | trap (c : Cause)
  deriving DecidableEq, Repr

/-- The result of overflow, or of an infinity into a format without one (R138). -/
def overflowCode (f : FloatFmt) (r : Rnd) (neg : Bool) : Coded :=
  let fl := flagOverflow ||| flagInexact
  let big := signBit f neg + maxCode f
  match r.ovf.toNat with
  | 0 => .ok big fl
  | 3 => .trap 0x020
  | p =>
    match f.special with
    | .ieee => if p = 2 then .ok (nanCode f) fl else if r.mode = 1 then .ok big fl else .ok (signBit f neg + infCode f) fl
    | .e4m3 => .ok 0x7F fl
    | .none => .ok big (fl ||| flagUnrep)

/-- A NaN result (R136, R139): `inv` when the operation sets invalid. -/
def nanResult (f : FloatFmt) (r : Rnd) (inv : Bool) : Coded :=
  if f.special = .none then
    if r.ovf = 3 then .trap 0x021 else .ok 0 flagInvalid
  else .ok (nanCode f) (flagIf inv flagInvalid)

/-- The magnitude n × 2^q as a code, 2^mbits ≤ n unless subnormal. -/
def packMag (f : FloatFmt) (n : Nat) (q : Int) : Nat :=
  if n < 2 ^ f.mbits then n
  else ((q + f.mbits + f.bias).toNat <<< f.mbits) + (n - 2 ^ f.mbits)

/-- Rounds a finite exact value into a floating format (R130, R134–R142). -/
def roundFin (f : FloatFmt) (r : Rnd) (neg : Bool) (m : Nat) (e : Int) (sticky : Bool) : Coded :=
  if m = 0 && !sticky then .ok (signBit f neg) flagNone
  else
    let k : Int := (m.log2 : Int) + e
    let emin : Int := 1 - (f.bias : Int)
    let q := (if k < emin then emin else k) - f.mbits
    let (n, inx) := roundMag r m e sticky q
    let (n, q) := if 2 ^ (f.mbits + 1) ≤ n then (n / 2, q + 1) else (n, q)
    let code := packMag f n q
    if maxCode f < code then overflowCode f r neg
    else
      let tiny := k < emin && ((roundMag r m e sticky (k - f.mbits)).1 < 2 ^ (f.mbits + 1) || k + 1 < emin)
      .ok (signBit f neg + code) (flagIf inx flagInexact ||| flagIf (inx && tiny) flagUnderflow)

/-- The range of codes of an integer type, as integers (R111, R140). -/
def intRange (ty : Nat) : Int × Int :=
  match ty with
  | 9 => (-128, 127)
  | 10 => (0, 255)
  | 11 => (-8, 7)
  | 12 => (0, 15)
  | 13 => (-2147483648, 2147483647)
  | 14 => (-32768, 32767)
  | _ => (0, 255)

/-- An integer saturated to a range (R140): the value and its flags, or the TRAP policy's cause. -/
def saturate (lo hi : Int) (r : Rnd) (v : Int) (inx : Bool) (bits : Nat) : Coded :=
  if v < lo || hi < v then
    if r.ovf = 3 then .trap 0x020 else .ok (unsigned bits (clampInt lo hi v)) flagInvalid
  else .ok (unsigned bits v) (flagIf inx flagInexact)

/-- A value rounded to an integer by the mode in force (R130, ulp 1). -/
def roundInt (r : Rnd) (neg : Bool) (m : Nat) (e : Int) (sticky : Bool) : Int × Bool :=
  let (n, inx) := roundMag r m e sticky 0
  (if neg then -(n : Int) else (n : Int), inx)

/-- Conversion of an exact value to an integer type with zero point `zp` (R139, R140). -/
def toIntType (ty : Nat) (r : Rnd) (zp : Nat) (v : ExactNum) : Coded :=
  let (lo, hi) := intRange ty
  match v with
  | .nan _ => if r.ovf = 3 then .trap 0x021 else .ok 0 flagInvalid
  | .inf neg => if r.ovf = 3 then .trap 0x020 else .ok (unsigned (elemBits ty) (if neg then lo else hi)) flagInvalid
  | .fin neg m e st =>
    let (n, inx) := roundInt r neg m e st
    saturate lo hi r (n + zp) inx (elemBits ty)

/-- Rounds an exact value into a floating format; a NaN sets invalid only if it is signalling (R138, R139). -/
def toFloat (f : FloatFmt) (r : Rnd) (v : ExactNum) : Coded :=
  match v with
  | .nan sig => nanResult f r sig
  | .inf neg => if f.special = .ieee then .ok (signBit f neg + infCode f) flagNone else overflowCode f r neg
  | .fin neg m e st => roundFin f r neg m e st

/-- Conversion of an exact value to any element type. -/
def toElem (ty : Nat) (r : Rnd) (v : ExactNum) : Coded :=
  match floatFmt ty with
  | some f => toFloat f r v
  | none => toIntType ty r 0 v

/-- An exact value with the flags its operation has set so far (R136, R142). -/
abbrev NumF := ExactNum × Flags

/-- The NaN of an operation with a NaN operand, given whether one of them signals (R136). -/
def nanOf (sig : Bool) : NumF := (.nan false, flagIf sig flagInvalid)

/-- The NaN of an invalid operation (R136). -/
def nanInvalid : NumF := (.nan false, flagInvalid)

/-- The exact sum of two finite values (R135: zero is +0 unless both addends are −0). -/
def addFin (n1 : Bool) (m1 : Nat) (e1 : Int) (n2 : Bool) (m2 : Nat) (e2 : Int) : ExactNum :=
  let e := if m1 = 0 then e2 else if m2 = 0 then e1 else if e1 ≤ e2 then e1 else e2
  let a : Int := ((if m1 = 0 then 0 else m1 <<< (e1 - e).toNat : Nat) : Int)
  let b : Int := ((if m2 = 0 then 0 else m2 <<< (e2 - e).toNat : Nat) : Int)
  let v := (if n1 then -a else a) + (if n2 then -b else b)
  if v = 0 then .zero (n1 && n2 && m1 = 0 && m2 = 0)
  else .fin (v < 0) v.natAbs e false

/-- The exact sum (R135, R136). -/
def numAdd (a b : ExactNum) : NumF :=
  match a, b with
  | .nan s, y => nanOf (s || y.isSig)
  | _, .nan s => nanOf s
  | .inf n, .inf k => if n = k then (.inf n, flagNone) else nanInvalid
  | .inf n, _ => (.inf n, flagNone)
  | _, .inf n => (.inf n, flagNone)
  | .fin n1 m1 e1 _, .fin n2 m2 e2 _ => (addFin n1 m1 e1 n2 m2 e2, flagNone)

/-- The exact product (R135, R136). -/
def numMul (a b : ExactNum) : NumF :=
  match a, b with
  | .nan s, y => nanOf (s || y.isSig)
  | _, .nan s => nanOf s
  | .inf n, y => if y.isZero then nanInvalid else (.inf (n != y.neg), flagNone)
  | x, .inf n => if x.isZero then nanInvalid else (.inf (n != x.neg), flagNone)
  | .fin n1 m1 e1 _, .fin n2 m2 e2 _ => (.fin (n1 != n2) (m1 * m2) (e1 + e2) false, flagNone)

/-- The exact a × b + d, or d − a × b (R136, R167, R196). A NaN operand decides before an invalid product does. -/
def numFma (negProd : Bool) (a b d : ExactNum) : NumF :=
  if a.isNan || b.isNan || d.isNan then nanOf (a.isSig || b.isSig || d.isSig)
  else
    let (p, fl) := numMul a b
    if p.isNan then (p, fl) else numAdd (if negProd then p.flip else p) d

/-- Bits kept of an inexact quotient, root or function value: enough that no rounding of R130 can tell it from the exact one. -/
def guardBits : Nat := 100

/-- The exact quotient, to `guardBits` bits with a sticky remainder (R135, R136, R142). -/
def numDiv (a b : ExactNum) : NumF :=
  match a, b with
  | .nan s, y => nanOf (s || y.isSig)
  | _, .nan s => nanOf s
  | .inf n, y => if y.isInf then nanInvalid else (.inf (n != y.neg), flagNone)
  | x, .inf n => (.zero (n != x.neg), flagNone)
  | .fin n1 m1 e1 _, .fin n2 m2 e2 _ =>
    if m2 = 0 then
      if m1 = 0 then nanInvalid else (.inf (n1 != n2), flagDivZero)
    else
      let sh := guardBits + m2.log2
      let big := m1 <<< sh
      (.fin (n1 != n2) (big / m2) (e1 - e2 - sh) (big % m2 != 0), flagNone)

/-- Integer square root by binary digits: `n` rounds, from bit n − 1 down. -/
def isqrtLoop (v : Nat) : Nat → Nat → Nat
  | 0, r => r
  | n + 1, r =>
    let t := r + 2 ^ n
    isqrtLoop v n (if t * t ≤ v then t else r)

/-- The integer part of the square root. -/
def isqrt (v : Nat) : Nat := isqrtLoop v (v.log2 / 2 + 1) 0

/-- The square root of m × 2^e for m > 0, to at least `guardBits` bits with a sticky remainder. -/
def rootFin (m : Nat) (e : Int) : ExactNum :=
  let m := if e % 2 = 0 then m else 2 * m
  let e := if e % 2 = 0 then e else e - 1
  let big := m <<< (2 * guardBits)
  let r := isqrt big
  .fin false r (e / 2 - guardBits) (r * r != big)

/-- The square root (R135, R136). -/
def numSqrt (a : ExactNum) : NumF :=
  match a with
  | .nan s => nanOf s
  | .inf n => if n then nanInvalid else (.inf false, flagNone)
  | .fin n m e _ => if m = 0 then (.zero n, flagNone) else if n then nanInvalid else (rootFin m e, flagNone)

/-- The exact 1 / √a (R144, R145). -/
def numRsqrt (a : ExactNum) : NumF :=
  match a with
  | .nan s => nanOf s
  | .inf n => if n then nanInvalid else (.zero false, flagNone)
  | .fin n m e _ =>
    if m = 0 then (.inf n, flagDivZero)
    else if n then nanInvalid
    else
      -- 1/√x = √(1/x); a sticky 1/x is never a square, so the root of its integer part stays sticky
      let m' := if e % 2 = 0 then m else 2 * m
      let e' := if e % 2 = 0 then e else e - 1
      let sh := 2 * (guardBits + m'.log2)
      let big := 1 <<< sh
      let qt := big / m'
      let r := isqrt qt
      (.fin false r (-(e' / 2) - (sh / 2 : Nat)) (r * r != qt || big % m' != 0), flagNone)

/-- Order of two values that are not NaN: negative, zero or positive; +0 = −0. -/
def numCmp (a b : ExactNum) : Int :=
  match a, b with
  | .inf n, .inf k => if n = k then 0 else if n then -1 else 1
  | .inf n, _ => if n then -1 else 1
  | _, .inf n => if n then 1 else -1
  | .fin n1 m1 e1 _, .fin n2 m2 e2 _ =>
    match addFin n1 m1 e1 (!n2) m2 e2 with
    | .fin n m _ _ => if m = 0 then 0 else if n then -1 else 1
    | _ => 0
  | _, _ => 0

/-- Minimum or maximum with −0 below +0; a single NaN operand yields the other one (R136). -/
def numMinMax (isMax : Bool) (a b : ExactNum) : NumF :=
  match a, b with
  | .nan s, .nan t => nanOf (s || t)
  | .nan s, y => (y, flagIf s flagInvalid)
  | x, .nan s => (x, flagIf s flagInvalid)
  | x, y =>
    let c := numCmp x y
    let xLess := c < 0 || (c = 0 && x.neg && !y.neg)
    (if xLess != isMax then x else y, flagNone)

/-- Conditions 0 to 7 of R197: EQ, NE, LT, LE, GT, GE, unordered, ordered; and the flags (R168, R197). -/
def numCond (c : Nat) (a b : ExactNum) : Bool × Flags :=
  let un := a.isNan || b.isNan
  let order := c = 2 || c = 3 || c = 4 || c = 5
  let fl := flagIf ((un && order) || a.isSig || b.isSig) flagInvalid
  let r : Bool :=
    if c = 6 then un
    else if c = 7 then !un
    else if un then decide (c = 1)
    else
      let k := numCmp a b
      match c with
      | 0 => k = 0
      | 1 => k ≠ 0
      | 2 => k < 0
      | 3 => k ≤ 0
      | 4 => 0 < k
      | _ => 0 ≤ k
  (r, fl)

/-- An operation's exact value rounded into a floating format, with the flags of both (R134, R136). -/
def roundNum (f : FloatFmt) (r : Rnd) (v : NumF) : Coded :=
  match toFloat f r v.1 with
  | .ok c fl => .ok c (fl ||| v.2)
  | .trap c => .trap c

/-- The class number of a floating code: the bit numbers of R169. -/
def classOf (f : FloatFmt) (code : Nat) : Nat :=
  match floatDecode f code with
  | .nan sig => if sig then 8 else 9
  | .inf n => if n then 0 else 7
  | .fin n m _ _ =>
    if m = 0 then (if n then 3 else 4)
    else if m < 2 ^ f.mbits then (if n then 2 else 5)
    else (if n then 1 else 6)

/-- The code and flags of a rounding that raises nothing (RNE with the INF policy on a format with NaN). -/
def Coded.get : Coded → Nat × Flags
  | .ok c fl => (c, fl)
  | .trap _ => (0, flagNone)

end Sys2Proof.Machine
end

