-- ==== Sys2Proof/Machine/Pack.lean ====
section
/-!
DEFINITION. Packing patterns and the extraction unit (R117–R124), and the validity of formats, geometries and scale words
(R113, R115).
-/

namespace Sys2Proof.Machine

/-- A packing pattern: its period in bits and the shift and width of each element of a period (R117). -/
structure Pattern where
  period : Nat
  elems  : List (Nat × Nat)
  deriving DecidableEq, Repr

/-- The bits of a pattern record as a number (R118). -/
def recPattern (r : Nat) : Pattern :=
  let count := bitsOf r 8 8
  ⟨bitsOf r 0 8, (List.range count).map (fun e => (bitsOf r (64 + 12 * e) 7, bitsOf r (64 + 12 * e + 7) 4))⟩

/-- Whether a 128-byte record is valid (R119). -/
def recValid (r : Nat) : Bool :=
  let period := bitsOf r 0 8
  let count := bitsOf r 8 8
  decide (1 ≤ period ∧ period ≤ 128 ∧ 1 ≤ count ∧ count ≤ 64 ∧ bitsOf r 16 48 = 0 ∧ bitsOf r 832 192 = 0)
    && (List.range 64).all (fun e =>
      let ent := bitsOf r (64 + 12 * e) 12
      if e < count then
        let w := bitsOf ent 7 4
        decide (bitsOf ent 11 1 = 0 ∧ 1 ≤ w ∧ w ≤ 8 ∧ bitsOf ent 0 7 + w ≤ period)
      else ent = 0)

/-- Pattern 0 for an element width (R120). -/
def densePattern (w : Nat) : Pattern := ⟨w, [(0, w)]⟩

/-- Pattern 1: 21 elements of 6 bits in 128 (R120). -/
def sixPattern : Pattern := ⟨128, (List.range 21).map (fun e => (6 * e, 6))⟩

/-- The pattern that entry `n` of a context's table holds for an element width `w`; none if it is empty (R119, R120). -/
def patternOf (pats : Vector (Option (BitVec 1024)) 12) (n w : Nat) : Option Pattern :=
  match n with
  | 0 => some (densePattern w)
  | 1 => some sixPattern
  | 2 => some ⟨8, [(4, 4), (0, 4)]⟩
  | 3 => some ⟨8, (List.range 4).map (fun e => (2 * e, 2))⟩
  | n => match vecGet pats (n - 4) none with
    | some r => some (recPattern r.toNat)
    | none => none

/-- The widest element of a pattern. -/
def Pattern.widest (p : Pattern) : Nat := p.elems.foldl (fun m e => max m e.2) 0

/-- Whether a format accepts a geometry code (R113). -/
def geomOk (fmt geom : Nat) : Bool :=
  match fmt with
  | 0 => geom = 0 | 1 => geom = 0 | 2 => geom = 0 | 3 => geom = 0
  | 4 => geom ≤ 4 | 5 => geom ≤ 4 | 6 => geom ≤ 4 | 7 => geom ≤ 4 | 8 => geom ≤ 4
  | 9 => geom = 0 || (2 ≤ geom && geom ≤ 4)
  | 11 => geom = 0 || (2 ≤ geom && geom ≤ 4)
  | 10 => 2 ≤ geom && geom ≤ 4
  | 12 => 2 ≤ geom && geom ≤ 4
  | _ => false

/-- Elements that share a scale word (R112); 0 for unscaled. -/
def geomLen : Nat → Nat
  | 1 => 16
  | 2 => 32
  | 3 => 64
  | 4 => 128
  | _ => 0

/-- Whether the decoding attributes of a page are valid for a context's table (R128). -/
def attrsOk (pats : Vector (Option (BitVec 1024)) 12) (fmt geom pat : Nat) : Bool :=
  decide (fmt ≤ 12) && geomOk fmt geom && (elemBits fmt ≤ 8 || pat = 0) &&
    match patternOf pats pat (elemBits fmt) with
    | none => false
    | some p => p.widest ≤ elemBits fmt

/-- Element `i` of a bit stream whose first period starts at bit `base`, extended to the element width of `fmt` (R117, R124). -/
def extractElem (p : Pattern) (fmt : Nat) (stream base i : Nat) : Nat :=
  let n := p.elems.length
  let (sh, w) := p.elems.getD (i % n) (0, 1)
  let field := bitsOf stream (base + (i / n) * p.period + sh) w
  if fmt = 9 || fmt = 11 then unsigned (elemBits fmt) (signed w field) else field

/-- The first `needed` elements of a stream in their containers (R117, R126). -/
def extract (p : Pattern) (fmt : Nat) (stream base needed : Nat) : List Nat :=
  (List.range needed).map (extractElem p fmt stream base)

/-- How many bits of the stream the first `needed` elements reach. -/
def streamBits (p : Pattern) (needed : Nat) : Nat :=
  (List.range needed).foldl (fun m i =>
    let n := p.elems.length
    let (sh, w) := p.elems.getD (i % n) (0, 1)
    max m ((i / n) * p.period + sh + w)) 0

/-- Containers of a type laid out as bytes. -/
def contList (ty : Nat) (l : List Nat) : List Byte := l.flatMap (leBytes (contBytes ty))

/-- A malformed S32Q scale word for a format (R115). -/
def scaleMalformed (fmt w : Nat) : Bool :=
  (fmt = 9 || fmt = 10 || fmt = 11 || fmt = 12) &&
    (bitsOf w 24 8 != 0 || (fmt = 12 && 15 < bitsOf w 16 8) || ((fmt = 9 || fmt = 11) && bitsOf w 16 8 != 0))

/-- The exact value of an element in a block of geometry `geom` with scale word `w` (R116, R146). -/
def scaledValue (fmt geom code w : Nat) : NumF :=
  if geom = 0 then (elemDecode fmt code, flagNone)
  else match floatFmt fmt with
    | some f =>
      -- a NaN element or scale gives NaN; its flag is that of the consumer's own rule
      numMul (floatDecode f code) (floatDecode fp32 (w % 2 ^ 32))
    | none =>
      if scaleMalformed fmt w then (.nan false, flagInvalid)
      else
        let q : Int := if isSignedInt fmt then signed (elemBits fmt) code else ((code % 2 ^ elemBits fmt : Nat) : Int)
        numMul (.ofInt (q - (bitsOf w 16 8 : Nat))) (floatDecode fp16 (bitsOf w 0 16))

end Sys2Proof.Machine
end

