-- ==== Sys2Proof/Machine/Units.lean ====
section
/-!
DEFINITION. Where things stand in the state: the contexts, cores, clusters, jobs and queues by number (R11, R464), and
changes of one of them that leave the rest as it is.
-/

namespace Sys2Proof.Machine

/-- The module cluster of a context number: CTXID[11:6] (R464). -/
def ctxCluster (c : Nat) : Nat := c / 64

/-- The module control core of a context number: CTXID[11:4] (R11, R464). -/
def ctxCore (c : Nat) : Nat := c / 16

/-- The control core's number within its cluster. -/
def ctxLocalCore (c : Nat) : Nat := c / 16 % 4

/-- The context's index on its core: CTXID[3:0]. -/
def ctxIndex (c : Nat) : Nat := c % 16

/-- The context numbered `c`. -/
def getCtx (s : State) (c : Nat) : Context := if c = s.xid then s.x else tabGet {} c s.parked

/-- Replaces the context numbered `c`. -/
def putCtx (s : State) (c : Nat) (x : Context) : State :=
  if c = s.xid then { s with x := x } else { s with parked := tabPut c x s.parked }

/-- Changes the context numbered `c`. -/
def modCtx (s : State) (c : Nat) (f : Context → Context) : State := putCtx s c (f (getCtx s c))

/-- Changes the current context. -/
def modX (s : State) (f : Context → Context) : State := { s with x := f s.x }

/-- Makes context `c` the current one. -/
def selectCtx (s : State) (c : Nat) : State :=
  if c = s.xid then s else { s with x := tabGet {} c s.parked, xid := c, parked := tabDel c (tabPut s.xid s.x s.parked) }

/-- A step of context `c` that leaves the current context as it was. -/
def onCtx (s : State) (c : Nat) (f : State → State) : State := selectCtx (f (selectCtx s c)) s.xid

/-- Every context number that is current or has been used. -/
def ctxNumbers (s : State) : List Nat := s.xid :: s.parked.map (·.1)

def getCore (s : State) (k : Nat) : Core := tabGet {} k s.cores

def modCore (s : State) (k : Nat) (f : Core → Core) : State := { s with cores := tabMod {} k f s.cores }

def getCluster (s : State) (cl : Nat) : Cluster := tabGet {} cl s.clusters

def modCluster (s : State) (cl : Nat) (f : Cluster → Cluster) : State := { s with clusters := tabMod {} cl f s.clusters }

/-- The current context's cluster number. -/
def State.cl (s : State) : Nat := ctxCluster s.xid

/-- The current context's core number. -/
def State.core (s : State) : Nat := ctxCore s.xid

def getDie (s : State) (d : Nat) : Die := tabGet { podDie := d } d s.dies

/-- Changes a die. -/
def modDie (s : State) (d : Nat) (f : Die → Die) : State := { s with dies := tabMod { podDie := d } d f s.dies }

/-- The pod die identifier of a module die; a die that boot has not numbered has its own number. -/
def podDie (s : State) (d : Nat) : Nat := (tabFind d s.dies).elim d Die.podDie

/-- The module die with a pod die identifier, if it is one of the module's four. -/
def moduleDie (s : State) (pod : Nat) : Option Nat := (List.range 4).find? (fun d => podDie s d = pod)

def getQueue (s : State) (q : Nat) : Queue := tabGet {} q s.queues

def modQueue (s : State) (q : Nat) (f : Queue → Queue) : State := { s with queues := tabMod {} q f s.queues }

def modBundle (s : State) (b : Nat) (f : Bundle → Bundle) : State :=
  match tabFind b s.bundles with
  | none => s
  | some v => { s with bundles := tabPut b (f v) s.bundles }

def getFn (s : State) (f : Nat) : Fn := tabGet {} f s.fns

def modFn (s : State) (f : Nat) (g : Fn → Fn) : State := { s with fns := tabMod {} f g s.fns }

/-- A queue's function and partition (R446). -/
def queueOwner (s : State) (q : Nat) : Nat × Nat := tabGet (0, 0) q s.qmap

/-- The number of an address space: partition × 2^16 + tenant (R252). -/
def spaceOf (part tenant : Nat) : Nat := part * 65536 + tenant

/-- The address space of a function's tenant in a partition. -/
def fnSpace (s : State) (f part : Nat) : Nat := spaceOf part (getFn s f).tenant

/-- The address space of a queue. -/
def queueSpace (s : State) (q : Nat) : Nat := let o := queueOwner s q; fnSpace s o.1 o.2

/-- The queue of a job. -/
def jobQueue (s : State) (b : Nat) : Nat := (tabFind b s.bundles).elim 0 Bundle.queue

/-- The address space of a job. -/
def jobSpace (s : State) (b : Nat) : Nat := queueSpace s (jobQueue s b)

/-- The function of a job. -/
def jobFn (s : State) (b : Nat) : Nat := (queueOwner s (jobQueue s b)).1

/-- The address space of a context: TENANT[23:16] and TENANT[15:0] (R464). -/
def Context.space (x : Context) : Nat := spaceOf ((x.tenant.toNat >>> 16) % 256) (x.tenant.toNat % 65536)

/-- The function of a context: TENANT[46:40]. -/
def Context.fn (x : Context) : Nat := (x.tenant.toNat >>> 40) % 128

/-- The tenant part of an address-space number. -/
def spaceTenant (sp : Nat) : Nat := sp % 65536

/-- The partition part of an address-space number. -/
def spacePart (sp : Nat) : Nat := sp / 65536

/-- The partition that owns a cluster (R446). -/
def clusterPart (s : State) (cl : Nat) : Option Nat := (s.parts.find? (fun p => p.2.clusters.getLsbD cl)).map (·.1)

/-- Whether a cluster runs a node of job `b` (R246, R322). -/
def runsJob (s : State) (cl b : Nat) : Bool :=
  match (getCluster s cl).node with
  | some (b', _) => b' = b
  | none => false

/-- A fresh number for a continuation, bundle or piece (MODEL). -/
def takeId (s : State) : Nat × State := (s.nextId, { s with nextId := s.nextId + 1 })

/-- A fresh argument for a free value (MODEL). -/
def takeFresh (s : State) : Nat × State := (s.fresh, { s with fresh := s.fresh + 1 })

/-- The pod tick of the module, in nanoseconds (R389, R491). -/
def podTick (s : State) : Word := BitVec.ofInt 64 ((s.tick : Int) + s.hub.podOff)

end Sys2Proof.Machine
end

