-- ==== Sys2Proof/Machine/Translate.lean ====
section
/-!
DEFINITION. Generic addresses (R244–R247), pool offsets (R248, R250), page tables (R252–R255) and host-backed ranges (R256,
R257): from an address to the home of its bytes, or to the cause of R304 that it raises.
-/

namespace Sys2Proof.Machine

/-- The fields of a partition word (R248). -/
def pwRf (w : BitVec 32) : Nat := (w.extractLsb' 0 8).toNat
def pwSp (w : BitVec 32) : Nat := (w.extractLsb' 8 8).toNat
def pwAcc (w : BitVec 32) : Nat := (w.extractLsb' 16 8).toNat
def pwCtx (w : BitVec 32) : Nat := (w.extractLsb' 24 8).toNat

/-- The checks of R249 on a partition word with its upper half. -/
def pwValid (w : Nat) : Bool :=
  let p := BitVec.ofNat 32 w
  w < 2 ^ 32 && pwRf p + pwSp p + pwAcc p ≤ 96 && 1 ≤ pwCtx p && pwCtx p ≤ 16 && 4 * pwCtx p * 14336 ≤ pwRf p * 262144

/-- L: the bytes of one local region (R248). -/
def localLen (w : BitVec 32) : Nat :=
  if pwCtx w = 0 then 0 else (pwRf w * 262144 - 4 * pwCtx w * 14336) / (4 * pwCtx w * 64) * 64

/-- The pool offset of byte 0 of a context's local region: control core × ctx + index (R248). -/
def localBase (w : BitVec 32) (core idx : Nat) : Nat := 4 * pwCtx w * 14336 + (core * pwCtx w + idx) * localLen w

/-- The pool offset of the scratchpad partition (R248). -/
def scratchBase (w : BitVec 32) : Nat := pwRf w * 262144

/-- Bytes of the scratchpad partition. -/
def scratchLen (w : BitVec 32) : Nat := pwSp w * 262144

/-- Accumulator tiles of the partition word: four for each unit (R220). -/
def tileCount (w : BitVec 32) : Nat := 4 * pwAcc w

/-- Base of an aperture CSR (R244). -/
def winBase (csr : Word) : Nat := (csr.toNat >>> 24) <<< 24

/-- Window size in bytes (R244). -/
def winLimit (csr : Word) : Nat := 64 * (csr.toNat % 2 ^ 24)

/-- Whether an address lies in a window's reach: the 16 MiB granules from base that cover its size (R245). -/
def inReach (csr : Word) (a : Nat) : Bool :=
  winBase csr ≤ a && a < winBase csr + (winLimit csr + 0xFFFFFF) / 0x1000000 * 0x1000000

/-- The window an address belongs to, by space code; 0 for none (R245, R246). -/
def windowOf (x : Context) (a : Nat) : Nat :=
  if inReach x.localw a then 1 else if inReach x.clustw a then 2 else if inReach x.sharedw a then 3 else 0

/-- The aperture CSR of a space code. -/
def winCsr (x : Context) : Nat → Word
  | 1 => x.localw
  | 2 => x.clustw
  | _ => x.sharedw

/-- The home of `n` bytes at offset `o` of a window, or 0x103 (R245–R248). -/
def windowLoc (s : State) (c : Nat) (x : Context) (win o n : Nat) : Except Cause Loc :=
  let pw := x.poolpw.setWidth 32
  if winLimit (winCsr x win) < o + n then .error 0x103
  else match win with
    | 1 => .ok (.pool (ctxCluster c) (localBase pw (ctxLocalCore c) (ctxIndex c) + o))
    | 2 => .ok (.pool (ctxCluster c) (scratchBase pw + o))
    | _ =>
      let slice := o / 0x2000000
      let off := o % 0x2000000
      let target := ctxCluster c / 12 * 12 + slice
      if 0x2000000 < off + n then .error 0x103
      else if target = ctxCluster c then
        if scratchLen pw < off + n then .error 0x103 else .ok (.pool target (scratchBase pw + off))
      else
        let tpw := (getCluster s target).poolpw
        if runsJob s target x.cont.bundle && off + n ≤ scratchLen tpw then .ok (.pool target (scratchBase tpw + off))
        else .error 0x103

/-- What an access needs of a page (R255). -/
structure Need where
  r : Bool
  w : Bool
  x : Bool
  deriving DecidableEq, Repr

def needLoad : Need := ⟨true, false, false⟩
def needStore : Need := ⟨false, true, false⟩
def needBoth : Need := ⟨true, true, false⟩
def needFetch : Need := ⟨false, false, true⟩

/-- A leaf reached by a walk: the entry, the page size's exponent and the physical address. -/
structure Leaf where
  pte : Nat
  k   : Nat
  pa  : Nat
  deriving DecidableEq, Repr

def pteV (e : Nat) : Bool := bitsOf e 0 1 = 1
def pteR (e : Nat) : Bool := bitsOf e 1 1 = 1
def pteW (e : Nat) : Bool := bitsOf e 2 1 = 1
def pteX (e : Nat) : Bool := bitsOf e 3 1 = 1
def pteLeaf (e : Nat) : Bool := bitsOf e 5 1 = 1
def pteFrame (e : Nat) : Nat := bitsOf e 14 38 * 16384
def pteFmt (e : Nat) : Nat := bitsOf e 86 4
def pteGeom (e : Nat) : Nat := bitsOf e 90 3
def ptePat (e : Nat) : Nat := bitsOf e 93 4
def pteKd (e : Nat) : Nat := bitsOf e 97 12
def pteStk (e : Nat) : Bool := bitsOf e 109 1 = 1
def pteRange (e : Nat) : Nat := bitsOf e 110 2

/-- A page-table entry that is malformed at a level (0 to 4) where a leaf would have page exponent `k` (R253, R254). -/
def pteMalformed (level k e : Nat) : Bool :=
  bitsOf e 112 16 != 0 || bitsOf e 64 22 != 0 || bitsOf e 52 12 != 0 || bitsOf e 6 8 != 0 || bitsOf e 4 1 != 0 ||
  pteRange e = 3 ||
  (pteLeaf e && level ≤ 1) || (!pteLeaf e && level = 4) ||
  (pteLeaf e && pteFrame e % 2 ^ k != 0) ||
  (!pteLeaf e && (bitsOf e 51 1 = 1 || bitsOf e 86 26 != 0 || bitsOf e 1 3 != 0))

/-- Walks the levels (number, lowest VA bit, index bits) from the table at `table` (R252, R254, R255 steps 1 and 2). -/
def walk (mem : Memory) (va : Nat) : List (Nat × Nat × Nat) → Nat → Except Cause Leaf
  | [], _ => .error 0x100
  | (level, k, w) :: rest, table =>
    let e := leNat (memRead mem (table + 16 * bitsOf va k w) 16)
    if !pteV e then .error 0x100
    else if pteMalformed level k e then .error 0x101
    else if pteLeaf e then .ok ⟨e, k, pteFrame e + va % 2 ^ k⟩
    else walk mem va rest (pteFrame e)

/-- The levels of R252. -/
def walkLevels : List (Nat × Nat × Nat) := [(0, 54, 3), (1, 44, 10), (2, 34, 10), (3, 24, 10), (4, 14, 10)]

/-- A failed translation: its cause, and whether a host page request would serve it (R256). -/
structure TFault where
  cause : Cause
  host  : Bool
  deriving DecidableEq, Repr

/-- A translated address: where it lies and the attributes of its page. -/
structure Trans where
  pa   : Nat
  fmt  : Nat
  geom : Nat
  pat  : Nat
  stk  : Bool
  range : Nat
  deriving DecidableEq, Repr

/-- Whether a key domain may be used by a tenant: active or rotating, owned by it, and not domain 0, which is the device's (R439). -/
def domainOk (s : State) (kd tenant : Nat) : Bool :=
  let d := tabGet {} kd s.domains
  kd != 0 && (d.state = 1 || d.state = 2) && d.owner = tenant

/-- The number of a 16 KiB page of an address space in the table of ATS translations. -/
def atsKey (space va : Nat) : Nat := space * 2 ^ 43 + va / 16384

/-- The host frame that the device has for a host-backed page: the IOMMU's answer to its ATS Translation Request, which holds until the
page is invalidated or a page request for it succeeds (R256, R257). `ats` counts these. -/
def atsFrame (s : State) (space va : Nat) : Option Nat :=
  (Config.iommu (atsKey space va) (tabGet 0 (atsKey space va) s.ats)).map (fun f => 2 ^ 37 + f % 2 ^ 37)

/-- The page is translated anew from now on. -/
def atsAgain (s : State) (key : Nat) : State := { s with ats := tabMod 0 key (· + 1) s.ats }

/-- A walk and the checks of R255, for the space `space` and a context's pattern table. -/
def translate (s : State) (space fn : Nat) (pats : Vector (Option (BitVec 1024)) 12) (need : Need) (va : Nat) : Except TFault Trans :=
  match tabFind space s.roots with
  | none => .error ⟨0x100, false⟩
  | some root =>
    match walk s.mem va walkLevels root with
    | .error c => .error ⟨c, false⟩
    | .ok l =>
      let e := l.pte
      if (need.r && !pteR e) || (need.w && !pteW e) || (need.x && !pteX e) then .error ⟨0x104, false⟩
      else if !attrsOk pats (pteFmt e) (pteGeom e) (ptePat e) then .error ⟨0x102, false⟩
      else if !domainOk s (pteKd e) (spaceTenant space) then .error ⟨0x212, false⟩
      else if pteRange e = 2 then
        match atsFrame s space va with
        | some frame => .ok ⟨frame * 16384 + va % 16384, pteFmt e, pteGeom e, ptePat e, pteStk e, 2⟩
        | none => .error ⟨0x106, !(getFn s fn).priDead⟩
      else .ok ⟨l.pa, pteFmt e, pteGeom e, ptePat e, pteStk e, pteRange e⟩

/-- Where an access goes wrong: a cause that traps at the instruction (R304 steps 1 to 3), or a failed translation (step 4). -/
inductive AccFault where
  | early (c : Cause)
  | trans (t : TFault)
  deriving DecidableEq, Repr

/-- Where the bytes of an access lie: its home, and the page's attributes if it was translated. -/
structure Target where
  loc : Loc
  tr  : Option Trans
  deriving DecidableEq, Repr

/-- The place of a target that is reached through a window. -/
def Target.window (t : Target) : Option Loc := if t.tr.isSome then none else some t.loc

/-- An access at a global address (R245 step 3): steps 1, 2 and 4 of R304. -/
def resolveGlobal (s : State) (c : Nat) (need : Need) (a al : Nat) : Except AccFault Target :=
  let x := getCtx s c
  if 2 ^ 57 ≤ a then .error (.early 0x105)
  else if a % al ≠ 0 then .error (.early 0x107)
  else match translate s x.space x.fn x.pats need a with
    | .error t => .error (.trans t)
    | .ok t => .ok ⟨.mem t.pa, some t⟩

/-- Steps 1 to 4 of R304 for `n` bytes at `a` that must be `al`-aligned, by context `c`. -/
def resolve (s : State) (c : Nat) (need : Need) (a n al : Nat) : Except AccFault Target :=
  let x := getCtx s c
  if 2 ^ 57 ≤ a then .error (.early 0x105)
  else if a % al ≠ 0 then .error (.early 0x107)
  else match windowOf x a with
    | 0 => match translate s x.space x.fn x.pats need a with
      | .error t => .error (.trans t)
      | .ok t => .ok ⟨.mem t.pa, some t⟩
    | w => match windowLoc s c x w (a - winBase (winCsr x w)) n with
      | .error e => .error (.early e)
      | .ok l => .ok ⟨l, none⟩

/-- Host memory (R251). -/
def isHost (pa : Nat) : Bool := bitsOf pa 51 1 = 1

/-- The pod die that homes a byte of device memory (R251). -/
def homeDie (pa : Nat) : Nat := bitsOf pa 38 13

/-- Whether a byte of device memory is homed on another module (R251, R282). -/
def isRemote (s : State) (pa : Nat) : Bool := !isHost pa && (moduleDie s (homeDie pa)).isNone

/-! ### The torus (R10, R20, R393, R490) -/

/-- The coordinates of a pod die. Four dies in a square make a module, and the pod has 8 × 8 × 32 modules. DESIGN CHOICE (entry 192):
the identifier counts the dies of a module first, then modules along X, Y and Z. -/
def dieX (p : Nat) : Nat := p / 4 % 8 * 2 + p % 2
def dieY (p : Nat) : Nat := p / 32 % 8 * 2 + p / 2 % 2
def dieZ (p : Nat) : Nat := p / 256 % 32

/-- The minimal directions of a ring of `n` from `a` to `b`: whether up and whether down (R393). -/
def minimalDirs (n a b : Nat) : Bool × Bool :=
  let d := (b % n + n - a % n) % n
  (d ≠ 0 && 2 * d ≤ n, d ≠ 0 && n ≤ 2 * d)

/-- A direction in which a die has external straits: X, Y, +Z and −Z (R20). -/
inductive Way where
  | x | y | up | down
  deriving DecidableEq, Repr

/-- The straits of a die in a direction. DESIGN CHOICE (entry 192): the spec does not number them. -/
def Way.straits (w : Way) (die : Nat) : List Nat :=
  let o := match w with
    | .x => 0
    | .y => 4
    | .up => 8
    | .down => 12
  (List.range 4).map (fun i => 16 * die + o + i)

/-- The straits that a cluster's packets may use: those of its partition (R446). -/
def ownStraits (s : State) (cl : Nat) : BitVec 64 := (clusterPart s cl).elim 0 (fun p => (tabGet {} p s.parts).straits)

/-- Whether a die has an open strait among `own` in a direction (R446, R490). -/
def wayOpen (s : State) (own : BitVec 64) (die : Nat) (w : Way) : Bool :=
  (w.straits die).any (fun k => own.getLsbD k && (tabGet {} k s.straits).state = .opened)

/-- Whether a packet at module die `die` can leave the module towards pod die `dst`: each hop takes a minimal direction, over the
on-package link where that leads to a neighbour in the package, and otherwise over an open strait of `own` (R10, R20, R393, R446). -/
def hasRoute (s : State) (own : BitVec 64) (dst : Nat) : Nat → Nat → Bool
  | 0, _ => false
  | n + 1, die =>
    let p := podDie s die
    let (xu, xd) := minimalDirs 16 (dieX p) (dieX dst)
    let (yu, yd) := minimalDirs 16 (dieY p) (dieY dst)
    let (zu, zd) := minimalDirs 32 (dieZ p) (dieZ dst)
    let inX := die % 2
    let inY := die / 2
    let step (up down : Bool) (side : Nat) (w : Way) (next : Nat) : Bool :=
      (if side = 1 then up else down) && wayOpen s own die w || (if side = 1 then down else up) && hasRoute s own dst n next
    step xu xd inX .x (die - inX + (1 - inX)) || step yu yd inY .y (die - 2 * inY + 2 * (1 - inY)) ||
      (zu && wayOpen s own die .up) || (zd && wayOpen s own die .down)

/-- Whether a packet of cluster `cl` can reach pod die `dst`: at most two hops stay on the package (R10). -/
def routeOpen (s : State) (cl dst : Nat) : Bool := (moduleDie s dst).isSome || hasRoute s (ownStraits s cl) dst 3 (cl / 12)

/-- Whether no route leads from a cluster to the home of a location (R446, R490). -/
def unreached (s : State) (cl : Nat) : Loc → Bool
  | .mem pa => isRemote s pa && !routeOpen s cl (homeDie pa)
  | .pool _ _ => false

end Sys2Proof.Machine
end

