-- ==== Sys2Proof/Machine/Access.lean ====
section
/-!
DEFINITION. Accesses of a context at the homes of bytes (R258–R290, R304–R311): the L1 data cache, store forwarding,
write-throughs, faults held for service, the control core's shoal log, remote packets, and acquires.
-/

namespace Sys2Proof.Machine

/-- A location's space (0 for physical memory, cluster + 1 for a pool) and its address there. -/
def locKey : Loc → Nat × Nat
  | .mem pa => (0, pa)
  | .pool cl off => (cl + 1, off)

/-- The location `i` bytes further. -/
def Loc.add (l : Loc) (i : Nat) : Loc :=
  match l with
  | .mem pa => .mem (pa + i)
  | .pool cl off => .pool cl (off + i)

/-- Two runs of bytes that reach a common location at its home (R305). -/
def overlaps (a : Loc) (n : Nat) (b : Loc) (m : Nat) : Bool :=
  let (s, i) := locKey a
  let (t, j) := locKey b
  s = t && i < j + m && j < i + n

/-- Bytes at their home (R267). -/
def readHome (s : State) (l : Loc) (n : Nat) : List Byte :=
  match l with
  | .mem pa => memRead s.mem pa n
  | .pool cl off => memRead (getCluster s cl).pool off n

/-- Lines of 64 bytes that `n` bytes from `a` touch. -/
def linesOf (a n : Nat) : List Nat := if n = 0 then [] else (List.range ((a + n - 1) / 64 - a / 64 + 1)).map (· + a / 64)

/-- The error state of the lines of a location's space (R477, R437, R438). -/
def badTab (s : State) : Loc → Tab Cause
  | .mem _ => s.badMem
  | .pool cl _ => (getCluster s cl).badPool

/-- The cause that a read of these bytes meets (R477). -/
def readBad (s : State) (l : Loc) (n : Nat) : Option Cause :=
  (linesOf (locKey l).2 n).findSome? (fun k => tabFind k (badTab s l))

/-- The cause that a write of these bytes meets: that of a line it covers in part (R438, R477). -/
def writeBad (s : State) (l : Loc) (n : Nat) : Option Cause :=
  let a := (locKey l).2
  (linesOf a n).findSome? (fun k => if a ≤ 64 * k && 64 * k + 64 ≤ a + n then none else tabFind k (badTab s l))

/-- Lines that a write replaces whole lose their error state (R477). -/
def clearBad (t : Tab Cause) (a n : Nat) : Tab Cause := t.filter (fun e => !(a ≤ 64 * e.1 && 64 * e.1 + 64 ≤ a + n))

/-- Adds a number to an ascending list of distinct numbers. -/
def noteNumber (n : Nat) : List Nat → List Nat
  | [] => [n]
  | m :: l => if n < m then n :: m :: l else if n = m then m :: l else m :: noteNumber n l

/-- The blocks of `size` bytes that the `n` bytes from `a` touch. -/
def noteBlocks (size a n : Nat) (l : List Nat) : List Nat :=
  if n = 0 then l
  else (List.range ((a + n - 1) / size - a / size + 1)).foldl (fun l i => noteNumber (a / size + i) l) l

/-- The keys of what suspended waits watch (MODEL): a 64-byte line at its home, or an entry of a cluster's flag file (R318, R322). -/
def lineMark (l : Loc) : Nat := 2 * ((locKey l).1 * 2 ^ 60 + (locKey l).2 / 64)
def flagMark (cl e : Nat) : Nat := 2 * (256 * cl + e) + 1

/-- Counts a write to what has these keys, where it is watched (MODEL). -/
def noteWrites (ks : List Nat) (s : State) : State :=
  { s with marks := s.marks.map (fun e => if ks.contains e.1 then (e.1, e.2 + 1) else e) }

/-- The keys of the lines that `n` bytes touch. -/
def lineMarks (l : Loc) (n : Nat) : List Nat := (linesOf (locKey l).2 n).map (fun k => 2 * ((locKey l).1 * 2 ^ 60 + k))

/-- A write performed at its home in one step (R267). A granule of a pool that is written is dirty until the next scrub (R469). -/
def writeHome (s0 : State) (l : Loc) (bs : List Byte) : State :=
  let s := noteWrites (lineMarks l bs.length) s0
  match l with
  | .mem pa => { s with mem := memWrite s.mem pa bs, badMem := clearBad s.badMem pa bs.length }
  | .pool cl off =>
    modCluster s cl (fun c => { c with
      pool := memWrite c.pool off bs, badPool := clearBad c.badPool off bs.length, dirty := noteBlocks 4096 off bs.length c.dirty })

/-- Replaces bytes of a cached line that a write touches. -/
def patchLine (k : Nat) (line : BitVec 512) (a : Nat) (bs : List Byte) : BitVec 512 :=
  leWord 512 ((List.range 64).map (fun i =>
    let p := 64 * k + i
    if a ≤ p && p < a + bs.length then bs.getD (p - a) 0 else line.extractLsb' (8 * i) 8))

/-- Updates the lines of a core's L1 data cache that a write hits; nothing is allocated (R263). -/
def patchL1 (s : State) (k : Nat) (l : Loc) (bs : List Byte) : State :=
  match l with
  | .pool _ _ => s
  | .mem pa =>
    let hit := linesOf pa bs.length
    if (getCore s k).l1.any (fun e => hit.contains e.1) then
      modCore s k (fun c => { c with l1 := c.l1.map (fun e => if hit.contains e.1 then (e.1, patchLine e.1 e.2 pa bs) else e) })
    else s

/-- Lines of a control core's L1 instruction cache, and of its L1 data cache: 64 KiB each (R12). -/
def cacheLines : Nat := 1024

/-- A cache before a fill: a line other than those of the access itself may leave, and one leaves when the cache is full. Which, and
whether one leaves before that, is free (log entry 194): the spec gives the size, not the arrangement. -/
def pushOut (n : Nat) (keep : List Nat) (t : Tab (BitVec 512)) : Tab (BitVec 512) :=
  match t.filter (fun e => !keep.contains e.1) with
  | [] => t
  | e :: l =>
    if t.length < cacheLines && !Config.freeBit n then t
    else tabDel ((e :: l).getD ((Config.freeWord n).toNat % (l.length + 1)) e).1 t

/-- A line filled from its home on a miss (R309), for an access that touches the lines `keep`. -/
def fillLine (s : State) (k : Nat) (keep : List Nat) (line : Nat) : State :=
  match tabFind line (getCore s k).l1 with
  | some _ => s
  | none =>
    let (n, s) := takeFresh s
    modCore s k (fun c => { c with l1 := tabPut line (leWord 512 (memRead s.mem (64 * line) 64)) (pushOut n keep c.l1) })

/-- A plain read of global bytes through a core's L1 data cache (R263, R309). -/
def readL1 (s : State) (k pa n : Nat) : List Byte × State :=
  let s := (linesOf pa n).foldl (fun s line => fillLine s k (linesOf pa n) line) s
  let l1 := (getCore s k).l1
  ((List.range n).map (fun i => (tabGet 0 ((pa + i) / 64) l1).extractLsb' (8 * ((pa + i) % 64)) 8), s)

/-- What an acquire of scope `sc` does to the core's L1 data cache: cluster scope nothing, device and pod scope drop the lines
of device memory, system scope drops all (R263, R276, R290). -/
def acquireL1 (s : State) (c : Nat) (sc : BitVec 2) : State :=
  match sc.toNat with
  | 0 => s
  | 3 => modCore s (ctxCore c) (fun k => { k with l1 := [] })
  | _ => modCore s (ctxCore c) (fun k => { k with l1 := k.l1.filter (fun e => isHost (64 * e.1)) })

/-- Entries of the second pending set that the first lacks. -/
def mergePend (p q : List Pend) : List Pend := p ++ q.filter (fun e => !p.contains e)

/-- An acquire at cluster or device scope: the pending sets of the agents it covers are merged into the acquirer's (R288). The
model merges the sets of all of them, which can only make later releases wait. -/
def acquirePend (s : State) (c : Nat) (sc : BitVec 2) : State :=
  if sc.toNat < 2 then
    let others := (s.parked.filter (fun e => sc = 1 || ctxCluster e.1 = ctxCluster c)).flatMap (fun e => e.2.pend)
    if others.isEmpty then s else modCtx s c (fun x => { x with pend := mergePend x.pend others })
  else s

/-- Loads of a context that have been performed early and that reach these bytes are forgotten (R271). -/
def dropEarly (s : State) (c : Nat) (l : Loc) (n : Nat) : State :=
  if (getCtx s c).early.isEmpty then s
  else modCtx s c (fun x => { x with early := x.early.filter (fun e => !overlaps l n e.1 e.2.length) })

/-- The value of a load of these bytes that has been performed early. -/
def earlyValue (x : Context) (l : Loc) (n : Nat) : Option (List Byte) :=
  (x.early.find? (fun e => e.1 = l && e.2.length = n)).map (·.2)

/-- Nothing of a context stays performed early: an acquire comes before every later access (R271). -/
def noEarly (s : State) (c : Nat) : State := if (getCtx s c).early.isEmpty then s else modCtx s c (fun x => { x with early := [] })

/-- An acquire of scope `sc` by context `c` (R263, R276, R288, R290). -/
def acquire (s : State) (c : Nat) (sc : BitVec 2) : State := acquirePend (acquireL1 (noEarly s c) c sc) c sc

/-- Own stores that have not been performed yet, laid over the bytes read (R272). -/
def forward (stores : List PStore) (l : Loc) (bs : List Byte) : List Byte :=
  stores.foldl (fun bs st =>
    if overlaps l bs.length st.loc st.bytes.length then
      (List.range bs.length).map (fun i =>
        let p := (locKey l).2 + i
        let q := (locKey st.loc).2
        if q ≤ p && p < q + st.bytes.length then st.bytes.getD (p - q) 0 else bs.getD i 0)
    else bs) bs

/-! The ordering locks of events (R302, R390): a queue is its own lock, and the sources follow the queues. -/

/-- Locks below this are queues; the others are sources. -/
def firstSource : Nat := 4096

/-- The source of the memory processor's records. -/
def memProcSource : Nat := firstSource
/-- The source of a Sound's records. -/
def soundSource (die : Nat) : Nat := firstSource + 100 + die
/-- The source of the records of a stack and of its walker. DESIGN CHOICE (entry 222): R302 does not say which of its sources posts these
records, nor those of the power arbiter, the revocation sweep and the planner; each has a lock of its own. -/
def stackSource (stack : Nat) : Nat := firstSource + 200 + stack
/-- The source of a cluster's records. -/
def clusterSource (cl : Nat) : Nat := firstSource + 300 + cl
/-- The source of the power arbiter's records about a die. -/
def arbiterSource (die : Nat) : Nat := firstSource + 400 + die
/-- The source of the revocation sweep. -/
def sweepSource : Nat := firstSource + 500
/-- The source of a partition's planner. -/
def plannerSource (part : Nat) : Nat := firstSource + 600 + part

/-- Posts an event record to the physical function (R454 E, R486): cause, source unit, function and the bytes from 12 on; `lock` is the
source whose records stay in order (R302, R390). -/
def postEvent (s : State) (cause : Cause) (source fn lock : Nat) (payload : List Byte) : State :=
  { s with hub := { s.hub with events := s.hub.events ++ [⟨0xFFFF, fn, lock, cause, source, payload, 0, false⟩] } }

/-- Changes the hub. -/
def modHub (s : State) (f : Hub → Hub) : State := { s with hub := f s.hub }

/-- Whether a request of FEMODE bit `bit` about `key` is on its way to a skerry, with one, or waits for the host's answer. -/
def asked (s : State) (bit key : Nat) : Bool :=
  let is (e : HubEvent) : Bool := e.bit = bit && e.source = key
  s.hub.events.any is || s.hub.skerries.any (fun e => is e.2.1) || s.hub.posted.any (fun e => is e.2)

/-- Whether a skerry runs the handler of a request in hardware mode (R390, R391). -/
def handled (s : State) (bit key : Nat) : Bool :=
  s.hub.skerries.any (fun e => e.2.1.bit = bit && e.2.1.source = key && !e.2.1.host)

/-- The skerry that runs the handler of a request is idle again, and its lock free. -/
def endHandler (s : State) (bit key : Nat) : State :=
  modHub s (fun h => { h with skerries := h.skerries.filter (fun e => !(e.2.1.bit = bit && e.2.1.source = key && !e.2.1.host)) })

/-- Logs a cause in a job's completion record: the first one is kept (R384, R454 L). -/
def logCause (s : State) (b : Nat) (cause : Cause) : State :=
  modBundle s b (fun v => if v.logged then v else { v with logged := true, cause := cause })

/-- Adds an asynchronous cause to a context (R454 A). -/
def addAsync (s : State) (c : Nat) (cause : Cause) (detail : BitVec 32) (fa : Word) : State :=
  modCtx s c (fun x => { x with asyncs := x.asyncs ++ [⟨cause, detail, fa, x.handler⟩] })

/-- CAUSE.detail of an access: [0] store or reduction, [1] fetch, [2] from the shoal log (R459). -/
def accDetail (store fetch shoal : Bool) : BitVec 32 :=
  (if store then 1 else 0) ||| (if fetch then 2 else 0) ||| (if shoal then 4 else 0)

/-- The event of an uncorrectable or tag error names the line (R477, R437); its records are ordered by stack or cluster (R302). -/
def postBad (s : State) (cause : Cause) (l : Loc) : State :=
  if cause = 0x111 || cause = 0x112 || cause = 0x210 then
    let (sp, a) := locKey l
    let unit := if sp = 0 then ((moduleDie s (homeDie a)).getD 0) * 4 + bitsOf a 36 2 else sp - 1
    postEvent s cause unit 0 (if sp = 0 then stackSource unit else clusterSource unit) (leBytes 8 (a / 64 * 64))
  else s

/-- The pod die of a context. -/
def ctxDie (s : State) (c : Nat) : Nat := podDie s (ctxCluster c / 12)

/-- The next sequence count of a pair of dies (R286). -/
def nextCount (s : State) (src dst : Nat) : Nat × State :=
  let k := src * 8192 + dst
  let n := tabGet 0 k s.netCount + 1
  (n, { s with netCount := tabPut k n s.netCount })

/-- Sends a packet from a context, which enters its pending set (R286–R288). -/
def sendPacket (s : State) (c dst : Nat) (release : Bool) (vec : List (Nat × Nat)) (kind : PkKind) : State :=
  let src := ctxDie s c
  let (n, s) := nextCount s src dst
  let x := getCtx s c
  let p : Packet := { ctx := c, cid := x.cont.cid, src := src, dst := dst, count := n, release := release, vec := vec, kind := kind,
                      bundle := x.cont.bundle, applied := false, refused := false, escaped := false, since := s.tick,
                      limit := 1000 * tabGet 50 (ctxCluster c / 12) s.hub.sndrec }
  let s := { s with net := s.net ++ [p] }
  modCtx s c (fun x => { x with pend := x.pend ++ [⟨src, dst, n⟩] })

/-- The partition that owns a byte of device memory, by its 16 MiB granule (R446). -/
def granulePart (s : State) (pa : Nat) : Nat := tabGet 0 (pa / 2 ^ 24) s.granules

/-- Whether a packet of cluster `cl` over a die-to-die link of the package reaches a cluster or granule that its job key's partition does
not own (R447). -/
def foreign (s : State) (cl : Nat) : Loc → Bool
  | .pool t _ => t / 12 != cl / 12 && clusterPart s t != clusterPart s cl
  | .mem pa => !isHost pa && (moduleDie s (homeDie pa)).any (fun d => d != cl / 12) && clusterPart s cl != some (granulePart s pa)

/-- The target's Sound drops a packet by its job key, and posts it (R447). -/
def postForeign (s : State) (b : Nat) (l : Loc) : State :=
  let d := match l with
    | .pool t _ => t / 12
    | .mem pa => (moduleDie s (homeDie pa)).getD 0
  postEvent s 0x380 d 0 (soundSource d) (leBytes 4 (((tabFind b s.bundles).map (fun v => v.key.toNat)).getD 0))

/-- The lines that a run of bytes touches lose their error state: a store that covers them whole replaces them (R477). -/
def replaceLines (s : State) (l : Loc) (n : Nat) : State :=
  let keep (e : Nat × Cause) : Bool := !(linesOf (locKey l).2 n).contains e.1
  match l with
  | .mem _ => { s with badMem := s.badMem.filter keep }
  | .pool cl _ => modCluster s cl (fun c => { c with badPool := c.badPool.filter keep })

/-- A part of a store that covers its whole line replaces the line, whatever its error state (R438, R477). -/
def storeReplaces (s : State) (st : PStore) : State := if st.whole then replaceLines s st.loc st.bytes.length else s

/-- A store of context `c` performed at its home, or sent to it when the home is on another module (R280, R282, R286), where the core's
L1 data cache takes it when it is applied. A line
covered in part whose old value fails its checks is not written, and the context raises the cause (R438). A packet over a die-to-die link
whose key fails is dropped (R447). -/
def performStore (s0 : State) (c : Nat) (st : PStore) : State :=
  let s := storeReplaces s0 st
  if foreign s (ctxCluster c) st.loc then postForeign s (getCtx s c).cont.bundle st.loc
  else match st.loc with
  | .mem pa =>
    if isRemote s pa then sendPacket s c (homeDie pa) false [] (.write pa st.bytes)
    else match writeBad s st.loc st.bytes.length with
      | some e => addAsync (postBad s e st.loc) c e (accDetail true false false) st.va
      | none => patchL1 (writeHome s st.loc st.bytes) (ctxCore c) st.loc st.bytes
  | .pool _ _ =>
    match writeBad s st.loc st.bytes.length with
    | some e => addAsync (postBad s e st.loc) c e (accDetail true false false) st.va
    | none => writeHome s st.loc st.bytes

/-- Performs every write-through of a context that has not reached its home, in program order (R271, R280). -/
def drainStores (s : State) (c : Nat) : State :=
  match (getCtx s c).stores with
  | [] => s
  | sts => sts.foldl (fun s st => performStore s c st) (modCtx s c (fun x => { x with stores := [] }))

/-- A context's pending store that overlaps these bytes. -/
def storesOverlap (x : Context) (l : Loc) (n : Nat) : Bool := x.stores.any (fun st => overlaps l n st.loc st.bytes.length)

/-- The shoal-log entries of context `c` in its core's log (R259). -/
def ownShoal (s : State) (c : Nat) : List Shoal := (getCore s (ctxCore c)).shoal.filter (fun e => e.ctx = c)

/-- The translation of a shoal-log entry as it stands now. -/
def shoalTarget (s : State) (e : Shoal) : Except AccFault Target :=
  match e.loc with
  | some l => .ok ⟨l, none⟩
  | none =>
    let x := getCtx s e.ctx
    match translate s x.space x.fn x.pats (if e.red.isSome then needBoth else needStore) e.va.toNat with
    | .error t => .error (.trans t)
    | .ok t => .ok ⟨.mem t.pa, some t⟩

/-- Whether a load of context `c` must wait for an entry of its shoal log (R260). -/
def shoalBlocks (s : State) (c : Nat) (l : Loc) (n : Nat) : Bool :=
  (ownShoal s c).any (fun e =>
    match l, shoalTarget s e with
    | .pool _ _, .error _ => false
    | .mem _, .error _ => !e.refused
    | l, .ok t => overlaps l n t.loc e.bytes.length)

/-- The 16 KiB page of an address. -/
def pageOf (a : Nat) : Nat := a / 16384

/-- Whether a record stands for the access in progress of context `c` on the page of `a`, or (`log`) for the entries of its shoal log on
that page, whose kind is 1 (R480). -/
def isHeld (log : Bool) (c a : Nat) (f : Fault1) : Bool :=
  f.ctx = some c && pageOf f.va.toNat = pageOf a && (f.kind = 1) = log

/-- The record of the access in progress of a context on the page of `a`, if it is held. -/
def findHeld (s : State) (c a : Nat) : Option Fault1 := s.faults.find? (isHeld false c a)

/-- Drops the record of the access in progress of a context on the page of `a`. -/
def dropHeld (s : State) (c a : Nat) : State := { s with faults := s.faults.filter (fun f => !isHeld false c a f) }

/-- Drops the record of a context's shoal-log entries on the page of `a`. -/
def dropLogged (s : State) (c a : Nat) : State := { s with faults := s.faults.filter (fun f => !isHeld true c a f) }

/-- Holds an access of a context for fault service (R256, R258); `kind` as in R480. -/
def addHeld (s : State) (c a : Nat) (kind : BitVec 8) (t : TFault) : State :=
  if s.faults.any (isHeld (kind = 1) c a) then s
  else
    let x := getCtx s c
    { s with faults := s.faults ++ [{ ctx := some c, eng := none, va := BitVec.ofNat 64 a, kind := kind, cause := t.cause,
                                      since := s.tick, refused := none, hostBacked := t.host, prg := none, seq := none, chan := none,
                                      grace := 1000 * s.hub.mpctl,
                                      fn := x.fn, space := x.space }] }

/-- How an access of a context ends its attempt. -/
inductive Acc (α : Type) where
  | ok (v : α) (s : State)
  | hold (s : State)
  | trap (s : State) (c : Cause) (detail : BitVec 32) (fa : Word)

/-- A failed translation of a load: held until service answers, then its cause, or 0x110 after the grace timer (R258). -/
def heldFault {α : Type} (s : State) (c a : Nat) (kind : BitVec 8) (detail : BitVec 32) (t : TFault) : Acc α :=
  match findHeld s c a with
  | some f =>
    match f.refused with
    | some e => .trap (dropHeld s c a) e detail (BitVec.ofNat 64 a)
    | none => .hold s
  | none =>
    if t.cause = 0x106 && !t.host then .trap s t.cause detail (BitVec.ofNat 64 a)
    else .hold (addHeld s c a kind t)

/-- W of a channel: the largest w such that [0, w) of its range is done (R343). -/
def chanW (ch : Chan) : Nat :=
  (List.range ch.spans.length).foldl (fun w _ => ch.spans.foldl (fun w sp => if sp.1 ≤ w then max w sp.2 else w) w) 0

/-- The channel whose unfinished part an access of a control core touches, and whether such a channel is broken: the loads and AMOs
of a load-engine channel, the stores and AMOs of a store-engine channel (R343). -/
def watermark (s : State) (c : Nat) (l : Loc) (n : Nat) (ld st : Bool) : Option (Nat × Bool) :=
  match l with
  | .mem _ => none
  | .pool cl off =>
    if cl != ctxCluster c then none
    else
      let hit := (getCluster s cl).chans.filter (fun e =>
        (if e.1 < 8 then ld else st) && chanW e.2 < e.2.len && off < e.2.lo + e.2.len && e.2.lo + chanW e.2 < off + n)
      hit.head?.map (fun e => (e.1, hit.any (fun e => e.2.broken)))

/-- The kind of a record that stands for an access held on a watermark (MODEL; R480 has kinds 0 to 3). -/
def kindWatermark : BitVec 8 := 4

/-- The kind of a record that stands for a store held on a full shoal log (MODEL). -/
def kindFull : BitVec 8 := 5

/-- The kinds of the record of a held front-end access that reads, and of one that writes (MODEL; R480 reports them as 0 and 1). -/
def kindFront : BitVec 8 := 6
def kindFrontStore : BitVec 8 := 8

/-- The kind of a record that stands for the entries of an operation in its engine's log (MODEL; R480 reports it as kind 3). -/
def kindLogged : BitVec 8 := 7

/-- Holds an access on a watermark until the channel's copies pass it; a broken channel traps with 0x30A, and a hold beyond the
translation grace timer with 0x110 (R343). -/
def holdWatermark {α : Type} (s : State) (c a key : Nat) (broken : Bool) (detail : BitVec 32) : Acc α :=
  match findHeld s c a with
  | some f =>
    match f.refused with
    | some e => .trap (dropHeld s c a) e (if e = 0x110 then detail else 0) (BitVec.ofNat 64 a)
    | none => if broken then .trap (dropHeld s c a) 0x30A 0 (BitVec.ofNat 64 a) else .hold s
  | none =>
    if broken then .trap s 0x30A 0 (BitVec.ofNat 64 a)
    else
      let s := addHeld s c a kindWatermark ⟨0x110, false⟩
      .hold { s with faults := s.faults.map (fun f =>
        if f.ctx = some c && f.kind = kindWatermark && pageOf f.va.toNat = pageOf a then { f with chan := some key } else f) }

/-- Whether an access must wait for a channel, or meets the refusal of a record that waited for one: a channel unbound, or a
cluster scrubbed, while the access was held (R343, R344). -/
def holdCheck {α : Type} (s : State) (c : Nat) (l : Loc) (a n : Nat) (ld st : Bool) (detail : BitVec 32) : Option (Acc α) :=
  match watermark s c l n ld st with
  | some b => some (holdWatermark s c a b.1 b.2 detail)
  | none => match findHeld s c a with
    | some f =>
      if f.kind = kindWatermark then
        f.refused.map (fun e => .trap (dropHeld s c a) e (if e = 0x110 then detail else 0) (BitVec.ofNat 64 a))
      else none
    | none => none

/-- The pod die of a place's home (R9, R269). -/
def locDie (s : State) : Loc → Nat
  | .mem pa => homeDie pa
  | .pool c _ => podDie s (c / 12)

/-- Whether a write of pod die `src` to a 128-byte line of these bytes, whose home is on another module, has not been applied there (R286). -/
def dieBlocks (s : State) (src : Nat) (l : Loc) (n : Nat) : Bool :=
  match l with
  | .mem pa => isRemote s pa && s.net.any (fun p => p.src = src && !p.applied && match p.kind with
      | .write q bs => q / 128 ≤ (pa + n - 1) / 128 && pa / 128 ≤ (q + bs.length - 1) / 128
      | _ => false)
  | .pool _ _ => false

/-- Whether a write of context `c` to these bytes has not been applied at its remote home yet (R271), or the home cannot be reached
(R490; DESIGN CHOICE, entry 191: the access waits for a strait). -/
def netBlocks (s : State) (c : Nat) (l : Loc) (n : Nat) : Bool :=
  unreached s (ctxCluster c) l || s.net.any (fun p => p.ctx = c && !p.applied && match p.kind with
    | .write pa bs => overlaps l n (.mem pa) bs.length
    | _ => false)

/-- The scope at which an access is performed: at least pod for a home on another module, device for another cluster's pool
(R269, R282). -/
def widen (s : State) (c : Nat) (l : Loc) (sc : BitVec 2) : BitVec 2 :=
  match l with
  | .mem pa => if isRemote s pa && sc.toNat < 2 then 2 else sc
  | .pool cl _ => if cl != ctxCluster c then 1 else sc

/-- Drops the held record of a context's access; one that was held on a watermark has joined the covering steps at their scope (R295,
R343). -/
def passHeld (s : State) (c a : Nat) : State :=
  if s.faults = [] then s
  else match findHeld s c a with
    | some f =>
      let sc := ((f.chan.bind (fun k => tabFind k (getCluster s (ctxCluster c)).chans)).map Chan.scope).getD 1
      if f.kind = kindWatermark then acquire (dropHeld s c a) c sc else dropHeld s c a
    | none => s

/-- A load-like access that has been resolved to `r`: it traps, holds, or has its target with any held fault dropped. A need of both
rights marks an AMO. DESIGN CHOICE (entry 213): a load whose packet is dropped by its job key on a die-to-die link (R447) raises 0x104. -/
def loadAt (s : State) (c : Nat) (need : Need) (kind : BitVec 8) (detail : BitVec 32) (a n : Nat) (r : Except AccFault Target) : Acc Target :=
  match r with
  | .error (.early e) => .trap s e detail (BitVec.ofNat 64 a)
  | .error (.trans t) => heldFault s c a kind detail t
  | .ok t =>
    match holdCheck s c t.loc a n true need.w detail with
    | some r => r
    | none =>
      if shoalBlocks s c t.loc n || netBlocks s c t.loc n then .hold s
      else if foreign s (ctxCluster c) t.loc then
        .trap (postForeign s (getCtx s c).cont.bundle t.loc) 0x104 detail (BitVec.ofNat 64 a)
      else .ok t (dropEarly (passHeld s c a) c t.loc n)

/-- Resolves a load-like access. -/
def loadTarget (s : State) (c : Nat) (need : Need) (kind : BitVec 8) (detail : BitVec 32) (a n al : Nat) : Acc Target :=
  loadAt s c need kind detail a n (resolve s c need a n al)

/-- The bytes that a plain load of a context reads at a resolved location (R263, R272, R275, R309). -/
def plainBytes (s : State) (c : Nat) (l : Loc) (n : Nat) : List Byte × State :=
  let x := getCtx s c
  match l with
  | .pool _ _ => (forward x.stores l (readHome s l n), s)
  | .mem pa =>
    let (bs, s) := readL1 s (ctxCore c) pa n
    (forward x.stores l bs, s)

/-- A plain load of `n` bytes that has been resolved to `r`. -/
def plainLoadAt (s : State) (c : Nat) (a n : Nat) (r : Except AccFault Target) : Acc (List Byte × Option Trans) :=
  match loadAt s c needLoad 0 (accDetail false false false) a n r with
  | .hold s => .hold s
  | .trap s e d f => .trap s e d f
  | .ok t s =>
    match readBad s t.loc n with
    | some e => .trap (postBad s e t.loc) e (accDetail false false false) (BitVec.ofNat 64 a)
    | none => let (bs, s) := plainBytes s c t.loc n; .ok (bs, t.tr) s

/-- `n` bytes of a wide load, of which `pos` come before: where the model's pace is to tear it, each turn reads one more of its parts of 8
bytes, and others' writes may come between (R207, R270). -/
def wideLoadAt (s : State) (c a n pos : Nat) (r : Except AccFault Target) : Acc (List Byte) :=
  let got := (getCtx s c).got
  if s.tear && 8 < n && pos + n ≤ got.length then .ok ((got.drop pos).take n) s
  else match plainLoadAt s c a n r with
    | .hold s => .hold s
    | .trap s e d f => .trap s e d f
    | .ok (bs, _) s =>
      if !s.tear || n ≤ 8 then .ok bs s
      else
        let got := got.take (pos + n) ++ (bs.drop (got.length - pos)).take 8
        let s := modCtx s c (fun x => { x with got := got })
        if pos + n ≤ got.length then .ok ((got.drop pos).take n) s else .hold s

/-- A plain load of `n` bytes (R308, R309). -/
def plainLoad (s : State) (c : Nat) (a n al : Nat) : Acc (List Byte × Option Trans) := plainLoadAt s c a n (resolve s c needLoad a n al)

/-- The lines that a strong load finds in a core's L1 data cache are refreshed from their home (R268). -/
def refreshL1 (s : State) (k : Nat) (l : Loc) (n : Nat) : State :=
  match l with
  | .pool _ _ => s
  | .mem pa =>
    let hit := linesOf pa n
    if (getCore s k).l1.any (fun e => hit.contains e.1) then
      modCore s k (fun c => { c with l1 := c.l1.map (fun e => if hit.contains e.1 then (e.1, leWord 512 (memRead s.mem (64 * e.1) 64)) else e) })
    else s

/-- A strong read at the home: own overlapping stores are performed first, and an L1 line it finds is refreshed (R268, R271). -/
def strongBytes (s : State) (c : Nat) (l : Loc) (n : Nat) : List Byte × State :=
  let s := if storesOverlap (getCtx s c) l n then drainStores s c else s
  (readHome s l n, refreshL1 s (ctxCore c) l n)

/-- Whether a location's home is on another module. -/
def remoteLoc (s : State) : Loc → Bool
  | .mem pa => isRemote s pa
  | .pool _ _ => false

/-- A strong load of `n` bytes; `acq` is the scope of an acquire (R311). Own stores to these bytes come before it: those to another
module are sent and waited for (R271–R273). A relaxed load may have been performed early (R271). -/
def strongLoad (s0 : State) (c : Nat) (a n : Nat) (acq : Option (BitVec 2)) : Acc (List Byte) :=
  match loadTarget s0 c needLoad 0 (accDetail false false false) a n n with
  | .hold s => .hold s
  | .trap s e d f => .trap s e d f
  | .ok t s =>
    if remoteLoc s t.loc && storesOverlap (getCtx s c) t.loc n then .hold (drainStores s c)
    else match readBad s t.loc n with
    | some e => .trap (postBad s e t.loc) e (accDetail false false false) (BitVec.ofNat 64 a)
    | none =>
      let (bs, s) := strongBytes s c t.loc n
      match acq with
      | some sc => .ok bs (acquire s c (widen s c t.loc sc))
      | none => .ok ((earlyValue (getCtx s0 c) t.loc n).getD bs) s

/-- A store that finds its shoal log full holds its unit, and traps when the hold exceeds the grace timer (R261). -/
def fullHold {α : Type} (s : State) (c a : Nat) : Acc α :=
  match findHeld s c a with
  | some f =>
    match f.refused with
    | some k => .trap (dropHeld s c a) k (accDetail true false false) (BitVec.ofNat 64 a)
    | none => .hold s
  | none => .hold (addHeld s c a kindFull ⟨0x110, false⟩)

/-- Appends an entry to a core's shoal log; a full log holds its unit (R261). -/
def shoalPush (s : State) (c : Nat) (e : Shoal) (t : Option TFault) : Acc Unit :=
  let a := e.va.toNat
  if 64 ≤ (getCore s (ctxCore c)).shoal.length then
    fullHold s c a
  else
    let s := if (findHeld s c a).any (fun f => f.kind = kindFull) then dropHeld s c a else s
    let s := modCore s (ctxCore c) (fun k => { k with shoal := k.shoal ++ [e] })
    .ok () (match t with
      | some t => if e.refused then s else addHeld s c e.va.toNat 1 t
      | none => s)

/-- The shoal-log entry of a store. -/
def shoalStore (c cid : Nat) (a : Nat) (bs : List Byte) (sc ord : BitVec 2) (cause : Cause) (refused : Bool) : Shoal :=
  ⟨c, cid, BitVec.ofNat 64 a, bs, none, 0, 0, sc, ord, cause, refused, none⟩

/-- A store of `n` bytes that has been resolved to `r` (R304), which enters the shoal log where its translation fails or the log holds an
entry of the context (R259, R260). `none` means that it entered the log. A store of part of a line whose content is uncorrectable or fails
its tag traps as a read of it would (R455, R477); one whose check value fails is told at the home (R438). -/
def storeAt (s : State) (c : Nat) (a n : Nat) (bs : List Byte) (sc ord : BitVec 2) (r : Except AccFault Target) : Acc (Option Target) :=
  let cid := (getCtx s c).cont.cid
  match r with
  | .error (.early e) => .trap s e (accDetail true false false) (BitVec.ofNat 64 a)
  | .error (.trans t) =>
    let refused := t.cause = 0x106 && !t.host
    match shoalPush s c (shoalStore c cid a bs sc ord t.cause refused) (some t) with
    | .ok _ s => .ok none (if refused then addAsync s c t.cause (accDetail true false true) (BitVec.ofNat 64 a) else s)
    | .hold s => .hold s
    | .trap s e d f => .trap s e d f
  | .ok t =>
    match holdCheck s c t.loc a n false true (accDetail true false false) with
    | some r => r
    | none =>
    let s := passHeld s c a
    if (ownShoal s c).isEmpty then
      match writeBad s t.loc n with
      | some e => if e = 0x211 then .ok (some t) s else .trap (postBad s e t.loc) e (accDetail true false false) (BitVec.ofNat 64 a)
      | none => .ok (some t) s
    else match shoalPush s c { shoalStore c cid a bs sc ord 0 false with loc := t.window } none with
      | .ok _ s => .ok none s
      | .hold s => .hold s
      | .trap s e d f => .trap s e d f

/-- Resolves a store. -/
def storeTarget (s : State) (c : Nat) (a n al : Nat) (bs : List Byte) (sc ord : BitVec 2) : Acc (Option Target) :=
  storeAt s c a n bs sc ord (resolve s c needStore a n al)

/-- Whether a location lies in the pool of a cluster whose freeze has been acknowledged: no agent writes it (R476). -/
def poolHeld (s : State) : Loc → Bool
  | .pool cl _ => (getCluster s cl).ack
  | .mem _ => false

/-- The location `n` bytes further on. -/
def Loc.plus (l : Loc) (n : Nat) : Loc :=
  match l with
  | .pool cl off => .pool cl (off + n)
  | .mem pa => .mem (pa + n)

/-- The write-throughs of a store at `l` of the bytes at virtual address `a`: independent parts of 8 bytes (R207, R270). `f` bounds them. -/
def storeParts (l : Loc) (a : Nat) : Nat → List Byte → List PStore
  | 0, _ => []
  | f + 1, bs => if bs.length ≤ 8 then [⟨l, bs, BitVec.ofNat 64 a, false⟩]
    else ⟨l, bs.take 8, BitVec.ofNat 64 a, false⟩ :: storeParts (l.plus 8) (a + 8) f (bs.drop 8)

/-- The parts of a store of `n` bytes at `l`, those marked whose line the store covers whole (R438, R477). -/
def wholeParts (l : Loc) (n : Nat) (ps : List PStore) : List PStore :=
  let a := (locKey l).2
  ps.map (fun p => let q := (locKey p.loc).2 / 64 * 64; { p with whole := decide (a ≤ q ∧ q + 64 ≤ a + n) })

/-- Stores that a context has issued and that are still to be performed: they may be performed in any order that keeps the order at
each location (R271), so later loads and stores to other locations may be performed before them (R279). -/
def queueStore (s : State) (c : Nat) (l : List PStore) : State :=
  modCtx s c (fun x => { x with stores := x.stores ++ l,
                                early := x.early.filter (fun e => !l.any (fun p => overlaps p.loc p.bytes.length e.1 e.2.length)) })

/-- A plain store that has been resolved to `r`: it retires at once, and its write-throughs reach the home later (R263, R280, R309). -/
def plainStoreAt (s : State) (c : Nat) (a : Nat) (bs : List Byte) (r : Except AccFault Target) : Acc Unit :=
  match storeAt s c a bs.length bs 0 0 r with
  | .hold s => .hold s
  | .trap s e d f => .trap s e d f
  | .ok none s => .ok () s
  | .ok (some t) s =>
    if poolHeld s t.loc then .hold s
    else .ok () (queueStore s c (wholeParts t.loc bs.length (storeParts t.loc a (bs.length / 8 + 1) bs)))

/-- A plain store (R308, R309). -/
def plainStore (s : State) (c : Nat) (a al : Nat) (bs : List Byte) : Acc Unit :=
  plainStoreAt s c a bs (resolve s c needStore a bs.length al)

/-- Whether some remote write of a context has not been applied at its home. -/
def unapplied (s : State) (c : Nat) : Bool := s.net.any (fun p => p.ctx = c && !p.applied)

/-- Whether some remote write of a context is not acknowledged (R288, R290). -/
def remotePending (x : Context) : Bool := !x.pend.isEmpty

/-- The causal vector towards `dst`: for each source die the highest pending count (R288). -/
def causalVec (pend : List Pend) (dst : Nat) : List (Nat × Nat) :=
  pend.foldl (fun v p => if p.dst = dst then tabPut p.src (max p.count (tabGet 0 p.src v)) v else v) []

/-- Whether a release-class packet to `dst` may leave: every entry for another target is acknowledged, and at most 16 source
dies are named (R288). -/
def mayRelease (x : Context) (dst : Nat) : Bool :=
  x.pend.all (fun p => p.dst = dst) && (causalVec x.pend dst).length ≤ 16

/-- Whether a release of scope `sc` at a home of the module may be performed as far as remote writes go: the agent's own have been
applied (R271), and a release of pod or system scope waits for its whole pending set, so that its packet needs no vector (R288, R290). -/
def releaseHere (s : State) (c : Nat) (sc : BitVec 2) : Bool :=
  if sc.toNat < 2 then !unapplied s c else !remotePending (getCtx s c)

/-- Whether the remote writes of a context allow a release of scope `sc` at location `l`: a release-class packet waits as R288 and R290
say. -/
def releaseSent (s : State) (c : Nat) (l : Loc) (sc : BitVec 2) : Bool :=
  let x := getCtx s c
  match l with
  | .mem pa =>
    if isRemote s pa then (if sc = 3 then !remotePending x else mayRelease x (homeDie pa)) else releaseHere s c sc
  | .pool _ _ => releaseHere s c sc

/-- Whether a release of scope `sc` at location `l` may be performed by a context whose own stores have been performed: its
shoal log has drained, and its pending set allows it. -/
def releaseReady (s : State) (c : Nat) (l : Loc) (sc : BitVec 2) : Bool := (ownShoal s c).isEmpty && releaseSent s c l sc

/-- A release store performed at its home, or sent as a release-class packet (R287, R288). -/
def performRelease (s : State) (c : Nat) (st : PStore) : State :=
  match st.loc with
  | .mem pa =>
    if isRemote s pa then
      sendPacket s c (homeDie pa) true (causalVec (getCtx s c).pend (homeDie pa)) (.write pa st.bytes)
    else performStore s c st
  | .pool _ _ => performStore s c st

/-- A strong store; `rel` marks a release (R311). A release waits until every earlier store is performed; then it is itself one of the
context's stores still to be performed, as a relaxed one is, so that a later load may be performed before it (R279). To a home on another
module it is sent at once, as a release-class packet. -/
def strongStore (s : State) (c : Nat) (a : Nat) (bs : List Byte) (sc : BitVec 2) (rel : Bool) : Acc Unit :=
  match resolve s c needStore a bs.length bs.length with
  | .error (.early e) => .trap s e (accDetail true false false) (BitVec.ofNat 64 a)
  | r =>
    let s := if rel then drainStores s c else s
    let blocked := match r with
      | .ok t => rel && !releaseReady s c t.loc (widen s c t.loc sc)
      | .error _ => rel && !(ownShoal s c).isEmpty
    if blocked then .hold s
    else
      match storeTarget s c a bs.length bs.length bs sc (if rel then 2 else 0) with
      | .hold s => .hold s
      | .trap s e d f => .trap s e d f
      | .ok none s => .ok () s
      | .ok (some t) s =>
        if poolHeld s t.loc then .hold s else
        let st : PStore := ⟨t.loc, bs, BitVec.ofNat 64 a, false⟩
        .ok () (if rel && remoteLoc s t.loc then performRelease s c st else queueStore s c [st])

/-- Whether a fence or a suspension of a context must still wait for its shoal log (R261, R319). -/
def shoalDrained (s : State) (c : Nat) : Bool := (ownShoal s c).isEmpty

end Sys2Proof.Machine
end

