-- ==== Sys2Proof/Machine/Operands.lean ====
section
/-!
DEFINITION. Operand forms: the source fields of every instruction in field order (R79), how each is read on its side (R77–R82),
and where results go. The table `sources` follows the encodings of the instructions' entries.
-/

namespace Sys2Proof.Machine

/-- A source field: a scalar field with its trap-if-empty bit, a vector field with its, the `n` consecutive registers of STM, which are
read when their element is stored (R186), or a field that holds no captured value. -/
inductive SrcF where
  | g (f : BitVec 6) (te : Bool)
  | v (f : BitVec 5) (te : Bool)
  | run (f : BitVec 6) (n : Nat) (te : Bool)
  | skip
  deriving DecidableEq, Repr

/-- The source fields of an instruction in field order (R79, R461); the third source d of CMOV, FMA and BFI comes last (R163).
Fields that are read and written (vd of VFMA and others) are read when the instruction executes. -/
def sources : Instr → List SrcF
  | .add f => [.g f.a f.ta, .g f.b f.tb]
  | .adds f => [.g f.a f.ta, .g f.b f.tb]
  | .sub f => [.g f.a f.ta, .g f.b f.tb]
  | .subs f => [.g f.a f.ta, .g f.b f.tb]
  | .mul f => [.g f.a f.ta, .g f.b f.tb]
  | .mulh f => [.g f.a f.ta, .g f.b f.tb]
  | .mulhu f => [.g f.a f.ta, .g f.b f.tb]
  | .div f => [.g f.a f.ta, .g f.b f.tb]
  | .divu f => [.g f.a f.ta, .g f.b f.tb]
  | .rem f => [.g f.a f.ta, .g f.b f.tb]
  | .remu f => [.g f.a f.ta, .g f.b f.tb]
  | .and f => [.g f.a f.ta, .g f.b f.tb]
  | .or f => [.g f.a f.ta, .g f.b f.tb]
  | .xor f => [.g f.a f.ta, .g f.b f.tb]
  | .andn f => [.g f.a f.ta, .g f.b f.tb]
  | .shl f => [.g f.a f.ta, .g f.b f.tb]
  | .shr f => [.g f.a f.ta, .g f.b f.tb]
  | .sra f => [.g f.a f.ta, .g f.b f.tb]
  | .rol f => [.g f.a f.ta, .g f.b f.tb]
  | .min f => [.g f.a f.ta, .g f.b f.tb]
  | .minu f => [.g f.a f.ta, .g f.b f.tb]
  | .max f => [.g f.a f.ta, .g f.b f.tb]
  | .maxu f => [.g f.a f.ta, .g f.b f.tb]
  | .slt f => [.g f.a f.ta, .g f.b f.tb]
  | .sltu f => [.g f.a f.ta, .g f.b f.tb]
  | .seq f => [.g f.a f.ta, .g f.b f.tb]
  | .sne f => [.g f.a f.ta, .g f.b f.tb]
  | .cmov f => [.g f.a f.ta, .g f.b f.tb, .g f.d false]
  | .clz f => [.g f.a f.ta]
  | .ctz f => [.g f.a f.ta]
  | .popc f => [.g f.a f.ta]
  | .brev f => [.g f.a f.ta]
  | .sextB f => [.g f.a f.ta]
  | .sextH f => [.g f.a f.ta]
  | .sextW f => [.g f.a f.ta]
  | .zextB f => [.g f.a f.ta]
  | .zextH f => [.g f.a f.ta]
  | .zextW f => [.g f.a f.ta]
  | .abs f => [.g f.a f.ta]
  | .neg f => [.g f.a f.ta]
  | .addi f => [.g f.a f.ta]
  | .andi f => [.g f.a f.ta]
  | .ori f => [.g f.a f.ta]
  | .xori f => [.g f.a f.ta]
  | .shli f => [.g f.a f.ta]
  | .shri f => [.g f.a f.ta]
  | .srai f => [.g f.a f.ta]
  | .slti f => [.g f.a f.ta]
  | .sltiu f => [.g f.a f.ta]
  | .bfx f => [.g f.a f.ta]
  | .bfi f => [.g f.a f.ta, .g f.d false]
  | .lis f => [.g f.a f.ta]
  | .addl f => [.g f.a f.ta]
  | .fadd f => [.g f.a f.ta, .g f.b f.tb]
  | .fsub f => [.g f.a f.ta, .g f.b f.tb]
  | .fmul f => [.g f.a f.ta, .g f.b f.tb]
  | .fma f => [.g f.a f.ta, .g f.b f.tb, .g f.d false]
  | .fdiv f => [.g f.a f.ta, .g f.b f.tb]
  | .fmin f => [.g f.a f.ta, .g f.b f.tb]
  | .fmax f => [.g f.a f.ta, .g f.b f.tb]
  | .flt f => [.g f.a f.ta, .g f.b f.tb]
  | .fle f => [.g f.a f.ta, .g f.b f.tb]
  | .feq f => [.g f.a f.ta, .g f.b f.tb]
  | .fsqrt f => [.g f.a f.ta]
  | .fabs f => [.g f.a f.ta]
  | .fneg f => [.g f.a f.ta]
  | .fcvti f => [.g f.a f.ta]
  | .fcvtiz f => [.g f.a f.ta]
  | .fcvtf f => [.g f.a f.ta]
  | .fcvtfu f => [.g f.a f.ta]
  | .fclass f => [.g f.a f.ta]
  | .pfrom f => [.g (60#6 + f.n.setWidth 6) f.tq]
  | .fset f => [.g f.f f.tf, .g f.v f.tv]
  | .frd f => [.g f.f f.tf]
  | .bz f => [.g f.a f.ta]
  | .bnz f => [.g f.a f.ta]
  | .bltz f => [.g f.a f.ta]
  | .bgez f => [.g f.a f.ta]
  | .jl f => [.g f.a f.ta]
  | .loop f => [.g f.a f.ta]
  | .ld f => [.g f.b f.tb]
  | .ldu f => [.g f.b f.tb]
  | .st f => [.g f.t f.tt, .g f.b f.tb]
  | .lds f => [.g f.b f.tb]
  | .sts f => [.g f.t f.tt, .g f.b f.tb]
  | .lda f => [.g f.b f.tb]
  | .stl f => [.g f.t f.tt, .g f.b f.tb]
  | .aadd f => [.g f.t f.tt, .g f.b f.tb]
  | .aand f => [.g f.t f.tt, .g f.b f.tb]
  | .aor f => [.g f.t f.tt, .g f.b f.tb]
  | .axor f => [.g f.t f.tt, .g f.b f.tb]
  | .amin f => [.g f.t f.tt, .g f.b f.tb]
  | .amax f => [.g f.t f.tt, .g f.b f.tb]
  | .aminu f => [.g f.t f.tt, .g f.b f.tb]
  | .amaxu f => [.g f.t f.tt, .g f.b f.tb]
  | .aswp f => [.g f.t f.tt, .g f.b f.tb]
  | .acas f => [.g f.t f.tt, .g f.b f.tb, .g f.c f.tc]
  | .afadd f => [.g f.t f.tt, .g f.b f.tb]
  | .waita f => [.g f.t f.tt, .g f.b f.tb, .g f.o f.te]
  | .ldm f => [.g f.b f.tb]
  | .stm f => [.run f.t (f.m.toNat + 1) f.tt, .g f.b f.tb]
  | .cvta f => [.g f.a f.ta, .g f.b f.tb]
  | .aspc f => [.g f.a f.ta, .g f.b f.tb]
  | .finc f => [.g f.f f.tf, .g f.v f.tv]
  | .fwait f => [.g f.f f.tf, .g f.v f.tv]
  | .vadd f => [.v f.va f.ta, .v f.vb f.tb]
  | .vsub f => [.v f.va f.ta, .v f.vb f.tb]
  | .vmul f => [.v f.va f.ta, .v f.vb f.tb]
  | .vfma f => [.v f.va f.ta, .v f.vb f.tb]
  | .vfnma f => [.v f.va f.ta, .v f.vb f.tb]
  | .vmin f => [.v f.va f.ta, .v f.vb f.tb]
  | .vmax f => [.v f.va f.ta, .v f.vb f.tb]
  | .vcmp f => [.v f.va f.ta, .v f.vb f.tb]
  | .vsel f => [.v f.va f.ta, .v f.vb f.tb]
  | .vbcast f => [.g f.s f.ts]
  | .vmov f => [.v f.va f.ta]
  | .vld f => [.g f.b f.tb]
  | .vst f => [.v f.q false, .g f.b f.tb]
  | .vldg f => [.v f.q false, .g f.b f.tb]
  | .vsts f => [.v f.q false, .v f.q false, .g f.b f.tb]
  | .vred f => [.v f.va f.ta]
  | .vperm f => [.v f.va f.ta, .v f.vb f.tb]
  | .vand f => [.v f.va f.ta, .v f.vb f.tb]
  | .vor f => [.v f.va f.ta, .v f.vb f.tb]
  | .vxor f => [.v f.va f.ta, .v f.vb f.tb]
  | .vnot f => [.v f.va f.ta]
  | .vshl f => if f.x then [.v f.va f.ta] else [.v f.va f.ta, .v f.vb f.tb]
  | .vshr f => if f.x then [.v f.va f.ta] else [.v f.va f.ta, .v f.vb f.tb]
  | .vsra f => if f.x then [.v f.va f.ta] else [.v f.va f.ta, .v f.vb f.tb]
  | .vabs f => [.v f.va f.ta]
  | .vneg f => [.v f.va f.ta]
  | .vdiv f => [.v f.va f.ta, .v f.vb f.tb]
  | .vsqrt f => [.v f.va f.ta]
  | .vrcp f => [.v f.va f.ta]
  | .vrsqrt f => [.v f.va f.ta]
  | .vexp2 f => [.v f.va f.ta]
  | .vlog2 f => [.v f.va f.ta]
  | .vsinpi f => [.v f.va f.ta]
  | .vcospi f => [.v f.va f.ta]
  | .vtanh f => [.v f.va f.ta]
  | .vcvt f => [.v f.va f.ta]
  | .vquant f => [.v f.va f.ta]
  | .vdeq f => [.v f.va f.ta, .v f.vb f.tb]
  | .vpack f => [.v f.va f.ta]
  | .vunpk f => [.v f.va f.ta]
  | .vslide f => [.v f.va f.ta, .v f.vb f.tb]
  | .vextr f => [.v f.va f.ta]
  | .vins f => [.g f.s f.ts]
  | .vscan f => [.v f.va f.ta]
  | .vclass f => [.v f.va f.ta]
  | .mlease f => [.g f.b f.tb]
  | .mma f => [.g f.ga f.ta, .g f.gb f.tb, .g f.gs f.ts, .g f.gsa f.tsa, .g f.gsb f.tsb]
  | .mmaq f => [.g f.ga f.ta, .g f.gb f.tb, .g f.gs f.ts, .g f.gsa f.tsa, .g f.gsb f.tsb]
  | .mmv f => [.g f.ga f.ta, .g f.gb f.tb, .g f.gs f.ts, .g f.gsa f.tsa, .g f.gsb f.tsb]
  | .mdrain f => [.g f.gt f.tt, .g f.gs f.ts]
  | .mldacc f => [.g f.gt f.tt, .g f.gs f.ts]
  | .cpy f => [.g f.gd f.td, .g f.gs f.ts, .g f.gn f.tn]
  | .cpyg f => [.g f.c.gd f.c.td, .g f.c.gs f.c.ts, .g f.c.gn f.c.tn, .g f.gi f.ti, .g f.gc f.tc]
  | .cpys f => [.g f.c.gd f.c.td, .g f.c.gs f.c.ts, .g f.c.gn f.c.tn, .g f.gi f.ti, .g f.gc f.tc]
  | .cpyr f => [.g f.c.gd f.c.td, .g f.c.gs f.c.ts, .g f.c.gn f.c.tn]
  | .cfill f => [.g f.gv f.tv, .g f.gd f.td, .g f.gn f.tn]
  | .chbind f => [.g f.go f.te, .g f.gl f.tl]
  | .chrd f => [.g f.gp f.tp]
  | .xst f => [.g f.gd f.td, .g f.gs f.ts, .g f.gf f.tf, .g f.gn f.tn]
  | .xld f => [.g f.gd f.td, .g f.gs f.ts, .g f.gn f.tn]
  | .xamo f => [.g f.go f.te, .g f.gv f.tv, .g f.gc f.tc, .g f.gp f.tp]
  | .car f => [.g f.gd f.td, .g f.gs f.ts, .g f.gn f.tn, .g f.groot f.troot]
  | .cag f => [.g f.gd f.td, .g f.gs f.ts, .g f.gn f.tn, .g f.groot f.troot]
  | .crs f => [.g f.gd f.td, .g f.gs f.ts, .g f.gn f.tn, .g f.groot f.troot]
  | .ca2a f => [.g f.gd f.td, .g f.gs f.ts, .g f.gn f.tn, .g f.groot f.troot]
  | .cbc f => [.g f.gd f.td, .g f.gs f.ts, .g f.gn f.tn, .g f.groot f.troot]
  | .cbar f => [.g f.gn f.tn]
  | .nsend f => [.g f.gp f.tp, .g f.gs f.ts, .g f.gt f.tt, .g f.gn f.tn]
  | .nrecv f => [.g f.gp f.tp, .g f.gd f.td, .g f.gt f.tt, .g f.gn f.tn, .g f.gm f.tm]
  | .nwrite f => [.g f.gp f.tp, .g f.gl f.tl, .g f.gr f.tr, .g f.gn f.tn]
  | .nread f => [.g f.gp f.tp, .g f.gl f.tl, .g f.gr f.tr, .g f.gn f.tn]
  | .opadopt f => [.g f.a f.ta]
  | .kspawn f => [.g f.w f.tw]
  | .krange f => [.g f.a f.ta, .g f.b f.tb]
  | .hld f => [.g f.b f.tb]
  | .hst f => [.g f.b f.tb]
  | .hnarrow f => [.g f.go f.te, .g f.gl f.tl]
  | .hchk f => [.g f.a false]
  | .hreq f => [.g f.a false]
  | .csrw f => [.g f.a false]
  | .csrx f => [.g f.a f.ta]
  | .pmcrd f => [.g f.a f.ta]
  | _ => []

/-- The ring nibble of an instruction (R61); the steps of other agents have none. -/
def ringOf : Instr → Ring
  | .add f => f.ring
  | .adds f => f.ring
  | .sub f => f.ring
  | .subs f => f.ring
  | .mul f => f.ring
  | .mulh f => f.ring
  | .mulhu f => f.ring
  | .div f => f.ring
  | .divu f => f.ring
  | .rem f => f.ring
  | .remu f => f.ring
  | .and f => f.ring
  | .or f => f.ring
  | .xor f => f.ring
  | .andn f => f.ring
  | .shl f => f.ring
  | .shr f => f.ring
  | .sra f => f.ring
  | .rol f => f.ring
  | .min f => f.ring
  | .minu f => f.ring
  | .max f => f.ring
  | .maxu f => f.ring
  | .slt f => f.ring
  | .sltu f => f.ring
  | .seq f => f.ring
  | .sne f => f.ring
  | .cmov f => f.ring
  | .clz f => f.ring
  | .ctz f => f.ring
  | .popc f => f.ring
  | .brev f => f.ring
  | .sextB f => f.ring
  | .sextH f => f.ring
  | .sextW f => f.ring
  | .zextB f => f.ring
  | .zextH f => f.ring
  | .zextW f => f.ring
  | .abs f => f.ring
  | .neg f => f.ring
  | .addi f => f.ring
  | .andi f => f.ring
  | .ori f => f.ring
  | .xori f => f.ring
  | .shli f => f.ring
  | .shri f => f.ring
  | .srai f => f.ring
  | .slti f => f.ring
  | .sltiu f => f.ring
  | .bfx f => f.ring
  | .bfi f => f.ring
  | .li f => f.ring
  | .lis f => f.ring
  | .addl f => f.ring
  | .fadd f => f.ring
  | .fsub f => f.ring
  | .fmul f => f.ring
  | .fma f => f.ring
  | .fdiv f => f.ring
  | .fmin f => f.ring
  | .fmax f => f.ring
  | .flt f => f.ring
  | .fle f => f.ring
  | .feq f => f.ring
  | .fsqrt f => f.ring
  | .fabs f => f.ring
  | .fneg f => f.ring
  | .fcvti f => f.ring
  | .fcvtiz f => f.ring
  | .fcvtf f => f.ring
  | .fcvtfu f => f.ring
  | .fclass f => f.ring
  | .pand f => f.ring
  | .por f => f.ring
  | .pxor f => f.ring
  | .pnot f => f.ring
  | .pfrom f => f.ring
  | .pto f => f.ring
  | .fset f => f.ring
  | .frd f => f.ring
  | .br f => f.ring
  | .bz f => f.ring
  | .bnz f => f.ring
  | .bltz f => f.ring
  | .bgez f => f.ring
  | .jl f => f.ring
  | .brl f => f.ring
  | .loop f => f.ring
  | .loopi f => f.ring
  | .trap f => f.ring
  | .svc f => f.ring
  | .ld f => f.ring
  | .ldu f => f.ring
  | .st f => f.ring
  | .lds f => f.ring
  | .sts f => f.ring
  | .lda f => f.ring
  | .stl f => f.ring
  | .aadd f => f.ring
  | .aand f => f.ring
  | .aor f => f.ring
  | .axor f => f.ring
  | .amin f => f.ring
  | .amax f => f.ring
  | .aminu f => f.ring
  | .amaxu f => f.ring
  | .aswp f => f.ring
  | .acas f => f.ring
  | .afadd f => f.ring
  | .waita f => f.ring
  | .fenceFull f => f.ring
  | .fenceAcq f => f.ring
  | .fenceRel f => f.ring
  | .fenceShoal f => f.ring
  | .fenceIo f => f.ring
  | .ldm f => f.ring
  | .stm f => f.ring
  | .cvta f => f.ring
  | .aspc f => f.ring
  | .finc f => f.ring
  | .fwait f => f.ring
  | .vadd f => f.ring
  | .vsub f => f.ring
  | .vmul f => f.ring
  | .vfma f => f.ring
  | .vfnma f => f.ring
  | .vmin f => f.ring
  | .vmax f => f.ring
  | .vcmp f => f.ring
  | .vsel f => f.ring
  | .vbcast f => f.ring
  | .vmov f => f.ring
  | .vld f => f.ring
  | .vst f => f.ring
  | .vldg f => f.ring
  | .vsts f => f.ring
  | .vred f => f.ring
  | .vsett f => f.ring
  | .vperm f => f.ring
  | .vand f => f.ring
  | .vor f => f.ring
  | .vxor f => f.ring
  | .vnot f => f.ring
  | .vshl f => f.ring
  | .vshr f => f.ring
  | .vsra f => f.ring
  | .vabs f => f.ring
  | .vneg f => f.ring
  | .vdiv f => f.ring
  | .vsqrt f => f.ring
  | .vrcp f => f.ring
  | .vrsqrt f => f.ring
  | .vexp2 f => f.ring
  | .vlog2 f => f.ring
  | .vsinpi f => f.ring
  | .vcospi f => f.ring
  | .vtanh f => f.ring
  | .vcvt f => f.ring
  | .vquant f => f.ring
  | .vdeq f => f.ring
  | .vpack f => f.ring
  | .vunpk f => f.ring
  | .vslide f => f.ring
  | .vextr f => f.ring
  | .vins f => f.ring
  | .viota f => f.ring
  | .vscan f => f.ring
  | .vclass f => f.ring
  | .mlease f => f.ring
  | .mrel f => f.ring
  | .mma f => f.ring
  | .mmaq f => f.ring
  | .mmv f => f.ring
  | .mzero f => f.ring
  | .mdrain f => f.ring
  | .mldacc f => f.ring
  | .cpy f => f.ring
  | .cpyg f => f.c.ring
  | .cpys f => f.c.ring
  | .cpyr f => f.c.ring
  | .cfill f => f.ring
  | .chbind f => f.ring
  | .chrd f => f.ring
  | .chunb f => f.ring
  | .pkset f => f.ring
  | .xst f => f.ring
  | .xld f => f.ring
  | .xamo f => f.ring
  | .car f => f.ring
  | .cag f => f.ring
  | .crs f => f.ring
  | .ca2a f => f.ring
  | .cbc f => f.ring
  | .cbar f => f.ring
  | .nsend f => f.ring
  | .nrecv f => f.ring
  | .nwrite f => f.ring
  | .nread f => f.ring
  | .opwait f => f.ring
  | .optest f => f.ring
  | .opcancel f => f.ring
  | .opdetach f => f.ring
  | .opadopt f => f.ring
  | .oppri f => f.ring
  | .opfault f => f.ring
  | .oprel f => f.ring
  | .kdone f => f.ring
  | .kyield f => f.ring
  | .kspawn f => f.ring
  | .krange f => f.ring
  | .knext f => f.ring
  | .widf f => f.ring
  | .depdec f => f.ring
  | .nextok f => f.ring
  | .prevwait f => f.ring
  | .bar f => f.ring
  | .hld f => f.ring
  | .hst f => f.ring
  | .hnarrow f => f.ring
  | .hinfo f => f.ring
  | .hchk f => f.ring
  | .hdrop f => f.ring
  | .hreq f => f.ring
  | .csrr f => f.ring
  | .csrw f => f.ring
  | .csrx f => f.ring
  | .pmcrd f => f.ring
  | .timerd f => f.ring
  | _ => ⟨false, false, false, false⟩

/-- Reading one source: its value and the context after the pop, nothing that is captured, a wait, or a trap (R81). -/
inductive Got where
  | ok (v : Src) (x : Context)
  | pass
  | wait (queue : Bool)
  | trap (c : Cause)
  deriving DecidableEq, Repr

/-- A scalar register's value; g0 reads zero (R77, R82). -/
def Context.gval (x : Context) (r : Nat) : Word := if r = 0 then 0 else vecGet x.g r 0

/-- Whether scalar register r is full; g0 always is (R81). -/
def Context.gfull (x : Context) (r : Nat) : Bool := r = 0 || !x.gEmpty.getLsbD r

def Context.vval (x : Context) (r : Nat) : Vec := vecGet x.v r 0

def Context.vfull (x : Context) (r : Nat) : Bool := !x.vEmpty.getLsbD r

/-- A predicate register; p0 reads all ones (R170). -/
def Context.pval (x : Context) (r : Nat) : Pred := if r = 0 then BitVec.allOnes 256 else vecGet x.p r 0

/-- Pops a scalar queue: access-to-execute on the execute side, execute-to-access on the access side (R78). -/
def popS (exec : Bool) (x : Context) (n : Nat) : Option (Word × Context) :=
  if exec then
    match vecGet x.sAE n [] with
    | [] => none
    | w :: t => some (w, { x with sAE := vecSet x.sAE n t })
  else
    match vecGet x.sEA n [] with
    | [] => none
    | w :: t => some (w, { x with sEA := vecSet x.sEA n t })

/-- Pops a vector queue (R78). -/
def popV (exec : Bool) (x : Context) (n : Nat) : Option (Vec × Context) :=
  if exec then
    match vecGet x.vAE n [] with
    | [] => none
    | w :: t => some (w, { x with vAE := vecSet x.vAE n t })
  else
    match vecGet x.vEA n [] with
    | [] => none
    | w :: t => some (w, { x with vEA := vecSet x.vEA n t })

/-- How many VMOVs have still to take an entry of access-to-execute vector queue `n` (R195). -/
def takesOf (x : Context) (n : Nat) : Nat :=
  ((x.wbs.flatMap Writeback.dsts).filter (fun d => match d with
    | .take _ m _ _ _ _ => m = n
    | _ => false)).length

/-- Pops a vector queue in program order: the entries that earlier VMOVs have still to take come before (R195). -/
def popVNext (exec : Bool) (x : Context) (n : Nat) : Option (Vec × Context) :=
  if exec && takesOf x n ≠ 0 then none else popV exec x n

/-- Whether a vector queue has no entry beyond those that earlier VMOVs take. -/
def dryV (exec : Bool) (x : Context) (n : Nat) : Bool :=
  !exec || (vecGet x.vAE n []).length ≤ takesOf x n

/-- Reads one source field on its side (R78, R81). -/
def readSrc (exec : Bool) (x : Context) : SrcF → Got
  | .g f te =>
    let r := f.toNat
    if r < 60 then
      if x.gfull r then .ok (.s (x.gval r)) x else if te then .trap 0x008 else .wait false
    else match popS exec x (r - 60) with
      | some (w, x) => .ok (.s w) x
      | none => if te then .trap 0x009 else .wait true
  | .v f te =>
    let r := f.toNat
    if r < 28 then
      if x.vfull r then .ok (.v (x.vval r)) x else if te then .trap 0x008 else .wait false
    else match popVNext exec x (r - 28) with
      | some (w, x) => .ok (.v w) x
      | none => if te && dryV exec x (r - 28) then .trap 0x009 else .wait true
  | .run f n te =>
    if (List.range n).all (fun i => x.gfull (f.toNat + i)) then .pass else if te then .trap 0x008 else .wait false
  | .skip => .wait false

/-- Whether a source is read where the access side passes an M instruction: its g registers (R83). -/
def SrcF.early : SrcF → Bool
  | .g f _ => f.toNat < 60
  | _ => false

/-- How reading the sources ends. -/
inductive Cap where
  | ok
  | wait (queue : Bool)
  | trap (c : Cause)
  deriving DecidableEq, Repr

/-- Reads the sources in field order from the first that is not captured yet (R79, R461). `pass` reads only what the access side
forwards (R83). What has been read stays captured when a later source waits or traps. -/
def capture (exec pass : Bool) : List SrcF → List (Option Src) → Context → List (Option Src) × Context × Cap
  | [], _, x => ([], x, .ok)
  | f :: fs, caps, x =>
    match caps.headD none with
    | some v =>
      let (r, x, o) := capture exec pass fs caps.tail x
      (some v :: r, x, o)
    | none =>
      if f = .skip || (pass && !f.early) then
        let (r, x, o) := capture exec pass fs caps.tail x
        (none :: r, x, o)
      else
        match readSrc exec x f with
        | .ok v x =>
          let (r, x, o) := capture exec pass fs caps.tail x
          (some v :: r, x, o)
        | .pass =>
          let (r, x, o) := capture exec pass fs caps.tail x
          (none :: r, x, o)
        | .wait q => (none :: caps.tail, x, .wait q)
        | .trap c => (none :: caps.tail, x, .trap c)

/-- The j-th captured scalar, as the value of the j-th source field. -/
def srcS (caps : List (Option Src)) (j : Nat) : Word :=
  match caps.getD j none with
  | some (.s w) => w
  | _ => 0

/-- The j-th captured vector. -/
def srcV (caps : List (Option Src)) (j : Nat) : Vec :=
  match caps.getD j none with
  | some (.v x) => x
  | _ => 0

/-- Entries that a scalar queue holds (R78, R461). -/
def scalarRoom : Nat := 32

/-- Entries that a vector queue holds. -/
def vectorRoom : Nat := 8

/-- Whether some long-latency push to a scalar queue of that side is outstanding (R159). -/
def pendingQs (x : Context) (exec : Bool) (n : Nat) : Bool :=
  x.wbs.any (fun w => w.exec = exec && w.dsts.any (fun d => match d with
    | .qs m _ => m = n
    | _ => false))

/-- Whether some long-latency push to a vector queue of that side is outstanding. -/
def pendingQv (x : Context) (exec : Bool) (n : Nat) : Bool :=
  x.wbs.any (fun w => w.exec = exec && w.dsts.any (fun d => match d with
    | .qv m _ => m = n
    | .take vd _ _ _ _ _ => vd = n + 28
    | _ => false))

/-- Entries of a scalar queue and the long-latency pushes of its side that have still to join them. -/
def loadS (x : Context) (exec : Bool) (n : Nat) : Nat :=
  (vecGet (if exec then x.sEA else x.sAE) n []).length +
    ((x.wbs.filter (fun w => w.exec = exec)).flatMap Writeback.dsts).countP (fun d => match d with
      | .qs m _ => m = n
      | _ => false)

/-- Entries of a vector queue and the long-latency pushes of its side that have still to join them. -/
def loadV (x : Context) (exec : Bool) (n : Nat) : Nat :=
  (vecGet (if exec then x.vEA else x.vAE) n []).length +
    ((x.wbs.filter (fun w => w.exec = exec)).flatMap Writeback.dsts).countP (fun d => match d with
      | .qv m _ => m = n
      | .take vd _ _ _ _ _ => vd = n + 28
      | _ => false)

/-- Pushes a scalar queue: access-to-execute on the access side, execute-to-access on the execute side; none while it is full
(R78). -/
def pushS (exec : Bool) (x : Context) (n : Nat) (w : Word) : Option Context :=
  if exec then
    let q := vecGet x.sEA n []
    if q.length < scalarRoom then some { x with sEA := vecSet x.sEA n (q ++ [w]) } else none
  else
    let q := vecGet x.sAE n []
    if q.length < scalarRoom then some { x with sAE := vecSet x.sAE n (q ++ [w]) } else none

/-- Pushes a vector queue. -/
def pushV (exec : Bool) (x : Context) (n : Nat) (w : Vec) : Option Context :=
  if exec then
    let q := vecGet x.vEA n []
    if q.length < vectorRoom then some { x with vEA := vecSet x.vEA n (q ++ [w]) } else none
  else
    let q := vecGet x.vAE n []
    if q.length < vectorRoom then some { x with vAE := vecSet x.vAE n (q ++ [w]) } else none

/-- Writes a scalar register; a write of g0 is discarded (R82). -/
def Context.setG (x : Context) (r : Nat) (w : Word) : Context := if r = 0 then x else { x with g := vecSet x.g r w }

def Context.setV (x : Context) (r : Nat) (w : Vec) : Context := { x with v := vecSet x.v r w }

/-- Writes a predicate register; p0 is never a destination (R72). -/
def Context.setP (x : Context) (r : Nat) (w : Pred) : Context := if r = 0 then x else { x with p := vecSet x.p r w }

/-- Marks a scalar register empty or full; g0 stays full (R82). -/
def Context.markG (x : Context) (r : Nat) (empty : Bool) : Context :=
  if r = 0 then x else { x with gEmpty := if empty then x.gEmpty ||| (1#64 <<< r) else x.gEmpty &&& ~~~(1#64 <<< r) }

/-- Marks a vector register empty or full. -/
def Context.markV (x : Context) (r : Nat) (empty : Bool) : Context :=
  { x with vEmpty := if empty then x.vEmpty ||| (1#32 <<< r) else x.vEmpty &&& ~~~(1#32 <<< r) }

/-- A result written to a scalar destination at once: a register that no earlier producer still owes, or a queue with room and
no outstanding long-latency push (R78, R82, R159); none while it waits. The flag says that it waits on a queue. -/
def writeDst (x : Context) (d : BitVec 6) (w : Word) : Except Bool Context :=
  let r := d.toNat
  if r < 60 then if x.gfull r then .ok (x.setG r w) else .error false
  else if pendingQs x false (r - 60) then .error true
  else match pushS false x (r - 60) w with
    | some x => .ok x
    | none => .error true

/-- A result written to a vector destination by the execute side. -/
def writeVDst (x : Context) (vd : BitVec 5) (w : Vec) : Except Bool Context :=
  let r := vd.toNat
  if r < 28 then if x.vfull r then .ok (x.setV r w) else .error false
  else if pendingQv x true (r - 28) then .error true
  else match pushV true x (r - 28) w with
    | some x => .ok x
    | none => .error true

end Sys2Proof.Machine
end

