-- ==== Sys2Proof/Machine/HandleReg.lean ====
section
/-!
DEFINITION. Sealed handles as bits: their fields (R422, R423), seals (R424), the check of a load into an h register (R428) and
the checks of a use (R429).
-/

namespace Sys2Proof.Machine

def hBase (h : BitVec 256) : Word := h.extractLsb' 0 64
def hExtent (h : BitVec 256) : Nat := (h.extractLsb' 64 48).toNat
def hRights (h : BitVec 256) : BitVec 8 := h.extractLsb' 112 8
def hKind (h : BitVec 256) : Nat := (h.extractLsb' 120 8).toNat
def hTenant (h : BitVec 256) : Nat := (h.extractLsb' 128 16).toNat
def hPart (h : BitVec 256) : Nat := (h.extractLsb' 144 8).toNat
def hSlot (h : BitVec 256) : Nat := (h.extractLsb' 152 20).toNat
def hGen (h : BitVec 256) : Nat := (h.extractLsb' 172 20).toNat
def hSeal (h : BitVec 256) : Word := h.extractLsb' 192 64

/-- Rights masks by the bits of R423. -/
def rightR : BitVec 8 := 0x01
def rightW : BitVec 8 := 0x02
def rightM : BitVec 8 := 0x04
def rightX : BitVec 8 := 0x08
def rightN : BitVec 8 := 0x10
def rightF : BitVec 8 := 0x20
def rightG : BitVec 8 := 0x40
def rightP : BitVec 8 := 0x80

/-- The seal of bits [191:0] under the key that the handle's partition holds for its tenant (R424). -/
def sealFor (s : State) (body : BitVec 192) : Word :=
  let part := (body.extractLsb' 144 8).toNat
  let tenant := (body.extractLsb' 128 16).toNat
  let key := Config.sealKey part tenant (tabGet 0 (spaceOf part tenant) s.sealKeys)
  leWord 64 (kmac128 (leBytes 32 key.toNat) (leBytes 24 body.toNat) 8 "IZL-SEAL")

/-- A handle with the seal of its body (R424). -/
def sealed (s : State) (body : BitVec 192) : BitVec 256 := sealFor s body ++ body

/-- The body of a handle from its fields (R422). -/
def handleBody (gen slot part tenant kind : Nat) (rights : BitVec 8) (extent : Nat) (base : Word) : BitVec 192 :=
  BitVec.ofNat 20 gen ++ BitVec.ofNat 20 slot ++ BitVec.ofNat 8 part ++ BitVec.ofNat 16 tenant ++ BitVec.ofNat 8 kind ++ rights ++
    BitVec.ofNat 48 extent ++ base

/-- Whether a handle's seal is valid; the zero handle's is not (R424, R428). -/
def sealValid (s : State) (h : BitVec 256) : Bool := h != 0 && hSeal h = sealFor s (h.extractLsb' 0 192)

/-- A load into an h register by a job of address space `space`: the bits and the status they get (R428). -/
def loadHandle (s : State) (space : Nat) (h : BitVec 256) : HReg :=
  ⟨h, if !sealValid s h then 0x200 else if spaceOf (hPart h) (hTenant h) = space then 0 else 0x202⟩

/-- A free bit of the model's Config, and the state with the count taken. -/
def takeBit (s : State) : Bool × State :=
  let (n, s) := takeFresh s
  (Config.freeBit n, s)

/-- The key of a tenant's allocation slot in the allocation tables (R427). -/
def slotKey (space slot : Nat) : Nat := space * 2 ^ 20 + slot

/-- The pool slot of a cluster (R427). -/
def poolSlot (cl : Nat) : Nat := 0x10 + cl

/-- Whether a cluster's pool slot has passed its last generation: it is retired (R427). -/
def slotSpent (c : Cluster) : Bool := 2 ^ 20 ≤ c.slotGen

/-- The current generation of a slot: a pool slot's belongs to its cluster, every other slot's to the tenant (R427, R445). -/
def slotGen (s : State) (space slot : Nat) : Nat :=
  if 0x10 ≤ slot && slot < 0x40 then (getCluster s (slot - 0x10)).slotGen else (tabGet {} (slotKey space slot) s.slots).gen

/-- Steps 1 to 4 of R429 on a register for a job of address space `space`: the first failing cause, or 0. -/
def handleCheck (s : State) (space : Nat) (h : HReg) (rights : BitVec 8) : Cause :=
  if h.status ≠ 0 then h.status
  else if !sealValid s h.bits then 0x200
  else if hGen h.bits ≠ slotGen s (spaceOf (hPart h.bits) (hTenant h.bits)) (hSlot h.bits) then 0x201
  else if spaceOf (hPart h.bits) (hTenant h.bits) ≠ space then 0x202
  else if hRights h.bits &&& rights ≠ rights then 0x203
  else 0

/-- The fault record's location of a handle cause: slot in [51:32] and register number in [4:0] (R429). -/
def handleWhere (h : HReg) (reg : Nat) : Word := BitVec.ofNat 64 (hSlot h.bits * 2 ^ 32 + reg)

end Sys2Proof.Machine
end

