-- ==== Sys2Proof/Machine/Frame.lean ====
section
/-!
DEFINITION. The trap frame in memory (R461): a context's state as its 61,952 bytes, and the state that ERET reloads from them
(R462).
-/

namespace Sys2Proof.Machine

/-- Bytes of the frame (R456). -/
def frameLen : Nat := 61952

/-- Segments (offset, bytes) in ascending order laid out from `pos` up to `total`, unlisted bytes zero. -/
def laySegs (pos total : Nat) : List (Nat × List Byte) → List Byte
  | [] => List.replicate (total - pos) 0
  | (o, bs) :: t => List.replicate (o - pos) 0 ++ bs ++ laySegs (o + bs.length) total t

/-- The captured scalars of an entry in field order. -/
def entryScalars (e : Entry) : List Word :=
  e.caps.filterMap (fun c => match c with
    | some (.s w) => some w
    | _ => none)

/-- The captured vectors of an entry in field order. -/
def entryVectors (e : Entry) : List Vec :=
  e.caps.filterMap (fun c => match c with
    | some (.v x) => some x
    | _ => none)

/-- The replay vector slots of an entry: its popped vectors, or its scalars beyond the fourth (R461). -/
def entrySlots (e : Entry) : List (List Byte) :=
  match e.raw with
  | some (_, _, _, slots) => slots
  | none =>
    let upon := (entryScalars e).drop 4
    (entryVectors e).map vecBytes ++
      (if upon.isEmpty then [] else [(upon.flatMap (wordBytes 8) ++ List.replicate 256 0).take 256])

/-- The replay descriptor of an entry whose slots start at `vs` (R461). One that came from a frame undecoded keeps its own, but for the
place of its slots (R462). -/
def entryDesc (e : Entry) (vs : Nat) : Nat :=
  let n := (entrySlots e).length
  match e.raw with
  | some (d, _, _, _) => if n = 0 then d else d - bitsOf d 56 5 * 2 ^ 56 + vs % 32 * 2 ^ 56
  | none =>
  e.pc.toNat + (if e.exec then 2 ^ 48 else 0) + (if e.cont then 2 ^ 50 else 0) + (e.prog % 32) * 2 ^ 51 +
    (if 1 ≤ n then vs * 2 ^ 56 + 2 ^ 61 else 0) + (if 2 ≤ n then 2 ^ 62 else 0)

/-- The source mask of an entry: bit j for the j-th source field (R461). -/
def entryMask (e : Entry) : Nat :=
  match e.raw with
  | some (_, m, _, _) => m
  | none => (List.range 32).foldl (fun m j => if (e.caps.getD j none).isSome then m + 2 ^ j else m) 0

/-- The words of an entry, WP and WN cleared when its waits were consumed (R461). -/
def entryWords (e : Entry) : List IWord :=
  match e.words with
  | [] => []
  | w :: t => (if e.waited then w &&& 0x3FFFFFFF else w) :: t

/-- The 48 bytes of a replay entry. -/
def entryBytes (e : Entry) : List Byte :=
  match e.raw with
  | some (_, _, bs, _) => bs
  | none =>
  let ws := (entryWords e).flatMap (fun w => leBytes 4 w.toNat)
  let ss := ((entryScalars e).take 4).flatMap (wordBytes 8)
  (ws ++ List.replicate 16 0).take 16 ++ (ss ++ List.replicate 32 0).take 32

/-- The first replay vector slot of each entry, from `vs`. -/
def slotStarts (vs : Nat) : List Entry → List Nat
  | [] => []
  | e :: t => vs :: slotStarts (vs + (entrySlots e).length) t

/-- A shoal-log entry in the frame (R461). -/
def shoalBytes (e : Shoal) : List Byte :=
  let (kind, op) := match e.red with
    | none => (0, 0)
    | some (op, dbl) => (1, op.toNat + (if dbl then 48 else 32))
  let data := match e.red with
    | none => e.bytes
    | some _ => wordBytes 8 e.v ++ wordBytes 8 e.cmp
  wordBytes 8 e.va ++ leBytes 2 e.bytes.length ++ [BitVec.ofNat 8 kind, BitVec.ofNat 8 op,
    BitVec.ofNat 8 (e.scope.toNat + 4 * e.order.toNat), 0] ++ leBytes 2 (if e.refused then e.cause.toNat else 0) ++
    List.replicate 48 0 ++ (data ++ List.replicate 256 0).take 256

/-- The state of lane `i`: the one listed, or the one that SEED loaded (R131). -/
def Context.lane (x : Context) (i : Nat) : BitVec 32 := tabGet (seedLane (x.seed.setWidth 32) i) i x.lanes

/-- A queue's entries padded to its capacity. -/
def padEntries (n size : Nat) (l : List (List Byte)) : List Byte :=
  let bs := l.flatten
  bs ++ List.replicate (n * size - bs.length) 0

/-- The frame of a context (R461): cause, EPC, FPC and FADDR, its replay entries, its shoal entries, and the refusal bit. -/
def frameBytes (x : Context) (cause epc fpc faddr : Word) (ents : List Entry) (shoal : List Shoal) (refusal : Bool) : List Byte :=
  let vecL {α : Type} {n : Nat} (v : Vector α n) : List α := v.toList
  let counts := ents.length + shoal.length * 256 + x.loops.length * 65536 + (if refusal then 2 ^ 24 else 0)
  laySegs 0 frameLen
    [ (0x0000, wordBytes 8 cause ++ wordBytes 8 epc ++ wordBytes 8 fpc ++ wordBytes 8 faddr ++ leBytes 8 counts),
      (0x0028, vecL x.ring),
      (0x0030, ((vecL x.sAE).map List.length ++ (vecL x.sEA).map List.length ++ (vecL x.vAE).map List.length ++
        (vecL x.vEA).map List.length).map (BitVec.ofNat 8)),
      (0x0040, x.loops.reverse.flatMap (fun l => wordBytes 8 l.start ++ wordBytes 8 l.stop ++ wordBytes 8 l.count)),
      (0x0100, (vecL x.g).flatMap (wordBytes 8)),
      (0x02E0, leBytes 8 (~~~(x.gEmpty.setWidth 60)).toNat ++ leBytes 8 (~~~(x.vEmpty.setWidth 28)).toNat),
      (0x0300, [x.vtype, x.fstat, x.seed, x.localw, x.clustw, x.sharedw, x.pkbase].flatMap (wordBytes 8)),
      (0x0400, (List.range 256).flatMap (fun i => leBytes 4 (x.lane i).toNat)),
      (0x0800, (List.range 8).flatMap (fun i => leBytes 32 (x.pval i).toNat)),
      (0x0900, (vecL x.y).flatMap (fun v => leBytes 32 v.toNat)),
      (0x0A00, (vecL x.k).flatMap (fun v => leBytes 2 v.toNat)),
      (0x0A20, (vecL x.h).flatMap (fun v => leBytes 2 v.status.toNat)),
      (0x0A80, (vecL x.h).flatMap (fun v => leBytes 32 v.bits.toNat)),
      (0x0E80, ((ents.zip (slotStarts 0 ents)).flatMap (fun e => leBytes 8 (entryDesc e.1 e.2)))),
      (0x0F80, ents.flatMap (fun e => leBytes 4 (entryMask e))),
      (0x1000, ents.flatMap entryBytes),
      (0x1600, ((vecL x.sAE) ++ (vecL x.sEA)).flatMap (fun q => padEntries 32 8 (q.map (wordBytes 8)))),
      (0x2000, (vecL x.v).flatMap vecBytes),
      (0x3C00, ((vecL x.vAE) ++ (vecL x.vEA)).flatMap (fun q => padEntries 8 256 (q.map vecBytes))),
      (0x7C00, ((ents.flatMap entrySlots).take 32).flatten),
      (0x9C00, shoal.flatMap shoalBytes),
      (0xEC00, (vecL x.pats).flatMap (fun p => leBytes 128 ((p.map BitVec.toNat).getD 0))) ]

/-- Bytes [o, o + n) of a frame. -/
def frameSlice (fb : List Byte) (o n : Nat) : List Byte := (fb.drop o).take n

def frameNat (fb : List Byte) (o n : Nat) : Nat := leNat (frameSlice fb o n)

/-- The counts of a frame: replay entries, shoal entries, loop depth (R461). -/
def frameCounts (fb : List Byte) : Nat × Nat × Nat :=
  let w := frameNat fb 0x20 8
  (bitsOf w 0 6, bitsOf w 8 7, bitsOf w 16 3)

/-- The checks that raise 0x003 at an ERET before anything is reloaded (R462). -/
def frameOk (fb : List Byte) : Bool :=
  let (nr, ns, nl) := frameCounts fb
  nr ≤ 32 && ns ≤ 64 && nl ≤ 4 &&
    (List.range 8).all (fun i => frameNat fb (0x30 + i) 1 ≤ 32) &&
    (List.range 8).all (fun i => frameNat fb (0x38 + i) 1 ≤ 8) &&
    (List.range nr).all (fun i => bitsOf (frameNat fb (0x0E80 + 8 * i) 8) 48 2 ≤ 1)

/-- The captured sources of a frame's entry: for each source field whose mask bit is set, the next operand slot (R461). `sv`
are the scalars in slot order, `vv` the vectors. -/
def frameCaps (mask : Nat) : Nat → List SrcF → List Word → List Vec → List (Option Src)
  | _, [], _, _ => []
  | j, f :: fs, sv, vv =>
    if bitsOf mask j 1 = 0 then none :: frameCaps mask (j + 1) fs sv vv
    else match f with
      | .v _ _ => some (.v (vv.headD 0)) :: frameCaps mask (j + 1) fs sv vv.tail
      | _ => some (.s (sv.headD 0)) :: frameCaps mask (j + 1) fs sv.tail vv

/-- Replay entry `i` of a frame. The sources are those of the instruction its words decode to; an entry whose words raise a decode cause
is kept as the frame holds it (R462). -/
def frameEntry (fb : List Byte) (i : Nat) : Entry :=
  let o := 0x1000 + 48 * i
  let d := frameNat fb (0x0E80 + 8 * i) 8
  let ws := (List.range 4).map (fun j => BitVec.ofNat 32 (frameNat fb (o + 4 * j) 4))
  let n := wordCount (ws.headD 0)
  let words := if n = 0 then ws else ws.take n
  let vs := bitsOf d 56 5
  let slot (k : Nat) : Nat := 0x7C00 + 256 * ((vs + k) % 32)
  let mask := frameNat fb (0x0F80 + 4 * i) 4
  let (srcs, raw) := match decodeList words with
    | .ok (i, _) => (sources i, none)
    | .error _ =>
      let slots := (if bitsOf d 61 1 = 1 then [frameSlice fb (slot 0) 256] else []) ++
        (if bitsOf d 62 1 = 1 then [frameSlice fb (slot 1) 256] else [])
      ([], some (d, mask, frameSlice fb o 48, slots))
  let sv := (List.range 4).map (fun j => BitVec.ofNat 64 (frameNat fb (o + 16 + 8 * j) 8)) ++
    (List.range 28).map (fun j => BitVec.ofNat 64 (frameNat fb (slot 0 + 8 * j) 8))
  let vv := [vecOf (frameSlice fb (slot 0) 256), vecOf (frameSlice fb (slot 1) 256)]
  { pc := BitVec.ofNat 48 d, words := words, exec := bitsOf d 48 2 = 1, waited := false,
    caps := frameCaps mask 0 srcs sv vv, cont := bitsOf d 50 1 = 1, prog := bitsOf d 51 5, again := true, raw := raw }

/-- Shoal-log entry `i` of a frame, for context `c` and its continuation (R461, R462). -/
def frameShoal (fb : List Byte) (c cid i : Nat) : Shoal :=
  let o := 0x9C00 + 320 * i
  let n := frameNat fb (o + 8) 2
  let so := frameNat fb (o + 12) 1
  let cause := bitsOf (frameNat fb (o + 14) 2) 0 10
  let op := frameNat fb (o + 11) 1
  let red := if frameNat fb (o + 10) 1 = 0 then none else some (BitVec.ofNat 4 op, decide (bitsOf op 4 2 = 3))
  { ctx := c, cid := cid, va := BitVec.ofNat 64 (frameNat fb o 8), bytes := frameSlice fb (o + 64) (min n 256), red := red,
    v := BitVec.ofNat 64 (frameNat fb (o + 64) 8), cmp := BitVec.ofNat 64 (frameNat fb (o + 72) 8),
    scope := BitVec.ofNat 2 so, order := BitVec.ofNat 2 (so / 4), cause := BitVec.ofNat 10 cause, refused := cause ≠ 0 }

/-- A queue of a frame: `n` entries of `size` bytes from `o`. -/
def frameQueue (fb : List Byte) (o size n : Nat) : List (List Byte) := (List.range n).map (fun j => frameSlice fb (o + size * j) size)

/-- The context that ERET reloads from a frame; handler mode is left (R185, R462). The replay entries wait for re-injection. -/
def reloadFrame (s : State) (x : Context) (fb : List Byte) : Context :=
  let (nr, _, nl) := frameCounts fb
  let w (o : Nat) : Word := BitVec.ofNat 64 (frameNat fb o 8)
  let occ (i : Nat) : Nat := frameNat fb (0x30 + i) 1
  let sq (i : Nat) : List Word := (frameQueue fb (0x1600 + 256 * i) 8 (occ i)).map (leWord 64)
  let vq (i : Nat) : List Vec := (frameQueue fb (0x3C00 + 2048 * i) 256 (occ (8 + i))).map vecOf
  { x with
    handler := false
    pc := BitVec.ofNat 48 (frameNat fb 8 8)
    xfer := none
    ring := Vector.ofFn (fun i : Fin 8 => BitVec.ofNat 8 (frameNat fb (0x28 + i.val) 1))
    loops := ((List.range nl).map (fun i => (⟨w (0x40 + 24 * i), w (0x48 + 24 * i), w (0x50 + 24 * i)⟩ : LoopLevel))).reverse
    g := Vector.ofFn (fun i : Fin 60 => w (0x100 + 8 * i.val))
    gEmpty := (~~~(BitVec.ofNat 60 (frameNat fb 0x2E0 8))).setWidth 64 &&& ~~~1#64
    vEmpty := (~~~(BitVec.ofNat 28 (frameNat fb 0x2E8 8))).setWidth 32
    vtype := w 0x300 &&& 0xFF
    fstat := w 0x308 &&& 0x3F
    seed := w 0x310 &&& 0xFFFFFFFF
    localw := (w 0x318 &&& ~~~0xFFFFFF#64) ||| (x.localw &&& 0xFFFFFF)
    clustw := (w 0x320 &&& ~~~0xFFFFFF#64) ||| (x.clustw &&& 0xFFFFFF)
    sharedw := (w 0x328 &&& ~~~0xFFFFFF#64) ||| (x.sharedw &&& 0xFFFFFF)
    pkbase := w 0x330 &&& ~~~0x7FF#64
    lanes := (List.range 256).map (fun i => (i, BitVec.ofNat 32 (frameNat fb (0x400 + 4 * i) 4)))
    p := Vector.ofFn (fun i : Fin 8 => BitVec.ofNat 256 (frameNat fb (0x800 + 32 * i.val) 32))
    y := Vector.ofFn (fun i : Fin 8 => BitVec.ofNat 256 (frameNat fb (0x900 + 32 * i.val) 32))
    k := Vector.ofFn (fun i : Fin 16 => BitVec.ofNat 16 (frameNat fb (0xA00 + 2 * i.val) 2))
    h := Vector.ofFn (fun i : Fin 32 => loadHandle s x.space (BitVec.ofNat 256 (frameNat fb (0xA80 + 32 * i.val) 32)))
    sAE := Vector.ofFn (fun i : Fin 4 => sq i.val)
    sEA := Vector.ofFn (fun i : Fin 4 => sq (4 + i.val))
    vAE := Vector.ofFn (fun i : Fin 4 => vq i.val)
    vEA := Vector.ofFn (fun i : Fin 4 => vq (4 + i.val))
    v := Vector.ofFn (fun i : Fin 28 => vecOf (frameSlice fb (0x2000 + 256 * i.val) 256))
    pats := Vector.ofFn (fun i : Fin 12 =>
      let r := frameNat fb (0xEC00 + 128 * i.val) 128
      if recValid r then some (BitVec.ofNat 1024 r) else none)
    replay := (List.range nr).map (frameEntry fb)
    cur := none
    stream := [] }

/-- The refusal-pending bit of a frame (R461). -/
def frameRefusal (fb : List Byte) : Bool := bitsOf (frameNat fb 0x20 8) 24 1 = 1

end Sys2Proof.Machine
end

