-- ==== Sys2Proof/Machine/RingCnt.lean ====
section
/-!
DEFINITION. The eight ring counters of a context (R64–R66) and the activity of lanes under a predicate (R189, R193).
-/

namespace Sys2Proof.Machine

/-- The four ring members (R23). -/
inductive Member where
  | P | L | M | S
  deriving DecidableEq, Repr

/-- The counters that WP and WN wait on, by the order of RINGCNT (R64). -/
def waitIdx : Member → Nat × Nat
  | .P => (6, 1)
  | .L => (0, 3)
  | .M => (2, 5)
  | .S => (4, 7)

/-- The counters that SP and SN increment (R64). -/
def signalIdx : Member → Nat × Nat
  | .P => (7, 0)
  | .L => (1, 2)
  | .M => (3, 4)
  | .S => (5, 6)

/-- Increments a counter; at 255 the increment is lost and the overflow mark is set (R66). -/
def ringInc (x : Context) (i : Nat) : Context :=
  if vecGet x.ring i 0 = 255 then { x with ringOv := x.ringOv ||| (1#8 <<< i) }
  else { x with ring := vecSet x.ring i (vecGet x.ring i 0 + 1) }

/-- Decrements a counter that is not zero. -/
def ringDec (x : Context) (i : Nat) : Context := { x with ring := vecSet x.ring i (vecGet x.ring i 0 - 1) }

/-- The waits of a ring nibble: both named counters must be nonzero, and are decremented together (R64). -/
def ringWait (x : Context) (m : Member) (r : Ring) : Option Context :=
  let (p, n) := waitIdx m
  if (r.wp && vecGet x.ring p 0 = 0) || (r.wn && vecGet x.ring n 0 = 0) then none
  else
    let x := if r.wp then ringDec x p else x
    some (if r.wn then ringDec x n else x)

/-- The counters that an instruction signals at its terminal state. -/
def signalsOf (m : Member) (r : Ring) : List Nat :=
  (if r.sp then [(signalIdx m).1] else []) ++ (if r.sn then [(signalIdx m).2] else [])

/-- Sends signals (R64, R66). -/
def sendSignals (x : Context) (l : List Nat) : Context := l.foldl ringInc x

/-- The ring nibble as it acts: nibbles of instructions executed in handler mode are ignored (R457). -/
def actRing (x : Context) (r : Ring) : Ring := if x.handler then ⟨false, false, false, false⟩ else r

/-- Whether lane `i` of width `w` bytes is active under a predicate (R189). -/
def laneOn (w : Nat) (p : Pred) (i : Nat) : Bool := p.getLsbD (i * w)

/-- Active lanes from `new`, the others from `old` (R193). -/
def mergeLanes (w : Nat) (p : Pred) (new old : Vec) : Vec :=
  let nb := vecBytes new
  let ob := vecBytes old
  vecOf ((List.range 256).map (fun i => if laneOn w p (i / w) then nb.getD i 0 else ob.getD i 0))

end Sys2Proof.Machine
end

