-- ==== Sys2Proof/Machine/TokTab.lean ====
section
/-!
DEFINITION. The cluster's token table (R395–R398): allocation, release and freeing, the terminal state of an operation with all
that follows from it (R64, R143, R334, R343, R403), the lease that goes with matrix operations (R224), and the end of a
continuation (R411, R458).
-/

namespace Sys2Proof.Machine

/-- Slot and generation of a token (R395). -/
def tokSlot (t : Tok) : Nat := t.toNat % 512
def tokGen (t : Tok) : Nat := t.toNat / 512

/-- The current generation of a slot; the first is 1 (R395). -/
def Cluster.gen (c : Cluster) (slot : Nat) : Nat := tabGet 1 slot c.gens

/-- The token that names a slot's current entry. -/
def Cluster.tok (c : Cluster) (slot : Nat) : Tok := BitVec.ofNat 16 (c.gen slot * 512 + slot)

def getTok (s : State) (cl slot : Nat) : Option TokEntry := tabFind slot (getCluster s cl).toks

def modTok (s : State) (cl slot : Nat) (f : TokEntry → TokEntry) : State :=
  match getTok s cl slot with
  | none => s
  | some t => modCluster s cl (fun c => { c with toks := tabPut slot (f t) c.toks })

/-- The slot and entry that a token names for a job: none when it is stale (R399, R402). -/
def findTok (s : State) (cl : Nat) (t : Tok) (bundle : Nat) : Option (Nat × TokEntry) :=
  match getTok s cl (tokSlot t) with
  | none => none
  | some e => if (getCluster s cl).gen (tokSlot t) = tokGen t && e.bundle = bundle then some (tokSlot t, e) else none

/-- Whether a state is terminal (R396). -/
def OpState.terminal : OpState → Bool
  | .done | .faulted | .cancelled => true
  | .queued | .running => false

/-- The state field of a status word (R402). -/
def OpState.code : OpState → Nat
  | .queued => 0
  | .running => 1
  | .done => 2
  | .faulted => 3
  | .cancelled => 4

/-- A status word (R402); state 7 for a stale token. -/
def statusWord (e : Option TokEntry) : Word :=
  match e with
  | none => 7
  | some t =>
    let cause := match t.state with
      | .faulted | .cancelled => t.fr.cause.toNat
      | _ => 0
    BitVec.ofNat 64 ((t.done % 2 ^ 32) * 2 ^ 16 + cause * 2 ^ 6 + (if t.owner.isNone then 32 else 0) + t.pri.toNat * 8 + t.state.code)

/-- Free entries of a table (R398). -/
def Cluster.freeToks (c : Cluster) : Nat := 512 - c.toks.length

/-- The entry that has been free longest: one that was never used, in ascending order, then in the order of freeing (R395). -/
def Cluster.nextSlot (c : Cluster) : Option Nat := if c.fresh < 512 then some c.fresh else c.freed.head?

/-- Takes an entry for an operation (R395). -/
def allocTok (s : State) (cl : Nat) (e : TokEntry) : Option (Nat × State) :=
  let c := getCluster s cl
  match c.nextSlot with
  | none => none
  | some slot => some (slot, modCluster s cl (fun c =>
      { c with toks := tabPut slot e c.toks, fresh := if c.fresh < 512 then c.fresh + 1 else c.fresh,
               freed := if c.fresh < 512 then c.freed else c.freed.tail }))

/-- Frees an entry: its generation steps by one, and after 127 returns to 1 (R395). -/
def freeTok (s : State) (cl slot : Nat) : State :=
  modCluster s cl (fun c =>
    { c with toks := tabDel slot c.toks, gens := tabPut slot (if c.gen slot = 127 then 1 else c.gen slot + 1) c.gens,
             freed := c.freed ++ [slot] })

/-- Frees an entry that is terminal and released (R397). -/
def settleTok (s : State) (cl slot : Nat) : State :=
  match getTok s cl slot with
  | none => s
  | some t => if t.state.terminal && t.released then freeTok s cl slot else s

/-- Releases an entry (R397). -/
def releaseTok (s : State) (cl slot : Nat) : State := settleTok (modTok s cl slot (fun t => { t with released := true })) cl slot

/-! ### Terminal states -/

/-- The source field that is an operation's notify register, if the instruction has one (R334). -/
def notifyIdx : Instr → Option (Nat × BitVec 6)
  | .cpy f => some (2, f.gn)
  | .cpyg f => some (2, f.c.gn)
  | .cpys f => some (2, f.c.gn)
  | .cpyr f => some (2, f.c.gn)
  | .cfill f => some (2, f.gn)
  | .xst f => some (3, f.gn)
  | .xld f => some (2, f.gn)
  | .car f => some (2, f.gn)
  | .cag f => some (2, f.gn)
  | .crs f => some (2, f.gn)
  | .ca2a f => some (2, f.gn)
  | .cbc f => some (2, f.gn)
  | .cbar f => some (0, f.gn)
  | .nsend f => some (3, f.gn)
  | .nrecv f => some (3, f.gn)
  | .nwrite f => some (3, f.gn)
  | .nread f => some (3, f.gn)
  | _ => none

/-- The notify descriptor of an operation; none when its register is g0 (R334). -/
def notifyOf (o : Op) : Option Word :=
  match notifyIdx o.instr with
  | none => none
  | some (j, r) => if r = 0 then none else some (o.gs.getD j 0)

/-- Whether a notify descriptor passes its start check (R334). -/
def notifyOk (s : State) (cl : Nat) (o : Op) : Bool :=
  match notifyOf o with
  | none => true
  | some w =>
    let off := w.toNat % 2 ^ 32
    off % 4 = 0 && off + 4 ≤ scratchLen (getCluster s cl).poolpw

/-- Adds to a 48-bit counter of a buffer tag, which saturates (R265). -/
def addCount (tag : BitVec 8) (n : Nat) (l : Tab Nat) : Tab Nat := tabMod 0 tag.toNat (fun m => min (m + n) (2 ^ 48 - 1)) l

/-- Adds to the counters of a buffer tag of a job: the bytes moved, and the cycles waited for them, which depend on timing and are free
(R265). -/
def countBytes (s : State) (b : Nat) (tag : BitVec 8) (n : Nat) : State :=
  let (k, s) := takeFresh s
  modBundle s b (fun v => { v with counters := addCount tag n v.counters, stalls := addCount tag (Config.freeWord k).toNat v.stalls })

/-- The buffer tag of a copy, which counts its notify write too (R335). -/
def copyTag : Instr → Option (BitVec 8)
  | .cpy f => some f.buf
  | .cpyg f => some f.c.buf
  | .cpys f => some f.c.buf
  | .cpyr f => some f.c.buf
  | .cfill f => some f.buf
  | _ => none

/-- A write to the pool of a cluster whose freeze has been acknowledged is held back until the freeze ends (R476). -/
def holdWrite (s : State) (cl off : Nat) (bs : List Byte) : State := modCluster s cl (fun c => { c with notes := c.notes ++ [(off, bs)] })

/-- A write to a cluster's pool, held back by a freeze (R476). -/
def poolWrite (s : State) (cl off : Nat) (bs : List Byte) : State :=
  if (getCluster s cl).ack then holdWrite s cl off bs else writeHome s (.pool cl off) bs

/-- The pool offset of an operation's notify write, and its value (R334). -/
def notifyAt (s : State) (cl : Nat) (o : Op) : Option (Nat × List Byte) :=
  match notifyOf o with
  | none => none
  | some w =>
    if notifyOk s cl o then some (scratchBase (getCluster s cl).poolpw + w.toNat % 2 ^ 32, leBytes 4 (w.toNat / 2 ^ 32)) else none

/-- The cause that the notify write meets: part of a line that fails is not written (R438, R477). -/
def notifyBad (s : State) (cl : Nat) (o : Op) : Option (Cause × Loc) :=
  (notifyAt s cl o).bind (fun n => (writeBad s (.pool cl n.1) 4).map (fun e => (e, .pool cl n.1)))

/-- The notify write of an operation of job `b` (R334, R335). -/
def notifyWrite (s : State) (cl b : Nat) (o : Op) : State :=
  match notifyAt s cl o with
  | none => s
  | some n =>
    if (notifyBad s cl o).isSome then s
    else poolWrite (match copyTag o.instr with
      | some tag => countBytes s b tag 4
      | none => s) cl n.1 n.2

/-- The channel that a bound copy names: its number in the instruction (R342, R343). -/
def channelOf : Instr → Option Nat
  | .cpy f => if f.che then some f.ch.toNat else none
  | .cpyg f => if f.c.che then some f.c.ch.toNat else none
  | .cpys f => if f.c.che then some f.c.ch.toNat else none
  | .cpyr f => if f.c.che then some f.c.ch.toNat else none
  | .cfill f => if f.che then some f.ch.toNat else none
  | .xld f => if f.che then some f.ch.toNat else none
  | _ => none

/-- The key of a channel in its cluster: engine (0 load, 1 store) and number. -/
def chanKey (eng c : Nat) : Nat := eng * 8 + c

/-- A bound copy that ends FAULTED or CANCELLED breaks its channel, also one that has not started (R343, R436). -/
def breakChannel (s : State) (cl : Nat) (t : TokEntry) : State :=
  match channelOf t.op.instr with
  | none => s
  | some c =>
    let key := chanKey t.op.member c
    match tabFind key (getCluster s cl).chans with
    | none => s
    | some ch =>
      if ch.owner = t.op.cid then modCluster s cl (fun k => { k with chans := tabPut key { ch with broken := true } k.chans })
      else s

/-- Whether an instruction is a matrix operation whose end the lease waits for (R224). -/
def isMatrixOp : Instr → Bool
  | .mma _ | .mmaq _ | .mmv _ | .mzero _ | .mdrain _ | .mldacc _ => true
  | _ => false

/-- The context that runs continuation `cid`, if one does. -/
def ctxOfCont (s : State) (cid : Nat) : Option Nat :=
  if s.x.run && s.x.cont.cid = cid then some s.xid
  else (s.parked.find? (fun e => e.2.run && e.2.cont.cid = cid)).map (·.1)

/-- ORs flags into a job's completion record (R384). -/
def jobFlags (s : State) (b : Nat) (fl : Flags) : State := modBundle s b (fun v => { v with flags := v.flags ||| fl })

/-- Flags that the operations of a suspended continuation leave for its FSTAT (R143). -/
def Cont.orFl (cid : Nat) (fl : Flags) (k : Cont) : Cont := if k.cid = cid then { k with fl := k.fl ||| fl } else k

/-- The step in progress is done: the flags of a done step count (R143, R332). -/
def TokEntry.commit (t : TokEntry) : TokEntry :=
  { t with done := t.done + 1, flags := t.flags ||| t.stepFl, stepFl := 0, todo := none }

/-- The flags of an operation at its terminal state go to its owner's FSTAT, wherever the owner is, or to the job's record when it has no
owner (R143). In handler mode they are kept for the FSTAT that ERET reloads as well, and for an owner that is halted for an image with
what its frame does not hold. -/
def mergeFlags (s : State) (t : TokEntry) : State :=
  if t.flags = 0 then s
  else match t.owner with
    | none => jobFlags s t.bundle t.flags
    | some cid =>
      match ctxOfCont s cid with
      | some c => modCtx s c (fun x => if x.handler then { x.orFlags t.flags with lateFl := x.lateFl ||| t.flags } else x.orFlags t.flags)
      | none =>
        let or (l : List Cont) : List Cont := l.map (Cont.orFl cid t.flags)
        { s with
          clusters := s.clusters.map (fun c => (c.1, { c.2 with susp := or c.2.susp, ready := or c.2.ready }))
          ready := s.ready.map (fun e => (e.1, Cont.orFl cid t.flags e.2))
          planners := s.planners.map (fun p => (p.1, { p.2 with saved := p.2.saved.map (fun v =>
            if v.x.cont.cid = cid then { v with x := { v.x with lateFl := v.x.lateFl ||| t.flags } } else v) })) }

/-- The ring member of an operation's engine. -/
def engMember : Nat → Member
  | 0 => .L
  | 1 => .S
  | _ => .M

/-- The signals of an operation at its terminal state, while its context still runs the continuation that issued it (R64). DESIGN CHOICE
(log entry 187): those that fall in handler mode are sent once ERET has reloaded the counters; the manual does not say. While the context
is halted for an image they are kept with it. -/
def signalOp (s : State) (o : Op) : State :=
  let x := getCtx s o.ctx
  let l := signalsOf (engMember o.member) o.ring
  if l = [] then s
  else if !x.run || x.cont.cid != o.cid then
    { s with planners := s.planners.map (fun p => (p.1, { p.2 with saved := p.2.saved.map (fun v =>
        if v.ctx = o.ctx && v.x.cont.cid = o.cid then { v with x := { v.x with lateSigs := v.x.lateSigs ++ l } } else v) })) }
  else putCtx s o.ctx (if x.handler then { x with lateSigs := x.lateSigs ++ l } else sendSignals x l)

/-- Removes an operation from its cluster's queues and engines; an operation that becomes a queue's head waits from now on
(R386). -/
def dequeueOp (s : State) (cl slot : Nat) : State :=
  let c := getCluster s cl
  let news := c.queues.filterMap (fun q => if q.2.head? = some slot then (q.2.filter (· != slot)).head? else none)
  let s := modCluster s cl (fun c =>
    { c with queues := c.queues.map (fun q => (q.1, q.2.filter (· != slot))), active := c.active.filter (fun a => a.2 != slot) })
  news.foldl (fun s n => modTok s cl n (fun t => { t with op := { t.op with since := s.tick } })) s

/-- Makes the suspended continuations that wait on a token ready (R403). -/
def wakeToken (s : State) (cl slot : Nat) : State :=
  let c := getCluster s cl
  let hit (k : Cont) : Bool := k.wtok.any (fun t => tokSlot t = slot)
  if c.susp.any hit then
    modCluster s cl (fun c => { c with ready := c.ready ++ (c.susp.filter hit).map (fun k => { k with state := 0, since := s.tick }),
                                       susp := c.susp.filter (fun k => !hit k) })
  else s

/-! ### Multicast groups (R301) -/

/-- The group of an XST, 0 for none (R348). -/
def xstGroup : Instr → Nat
  | .xst f => f.grp.toNat
  | _ => 0

/-- At most so many versions of a group live at once. -/
def liveVersions : Nat := 4

/-- An old version that no packet has latched any more is drained; of several at once the newest is told last. -/
def Group.drain (g : Group) : Group :=
  match g.versions with
  | [] => g
  | v :: old =>
    { g with versions := v :: old.filter (fun o => o.refs != []),
             drained := ((old.filter (fun o => o.refs = [])).head?.map Version.no).getD g.drained }

/-- A rewrite installs a new version; one that would need a fifth live version waits for the oldest to drain. -/
def Group.rewrite (g : Group) (members : List Nat) : Group :=
  if g.waiting = [] && g.versions.length < liveVersions then
    Group.drain { g with versions := ⟨g.next, members, []⟩ :: g.versions, next := g.next + 1, installed := g.next }
  else { g with waiting := g.waiting ++ [members] }

/-- The group after a version may have drained: the rewrites that waited are tried again, in order. -/
def Group.settle (g : Group) : Group := g.waiting.foldl Group.rewrite { g.drain with waiting := [] }

/-- The packet of the step in progress of an operation latches the group's current version at its first replication. -/
def latch (s : State) (grp cl slot : Nat) : State :=
  match tabFind grp s.groups with
  | some g => match g.versions with
    | v :: old => { s with groups := tabPut grp { g with versions := { v with refs := v.refs ++ [(cl, slot)] } :: old } s.groups }
    | [] => s
  | none => s

/-- The packet that an operation had latched a version for has been delivered, or the operation has ended. -/
def unlatch (s : State) (grp cl slot : Nat) : State :=
  match (if grp = 0 then none else tabFind grp s.groups) with
  | some g =>
    let vs := g.versions.map (fun v => { v with refs := v.refs.filter (· != (cl, slot)) })
    { s with groups := tabPut grp (Group.settle { g with versions := vs }) s.groups }
  | none => s

/-- The version of a group that an operation's packet goes to: the one it has latched, or the current one. -/
def versionOf (g : Group) (cl slot : Nat) : Option Version :=
  (g.versions.find? (fun v => v.refs.contains (cl, slot))).orElse (fun _ => g.versions.head?)

/-- An operation of a function ends CANCELLED with 0x313: VFRST counts it during a reset (R478). -/
def Fn.noteCancelled (f : Fn) : Fn := if f.reset = 0 || f.reset = 7 then f else { f with cancelled := f.cancelled + 1 }

/-- An operation reaches a terminal state: its record, then flags, the notify write, ring signals, its channel, the wake of
waiting continuations, freeing if it was released, and the count of a function's reset (R396, R397, R143, R64, R334, R343, R478). A terminal
entry stays as it is. An operation whose notify write meets a line that fails ends FAULTED with that cause (R477). -/
def opTerm (s0 : State) (cl slot : Nat) (st0 : OpState) (fr0 : FaultRec) : State :=
  match getTok s0 cl slot with
  | none => s0
  | some t =>
    if t.state.terminal then s0
    else
      let (s, st, fr) := match st0, notifyBad s0 cl t.op with
        | .done, some e => (postBad s0 e.1 e.2, OpState.faulted, { fr0 with cause := e.1 })
        | _, _ => (s0, st0, fr0)
      let s := modTok s cl slot (fun t => { t with state := st, fr := { fr with step := BitVec.ofNat 32 t.done }, stop := none })
      let s := unlatch (dequeueOp s cl slot) (xstGroup t.op.instr) cl slot
      let s := mergeFlags s t
      let s := notifyWrite s cl t.bundle t.op
      let s := signalOp s t.op
      let s := if st = .done then s else breakChannel s cl t
      let s := if st = .cancelled && fr.cause = 0x313 then modFn s (jobFn s t.bundle) Fn.noteCancelled else s
      let s := wakeToken s cl slot
      settleTok s cl slot

/-- Whether a continuation still has a matrix operation that is not terminal on a cluster (R224). A release by MREL precedes in the
queue the operations that have not started, so it does not wait for them (R241). -/
def matrixBusy (s : State) (cl cid : Nat) (mrel : Bool) : Bool :=
  (getCluster s cl).toks.any (fun e =>
    e.2.op.cid = cid && isMatrixOp e.2.op.instr && !e.2.state.terminal && (e.2.started || !mrel))

/-- Releases of the lease that take effect: every matrix operation of the continuation has ended (R224). Its MREL token becomes
DONE (R226). -/
def settleLease (s : State) (cl : Nat) : State :=
  (getCluster s cl).lease.releasing.foldl (fun s r =>
    if matrixBusy s cl r.1 r.2.isSome then s
    else
      let s := modCluster s cl (fun c => { c with lease :=
        { c.lease with
          holders := c.lease.holders.filter (fun h => h.1 != r.1)
          possess := if c.lease.possess = some r.1 then none else c.lease.possess
          fifo := c.lease.fifo.filter (fun q => !(q.cid = r.1 && q.tok.isNone))
          releasing := c.lease.releasing.erase r } })
      match r.2 with
      | some slot => opTerm s cl slot .done {}
      | none => s) s

/-- Starts a release of the lease by a continuation that holds it (R224). -/
def releaseLease (s : State) (cl cid : Nat) (slot : Option Nat) : State :=
  let l := (getCluster s cl).lease
  if l.holders.any (fun h => h.1 = cid) then
    settleLease (modCluster s cl (fun c => { c with lease := { c.lease with releasing := c.lease.releasing ++ [(cid, slot)] } })) cl
  else match slot with
    | some k => opTerm s cl k .done {}
    | none => s

/-- Whether an instruction uses the array (R222). -/
def usesArray : Instr → Bool
  | .mma _ | .mmaq _ => true
  | _ => false

/-- The array's idle clock restarts when an operation of the continuation that possesses it ends (R223). -/
def markIdle (s : State) (cl slot : Nat) : State :=
  match getTok s cl slot with
  | none => s
  | some t => if usesArray t.op.instr && (getCluster s cl).lease.possess = some t.op.cid then modCluster s cl (fun c => { c with lease := { c.lease with idle := s.tick } }) else s

/-- Whether an instruction posts a receive, which is matched in the order of posting and ends in issue order (R357, R400). -/
def isRecv : Instr → Bool
  | .nrecv _ => true
  | _ => false

/-- Whether a receive only waits for its turn to end: its message has been matched, or its start has failed (R400). -/
def recvMatched (t : TokEntry) : Bool := isRecv t.op.instr && t.state = .running && (t.done = 1 || t.fr.cause != 0)

/-- A receive that only waits for its turn, and before which no receive of its continuation is still open (R400); nothing writes a pool
whose freeze has been acknowledged (R476). -/
def recvReady (c : Cluster) (e : Nat × TokEntry) : Bool :=
  !c.ack && recvMatched e.2 &&
    !c.toks.any (fun d => d.2.op.cid = e.2.op.cid && isRecv d.2.op.instr && d.2.op.seq < e.2.op.seq && !d.2.state.terminal)

/-- Writes the pieces of a message into the scratchpad, up to one that fails its checks (R357, R438). -/
def placePieces (cl : Nat) : List (Nat × Nat × List Byte) → State → Except (Cause × Loc) State
  | [], s => .ok s
  | p :: ps, s =>
    let l := Loc.pool cl (scratchBase (getCluster s cl).poolpw + p.1)
    match writeBad s l p.2.2.length with
    | some e => .error (e, l)
    | none => placePieces cl ps (writeHome s l p.2.2)

/-- A receive whose turn has come: its message is written, and it ends DONE, or FAULTED where the message was longer or a line is bad. -/
def endRecv (s : State) (cl slot : Nat) (t : TokEntry) : State :=
  match placePieces cl (t.todo.getD []) s with
  | .error (e, l) => opTerm (postBad s e l) cl slot .faulted { cause := e }
  | .ok s => opTerm s cl slot (if t.fr.cause = 0 then .done else .faulted) t.fr

/-- Places and ends the matched receives whose turn has come: they write in issue order (R294, R400). -/
def settleRecvs (cl : Nat) : Nat → State → State
  | 0, s => s
  | n + 1, s =>
    match (getCluster s cl).toks.find? (recvReady (getCluster s cl)) with
    | none => s
    | some (slot, t) => settleRecvs cl n (endRecv s cl slot t)

/-- An operation ends (R396); a withdrawn MLEASE leaves its FIFO (R225), and releases of the lease may take effect (R224). -/
def opEnd (s : State) (cl slot : Nat) (st : OpState) (fr : FaultRec) : State :=
  let s := opTerm (markIdle s cl slot) cl slot st fr
  let l := (getCluster s cl).lease
  let s := if st != .done && (l.fifo.any (fun q => q.tok = some slot) || l.reserved.any (fun q => q.1.tok = some slot)) then
      modCluster s cl (fun c => { c with lease :=
        { c.lease with fifo := c.lease.fifo.filter (fun q => q.tok != some slot),
                       reserved := if c.lease.reserved.any (fun q => q.1.tok = some slot) then none else c.lease.reserved } })
    else s
  let s := settleRecvs cl (getCluster s cl).toks.length s
  if (getCluster s cl).lease.releasing.isEmpty then s else settleLease s cl

/-- An operation ends FAULTED (R396). -/
def opFault (s : State) (cl slot : Nat) (cause : Cause) (loc : Word) : State :=
  opEnd s cl slot .faulted { cause := cause, loc := loc }

/-- Whether an operation is within a step, which a freeze and a checkpoint let complete (R466, R476); a receive that waits for its turn has not
begun its own. -/
def inStep (t : TokEntry) : Bool := t.todo.isSome && !isRecv t.op.instr

/-- Whether an instruction's operation always has a step in progress while it runs; a posted receive, a barrier that waits for its peers
and a bind have none. -/
def hasSteps : Instr → Bool
  | .mma _ | .mmaq _ | .mmv _ | .mzero _ | .mdrain _ | .mldacc _ | .cpy _ | .cpyg _ | .cpys _ | .cpyr _ | .cfill _ | .pkset _
  | .xst _ | .xld _ | .xamo _ | .car _ | .cag _ | .crs _ | .ca2a _ | .cbc _ | .nsend _ | .nwrite _ | .nread _ => true
  | _ => false

/-- Whether an engine's shoal log holds an entry of an operation (R259, R472). -/
def opLogged (c : Cluster) (slot : Nat) : Bool := c.logL.any (fun e => e.slot = slot) || c.logS.any (fun e => e.slot = slot)

/-- Whether a running operation has a step in progress that a stop lets complete (R499): not while it waits for possession of the
array, and not while its step is held on translation. -/
def stepInProgress (s : State) (cl slot : Nat) (t : TokEntry) : Bool :=
  t.state = .running && hasSteps t.op.instr && !s.faults.any (fun f => f.eng = some (cl, slot)) &&
    (!usesArray t.op.instr || (getCluster s cl).lease.possess = some t.op.cid)

/-- A step that goes on while a stop is asked for, and whose read is then held on translation, is abandoned: the operation ends (R499). -/
def abandonHeld (s : State) (cl slot : Nat) (c : Cause) : State :=
  match getTok s cl slot with
  | none => s
  | some t =>
    if !t.state.terminal && s.faults.any (fun f => f.eng = some (cl, slot) && f.kind.toNat ≤ 3) then
      opEnd { s with faults := s.faults.filter (fun f => f.eng != some (cl, slot)) } cl slot .cancelled { cause := c, loc := t.fr.loc }
    else s

/-- Asks an operation to stop with a cause (R404, R499): it ends at once while no step is in progress and no entry of its shoal
log is pending, else at its next step boundary. A receive that has its message has its last step in progress, which completes (R404). -/
def stopOp (s : State) (cl slot : Nat) (cause : Cause) (loc : Word) : State :=
  match getTok s cl slot with
  | none => s
  | some t =>
    if t.state.terminal || t.stop.isSome then s
    else if t.state = .running && (stepInProgress s cl slot t || opLogged (getCluster s cl) slot || recvMatched t) then
      modTok s cl slot (fun t => { t with stop := some cause, fr := { t.fr with loc := loc } })
    else opEnd { s with faults := s.faults.filter (fun f => f.eng != some (cl, slot)) } cl slot .cancelled { cause := cause, loc := loc }

/-! ### The end of a continuation (R411, R458) -/

/-- Every attached entry of a continuation becomes released: terminal entries are freed, the others become orphans (R397). -/
def releaseOwned (s : State) (cl cid : Nat) : State :=
  (((getCluster s cl).toks.filter (fun e => e.2.owner = some cid)).map (·.1)).foldl (fun s slot =>
    releaseTok (modTok s cl slot (fun t => { t with owner := none })) cl slot) s

/-- A free context. Its remote writes stay pending until they are acknowledged (R288). -/
def freeContext (x : Context) : Context := { ({} : Context) with pend := x.pend }

/-- A logged store of a context that ends: performed, or held back by a freeze (R476). -/
def endStore (s : State) (c : Nat) (st : PStore) : State :=
  match st.loc with
  | .pool cl off => if (getCluster s cl).ack then holdWrite s cl off st.bytes else performStore s c st
  | .mem _ => performStore s c st

/-- Shoal-log entries of a context that ends without draining: those that translate now are performed in order, up to the first
that does not; the rest are dropped. -/
def flushShoal (s : State) (c : Nat) : List Shoal → State
  | [] => modCore s (ctxCore c) (fun k => { k with shoal := k.shoal.filter (fun e => e.ctx != c) })
  | e :: rest =>
    match shoalTarget s e, e.red with
    | .ok t, none => flushShoal (endStore s c ⟨t.loc, e.bytes, e.va, false⟩) c rest
    | _, _ => modCore s (ctxCore c) (fun k => { k with shoal := k.shoal.filter (fun e => e.ctx != c) })

/-- Ends the continuation of the current context from step 2 of KDONE: its entries are released, its lease is released, and the
context is free (R411, R458). Plain stores that have retired reach their homes. -/
def endContinuation (s : State) : State :=
  let s := flushShoal (drainStores s s.xid) s.xid (ownShoal s s.xid)
  let cid := s.x.cont.cid
  let s := releaseOwned s s.cl cid
  let s := releaseLease s s.cl cid none
  { s with x := freeContext s.x, faults := s.faults.filter (fun f => f.ctx != some s.xid) }

end Sys2Proof.Machine
end

