-- ==== Sys2Proof/Machine/Ops.lean ====
section
/-!
DEFINITION. The operations that every instruction of a context goes through: fetching words, ring waits and signals (R64–R66),
operand capture, retirement with the end processing of hardware loops (R179), transfers of control (R60, R180), long-latency
results (R159), TAKING A TRAP (R456–R461) and returning from one (R185, R462), and the two issue paths: `issue` for P
instructions and the dispatch of engine instructions, `issueM` for the execute side.
-/

namespace Sys2Proof.Machine

/-! ### Fetching instruction words (R63, R86) -/

/-- Word at a location through a core's instruction cache; window bytes are not cached. Where the cached line and memory differ, software
has written into resident code, and each fetched word is its old or its new value, independently (R63): free. DESIGN CHOICE (log entry
188): the old value is what the cached line holds, and a line that is not cached yields the new one. -/
def fetchAt (s : State) (k : Nat) (l : Loc) : IWord × State :=
  match l with
  | .pool _ _ => (leWord 32 (readHome s l 4), s)
  | .mem pa =>
    let new := leWord 32 (memRead s.mem pa 4)
    match tabFind (pa / 64) (getCore s k).ic with
    | some line =>
      let old := line.extractLsb' (8 * (pa % 64)) 32
      if old = new then (new, s)
      else
        let (n, s) := takeFresh s
        (if Config.freeBit n then old else new, s)
    | none =>
      let (n, s) := takeFresh s
      (new, modCore s k (fun c => { c with ic := tabPut (pa / 64) (leWord 512 (memRead s.mem (pa / 64 * 64) 64)) (pushOut n [pa / 64] c.ic) }))

/-- Fetches the word at `a` for the current context: it holds on a translation fault, or traps (R63, R258). -/
def fetchWord (s : State) (a : Nat) : Acc IWord :=
  match resolve s s.xid needFetch a 4 4 with
  | .error (.early e) => .trap s e (accDetail false true false) (BitVec.ofNat 64 a)
  | .error (.trans t) => heldFault s s.xid a 2 (accDetail false true false) t
  | .ok t =>
    match readBad s t.loc 4 with
    | some e => .trap (postBad s e t.loc) e (accDetail false true false) (BitVec.ofNat 64 a)
    | none =>
      let (w, s) := fetchAt (if s.faults = [] then s else dropHeld s s.xid a) s.core t.loc
      .ok w s

/-- Words(X) for the word at `a` as memory holds it now; 1 where it cannot be fetched or does not decode (R178). -/
def peekWords (s : State) (a : Nat) : Nat :=
  match resolve s s.xid needFetch a 4 4 with
  | .error _ => 1
  | .ok t => max 1 (wordCount (fetchAt s s.core t.loc).1)

/-! ### Hardware loops and transfers of control (R179, R180) -/

/-- End processing for an instruction at `a` on a loop stack, innermost first: the new stack, and the loop start that fetch
goes back to (R179). -/
def endPass (a : Word) : List LoopLevel → List LoopLevel × Option Word
  | [] => ([], none)
  | l :: t =>
    if l.stop = a then
      if l.count - 1 ≠ 0 then ({ l with count := l.count - 1 } :: t, some l.start) else endPass a t
    else (l :: t, none)

/-- Whether a level's body contains `t` (R180). -/
def inBody (s : State) (t : Word) (l : LoopLevel) : Bool :=
  l.start.toNat ≤ t.toNat && t.toNat < l.stop.toNat + 4 * peekWords s l.stop.toNat

/-- Pops levels, innermost first, until one contains the target (R180). -/
def popLoops (s : State) (t : Word) (ls : List LoopLevel) : List LoopLevel := ls.dropWhile (fun l => !inBody s t l)

/-- Sends fetch to `t`: bits [47:0] are the PC, and a target with higher bits set is kept for the check at the target (R60). -/
def Context.goto (x : Context) (t : Word) : Context :=
  { x with pc := t.setWidth 48, xfer := if t.toNat < 2 ^ 48 then none else some t }

/-- One outcome for the execute side, which needs it only while it has M instructions before it to meet (R84). -/
def Context.outcome (x : Context) (t : Word) : Context :=
  match x.stream with
  | [] => x
  | l => { x with stream := l ++ [EItem.outcome t] }

/-- Several outcomes, in the order of their decisions. The outcomes of one instruction that find the branch queue full stay behind
it, and nothing more issues until it has room (R84). -/
def Context.outcomesOf (x : Context) (ts : List Word) : Context := ts.foldl Context.outcome x

/-- The end decisions of end processing that leaves `ls` of the stack `l`: each level that ends here pushes one, the exhausted ones
with the address `next` behind the body, and a level that repeats with its start (R84, R179). -/
def endDecisions (l ls : List LoopLevel) (back : Option Word) (next : Word) : List Word :=
  List.replicate (l.length - ls.length) next ++ back.toList

/-- Outcomes that the branch queue holds (R84). -/
def Context.outcomes (x : Context) : Nat := (x.stream.filter (fun e => match e with
  | .outcome _ => true
  | .instr _ => false)).length

/-- The address after an instruction's words. -/
def Entry.next (e : Entry) : Word := e.pc.setWidth 64 + 4 * BitVec.ofNat 64 e.words.length

/-- Moves the access side past an instruction that retires, with end processing when it is the next one in sequence; an entry
re-injected elsewhere leaves fetch where it is unless its level sends it back (R179, R462). -/
def Context.advance (x : Context) (e : Entry) : Context :=
  let (ls, back) := endPass (e.pc.setWidth 64) x.loops
  let x1 := ({ x with loops := ls } : Context).outcomesOf (endDecisions x.loops ls back e.next)
  match back with
  | some t => x1.goto t
  | none => if e.pc = x.pc then x1.goto e.next else x1

/-- A single-stepped core halts again when an access-side instruction retires (R475). -/
def stepHalt (s : State) : State :=
  if (getCore s s.core).one then modCore s s.core (fun k => { k with one := false, halt := true }) else s

/-- Marks the access side as moving: nothing is in progress and the deadlock clock restarts (R176, R385). -/
def Context.moved (x : Context) (tick : Nat) : Context :=
  { x with cur := none, ws := none, blockA := false, blockE := false, since := tick, readyA := none, promA := false, got := [] }

/-! ### Long-latency results (R159) -/

/-- One destination of a long-latency result written; none while its queue is full. -/
def landDst (exec : Bool) (x : Context) : WbDst → Option Context
  | .g r w => some ((x.setG r w).markG r false)
  | .v r w => some ((x.setV r w).markV r false)
  | .qs n w => pushS exec x n w
  | .qv n w => pushV exec x n w
  | .take vd qn p w old _ =>
    match popV true x qn with
    | none => none
    | some (d, x) =>
      let res := mergeLanes w p d old
      if vd < 28 then some ((x.setV vd res).markV vd false) else pushV true x (vd - 28) res

/-- All destinations of a long-latency result, or none of them. -/
def landDsts (exec : Bool) (x : Context) : List WbDst → Option Context
  | [] => some x
  | d :: ds => match landDst exec x d with
    | none => none
    | some x => landDsts exec x ds

/-- Whether two results are elements of one LDM (R187). -/
def sameLdm (a b : Writeback) : Bool := a.unit = 3 && b.unit = 3 && a.no = b.no && a.hm = b.hm

/-- The result lands: registers full, queues pushed, flags ORed in and signals sent (R159); an element of an LDM sends them only when
none of the `others` outstanding is of the same LDM (R187). -/
def landWb (x : Context) (others : List Writeback) (w : Writeback) : Option Context :=
  match landDsts w.exec x w.dsts with
  | none => none
  | some x => some (sendSignals (x.orFlags w.flags) (if others.any (sameLdm w) then [] else w.sigs))

/-- Whether two results of one side push the same queue, so that they land in order (R159). -/
def sameQueue (a b : Writeback) : Bool :=
  a.exec = b.exec && a.dsts.any (fun d => b.dsts.any (fun e =>
    match d, e with
    | .qs m _, .qs n _ => m = n
    | .qv m _, .qv n _ => m = n
    | .take vd m _ _ _ _, .take vd2 n _ _ _ _ => m = n || (28 ≤ vd && vd = vd2)
    | .take vd _ _ _ _ _, .qv n _ => vd = n + 28
    | .qv n _, .take vd _ _ _ _ _ => vd = n + 28
    | _, _ => false))

/-- Whether two results come from one divider of the core, which its contexts share in issue order (R158). -/
def sameDivider (a b : Writeback) : Bool := a.unit = b.unit && (a.unit = 1 || a.unit = 2)

/-- Whether a divider of the core of context `c` still owes a result issued before `w` (R158). -/
def dividerOwes (s : State) (c : Nat) (w : Writeback) : Bool :=
  (s.xid :: s.parked.map (·.1)).any (fun d => d / 16 = c / 16 &&
    (if d = s.xid then s.x else tabGet {} d s.parked).wbs.any (fun v => sameDivider v w && v.no < w.no))

/-- Lands result `i` of a context if nothing before it must land first. -/
def landNth (x : Context) (i : Nat) : Context :=
  match x.wbs[i]? with
  | none => x
  | some w =>
    if (x.wbs.take i).any (sameQueue w) || w.hm != x.handler then x
    else match landWb { x with wbs := x.wbs.eraseIdx i } (x.wbs.eraseIdx i) w with
      | none => x
      | some x => x

/-- Lands every result that can land, in order: a result that cannot stays. -/
def landAll (x : Context) : List Writeback → Context
  | [] => x
  | w :: ws =>
    match (if w.dsts.any (fun d => match d with
        | .take _ _ _ _ _ _ => true
        | _ => false) then none else landWb x ws w) with
    | some x => landAll x ws
    | none => landAll { x with wbs := x.wbs ++ [w] } ws

/-- A long-latency VMOV that has not taken its entry counts as not started: its vd is full again with its old value, and it
becomes a replay entry (R195, R457). -/
def untake (x : Context) : List Writeback → Context × List Entry
  | [] => (x, [])
  | w :: ws =>
    match w.dsts with
    | [.take vd _ _ _ old e] =>
      let x := if vd < 28 then (x.setV vd old).markV vd false else x
      let (x, es) := untake x ws
      (x, e :: es)
    | _ =>
      let (x, es) := untake { x with wbs := x.wbs ++ [w] } ws
      (x, es)

/-! ### Taking a trap (R456–R461) -/

/-- The M instructions of a stream that have not completed, in program order. -/
def streamEntries (l : List EItem) : List Entry :=
  l.filterMap (fun e => match e with
    | .instr e => some e
    | .outcome _ => none)

/-- Whether an access-side instruction in progress consumed ring waits or performed part of its effect (R460), or is one that a frame
gave back, whose waits were consumed (R461, R462). An M instruction that the access side has not passed yet has done neither. -/
def Entry.begun (e : Entry) : Bool :=
  !e.exec && (e.again || e.cont || e.caps.any Option.isSome ||
    (e.waited && (match e.words with
      | w :: _ => w.getLsbD 31 || w.getLsbD 30
      | [] => false)))

/-- The replay entries of a trap (R460): what the execute side had not completed, then the access-side instruction in progress
if it raised (`keep`) or had begun, then the entries not yet re-injected. -/
def replayEntries (x : Context) (taken : List Entry) (keep : Bool) : List Entry :=
  taken ++ streamEntries x.stream ++
    (match x.cur with
      | some e => if keep || e.begun then [e] else []
      | none => []) ++ x.replay

/-- The causes whose CAUSE.detail R459 lists. -/
def detailed (c : Cause) : Bool :=
  (0x100#10 ≤ c && c ≤ 0x106#10) || (0x210#10 ≤ c && c ≤ 0x212#10) ||
    [0x110, 0x111, 0x00F, 0x013, 0x020, 0x021, 0x00B].contains c

/-- CAUSE as R456 lays it out; its detail is zero for a cause that R459 does not list. -/
def causeWord (r : Raised) : Word :=
  (if detailed r.cause then r.detail.setWidth 64 <<< 32 else 0) ||| (if r.async then 0x80000000 else 0) ||| r.cause.setWidth 64

/-- Whether [TFP, TFP + 61,952) passes steps 1 to 3 of R304 (R456): the whole range below 2^57, and wholly inside a window or
wholly outside every window it meets. -/
def frameRangeOk (s : State) : Bool :=
  let a := s.x.tfp.toNat
  if 2 ^ 57 < a + frameLen then false
  else match windowOf s.x a with
    | 0 => (List.range 16).all (fun i => windowOf s.x (a + 4096 * i) = 0) && windowOf s.x (a + frameLen - 1) = 0
    | w => match windowLoc s s.xid s.x w (a - winBase (winCsr s.x w)) frameLen with
      | .ok _ => true
      | .error _ => false

/-- Stores bytes of the frame from `a`, piece by piece (pieces never cross a 4 KiB boundary); false when a piece fails (R457,
R458). -/
def storeFrame (s : State) (a : Nat) : List (List Byte) → State × Bool
  | [] => (s, true)
  | bs :: rest =>
    match resolve s s.xid needStore a bs.length 1 with
    | .error _ => (s, false)
    | .ok t => storeFrame (performStore s s.xid ⟨t.loc, bs, BitVec.ofNat 64 a, false⟩) (a + bs.length) rest

/-- The context after trap entry (R457 step 5). `mark` is the ring counter whose overflow is reported. -/
def enterHandler (x : Context) (r : Raised) : Context :=
  { x with
    handler := true
    cause := causeWord r
    epc := x.pc.setWidth 64
    pc := x.tvec.setWidth 48
    xfer := none
    gEmpty := 0
    vEmpty := 0
    sAE := Vector.replicate 4 []
    sEA := Vector.replicate 4 []
    vAE := Vector.replicate 4 []
    vEA := Vector.replicate 4 []
    ring := Vector.replicate 8 0
    ringOv := if r.cause = 0x00B then x.ringOv &&& ~~~(1#8 <<< r.detail.toNat) else x.ringOv
    loops := []
    stream := []
    replay := []
    cur := none
    ws := none
    wsOld := x.ws
    raised := none
    blockA := false
    blockE := false
    readyA := none
    readyE := none
    tokA := none
    tokE := none
    got := [] }

/-- The frame in pieces of 4 KiB; its last piece is shorter. -/
def framePieces (fb : List Byte) : List (List Byte) := chunks 4096 15 fb ++ [fb.drop 61440]

/-- Where log entries that were issued through a window have their bytes: the decode at issue stays theirs (R244). -/
def windowPlaces (l : List Shoal) : List (Word × Loc) := l.filterMap (fun e => e.loc.map (fun p => (e.va, p)))

/-- Takes a trap of the current context (R457), or ends its continuation where R458 says so. -/
def trapEntry (s : State) (r : Raised) : State :=
  let s := modX s (fun x => { x with raised := none })
  if s.x.tvec = 0 then endContinuation (logCause s s.x.cont.bundle r.cause)
  else if s.x.handler || !frameRangeOk s then endContinuation (logCause s s.x.cont.bundle 0x014)
  else
    let s := drainStores s s.xid
    let (x, taken) := untake { s.x with wbs := [] } s.x.wbs
    let x := landAll { x with wbs := [] } x.wbs
    let refusal := x.asyncs.any (fun a => a.cause = 0x108)
    let x := { x with asyncs := x.asyncs.filter (fun a => a.cause != 0x108) }
    let fb := frameBytes x (causeWord r) (x.pc.setWidth 64) ((if r.async then x.pc else r.fpc).setWidth 64) r.faddr
      (replayEntries x taken r.keep) (ownShoal s s.xid) refusal
    let (s, ok) := storeFrame { s with x := x } s.x.tfp.toNat (framePieces fb)
    if ok then
      let places := windowPlaces (ownShoal s s.xid)
      let s := modCore s s.core (fun k => { k with shoal := k.shoal.filter (fun e => e.ctx != s.xid) })
      modX s (fun x => { enterHandler x r with places := places })
    else endContinuation (logCause s s.x.cont.bundle 0x014)

/-- Whether trap entry must wait: for outstanding FINCs and for divisions that the core's dividers perform after those of its other
contexts (R158, R457 step 3), or while the cluster's pool, in which the frame lies, is frozen (R476). -/
def trapWaits (s : State) : Bool :=
  s.x.fincs != 0 || s.x.wbs.any (dividerOwes { s with x := { s.x with wbs := [] } } s.xid) || ((getCluster s s.cl).ack && windowOf s.x s.x.tfp.toNat != 0)

/-- Raises a cause: trap entry follows at once, unless it must wait; TRAP_ENTRY then takes it. -/
def raise (s : State) (r : Raised) : State :=
  if trapWaits s then modX s (fun x => { x with raised := some r }) else trapEntry s r

/-- The asynchronous cause that the context reports at an instruction boundary, if any: a pending one of the mode it runs in, else
(outside handler mode) the lowest overflow mark (R66, R454). -/
def boundaryCause (x : Context) : Option Async :=
  match x.asyncs.find? (fun a => a.hm = x.handler) with
  | some a => some a
  | none =>
    if x.handler || x.ringOv = 0 then none
    else ((List.range 8).find? (fun i => x.ringOv.getLsbD i)).map (fun i => ⟨0x00B, BitVec.ofNat 32 i, 0, false⟩)

/-- Raises the boundary's cause (R454 A): FPC equals EPC. -/
def raiseAsync (s : State) (a : Async) : State :=
  raise (modX s (fun x => { x with asyncs := x.asyncs.erase a }))
    { cause := a.cause, detail := a.detail, faddr := a.faddr, fpc := s.x.pc, async := true, keep := false }

/-! ### Return from a trap (R185, R462) -/

/-- Reads the frame, piece by piece, as the context's loads do (R185, R258). -/
def readFrame (s : State) (a : Nat) : Nat → Nat → List (List Byte) → Acc (List Byte)
  | 0, _, acc => .ok acc.reverse.flatten s
  | n + 1, left, acc =>
    let m := min 4096 left
    match loadTarget s s.xid needLoad 0 (accDetail false false false) a m 1 with
    | .hold s => .hold s
    | .trap s c d f => .trap s c d f
    | .ok t s => match readBad s t.loc m with
      | some e => .trap (postBad s e t.loc) e (accDetail false false false) (BitVec.ofNat 64 a)
      | none => readFrame s (a + m) n (left - m) (readHome s t.loc m :: acc)

/-- Refills a core's shoal log from the frame's entries, in order; refused entries raise their cause again (R261, R462). -/
def refillShoal (s : State) (l : List Shoal) : State :=
  let s := modCore s s.core (fun k => { k with shoal := k.shoal ++ l })
  l.foldl (fun s e => if e.refused then addAsync s s.xid e.cause (accDetail true false true) e.va else s) s

/-- A log entry of a frame: one that was issued through a window keeps its place (R244), and another whose address lies in a window of the
current context has its place there (R245). DESIGN CHOICE (entry 214): one that fails the checks of its window is refused with 0x103. -/
def windowed (s : State) (e : Shoal) : Shoal :=
  match s.x.places.find? (fun p => p.1 = e.va) with
  | some p => { e with loc := some p.2 }
  | none => match windowOf s.x e.va.toNat with
    | 0 => e
    | w => match windowLoc s s.xid s.x w (e.va.toNat - winBase (winCsr s.x w)) e.bytes.length with
      | .ok l => { e with loc := some l }
      | .error c => if e.refused then e else { e with cause := c, refused := true }

/-- Whether a replay entry is a WAITA or FWAIT of the access side (R99, R100). -/
def Entry.isWait (e : Entry) : Bool :=
  !e.exec && (match e.words with
    | w :: _ => w.extractLsb' 21 7 = 0x48#7 || w.extractLsb' 21 7 = 0x4F#7
    | [] => false)

/-- Reloads the context from its frame and leaves handler mode (R185 steps 1, 2 and 4, R462). A wait that is re-injected goes on with
the time of its issue and its first value (R317). -/
def returnFromTrap (s : State) (fb : List Byte) : State :=
  let (_, ns, _) := frameCounts fb
  let s := modX s (fun x =>
    let y := reloadFrame s x fb
    { sendSignals (y.orFlags x.lateFl) x.lateSigs with
             lateSigs := [], lateFl := 0, wbs := x.wbs.filter (fun w => !w.hm), ws := if y.replay.any Entry.isWait then x.wsOld else none, wsOld := none,
             blockA := false, blockE := false, readyA := none, readyE := none })
  let s := if frameRefusal fb then addAsync s s.xid 0x108 0 0 else s
  modX (refillShoal s ((List.range ns).map (fun i => windowed s (frameShoal fb s.xid s.x.cont.cid i)))) (fun x => { x with places := [] })

/-! ### Issue of P instructions and dispatch of engine instructions -/

/-- How the effect of an access-side instruction ends its attempt. -/
inductive Done where
  /-- Performed: it retires with these flags and its signals. -/
  | ok (s : State) (fl : Flags)
  /-- Long-latency: it leaves the access side; the result of the unit lands later with the flags and signals (R159). -/
  | later (s : State) (dsts : List WbDst) (fl : Flags) (unit : Nat)
  /-- Retires by a taken transfer to `t` (R179, R180). -/
  | jump (s : State) (t : Word)
  /-- Retires and sends fetch to `t` without end processing of its own, its outcomes pushed (R178). -/
  | goto (s : State) (t : Word)
  /-- Waits; `queue` when on a data queue. -/
  | hold (s : State) (queue : Bool)
  /-- Traps at the instruction. -/
  | trap (s : State) (c : Cause) (detail : BitVec 32) (fa : Word)
  /-- Retires, then traps (R182, R183). -/
  | after (s : State) (c : Cause) (detail : BitVec 32)
  /-- The continuation has left the context (R384, R411). -/
  | left (s : State)

/-- The instruction in progress on the access side, or a new one at the PC. -/
def accessEntry (i : Instr) (x : Context) : Entry :=
  x.cur.getD { pc := x.pc, words := encode i, exec := false, waited := false, caps := [], cont := false, prog := 0 }

/-- The access side waits with what it has captured; the deadlock clock restarts unless it was blocked on a queue already (R176). -/
def holdAccess (s : State) (e : Entry) (queue : Bool) : State :=
  modX s (fun x => { x with cur := some e, blockA := queue, since := if queue && x.blockA then x.since else s.tick })

/-- The access-side instruction raises a cause after its ring-wait stage: it becomes a replay entry (R460). -/
def trapAccess (s : State) (e : Entry) (c : Cause) (detail : BitVec 32) (fa : Word) : State :=
  raise (modX s (fun x => { x with cur := some e }))
    { cause := c, detail := detail, faddr := fa, fpc := e.pc, async := false, keep := true }

/-- Retirement of an access-side instruction (R179). -/
def retire (s : State) (e : Entry) (fl : Flags) (sigs : List Nat) : State :=
  stepHalt (modX s (fun x => (((sendSignals (x.orFlags fl) sigs).moved s.tick).advance e)))

/-- The outstanding results of an access-side instruction: one, or for an LDM one for each element (R159, R187). -/
def newResults (dsts : List WbDst) (fl : Flags) (sigs : List Nat) (hm : Bool) (unit tick : Nat) : List Writeback :=
  if unit = 3 then dsts.map (fun d => ⟨[d], fl, sigs, false, hm, 3, tick⟩) else [⟨dsts, fl, sigs, false, hm, unit, tick⟩]

/-- What follows an effect. -/
def finish (e : Entry) (sigs : List Nat) : Done → State
  | .ok s fl => retire s e fl sigs
  | .later s dsts fl unit =>
    retire (modX s (fun x => { x with wbs := x.wbs ++ newResults dsts fl sigs x.handler unit s.tick })) e flagNone []
  | .jump s t =>
    stepHalt (modX s (fun x => ({ (sendSignals x sigs).moved s.tick with loops := popLoops s t x.loops }).goto t |>.outcome t))
  | .goto s t => stepHalt (modX s (fun x => ((sendSignals x sigs).moved s.tick).goto t))
  | .hold s q => holdAccess s (s.x.cur.getD e) q
  | .trap s c d fa => trapAccess s (s.x.cur.getD e) c d fa
  | .after s c d =>
    let s := retire s e flagNone sigs
    raise s { cause := c, detail := d, faddr := 0, fpc := e.pc, async := false, keep := false }
  | .left s => s

/-- Issues instruction `i` on the access side of the current context (R83, R86, R158): ring waits, sources in field order, then
its effect `body` on the captured sources. `m` is its member; only P instructions wait at issue and signal at retirement. -/
def issue (i : Instr) (m : Member) (body : List (Option Src) → State → Done) (s : State) : State :=
  let e := accessEntry i s.x
  let r := actRing s.x (ringOf i)
  if 16 ≤ s.x.outcomes then holdAccess s e true
  else
    match (if e.waited || m ≠ .P then some s.x else ringWait s.x .P r) with
    | none => holdAccess s e false
    | some x =>
      let e := { e with waited := e.waited || decide (m = Member.P) }
      let (caps, x, out) := capture false false (sources i) e.caps x
      let e := { e with caps := caps }
      match out with
      | .wait q => holdAccess { s with x := x } e q
      | .trap c => trapAccess { s with x := x } e c 0 0
      | .ok => finish e (if m = .P then signalsOf .P r else []) (body caps { s with x := { x with cur := some e } })

/-- A cause raised before any ring wait: EPC is word 0's address and no replay entry is made (R460). -/
def earlyTrap (s : State) (c : Cause) (detail : BitVec 32) (fa : Word) : State :=
  raise s { cause := c, detail := detail, faddr := fa, fpc := s.x.pc, async := false, keep := false }

/-- Issue of an instruction with a check of its own before its ring waits (R181, R184, R185). -/
def issueChecked (i : Instr) (chk : State → Option (Cause × BitVec 32)) (m : Member) (body : List (Option Src) → State → Done)
    (s : State) : State :=
  match (if (accessEntry i s.x).waited then none else chk s) with
  | some (c, d) => earlyTrap (modX s (fun x => { x with cur := none })) c d 0
  | none => issue i m body s

/-- The address of word 0 of the access-side instruction in progress. -/
def curPc (s : State) : Word := ((s.x.cur.map Entry.pc).getD s.x.pc).setWidth 64

/-- The address after the words of the access-side instruction in progress. -/
def curNext (s : State) : Word := (s.x.cur.map Entry.next).getD (s.x.pc.setWidth 64 + 4)

/-- A result written to a scalar destination, after which the instruction retires (R78, R82). -/
def putG (s : State) (d : BitVec 6) (w : Word) (fl : Flags) : Done :=
  match writeDst s.x d w with
  | .ok x => .ok { s with x := x } fl
  | .error q => .hold s q

/-- The destination of a long-latency result, marked empty at issue; none while an earlier producer still owes the register, or while
the queue has no room left for it: a result that has issued can always be written (R78, R159). DESIGN CHOICE (entry 215): the pushes that
are outstanding count against the room, and the instruction holds at issue where it has none; R159 and R457 leave this open. -/
def owe (x : Context) (d : BitVec 6) (w : Word) : Option (Context × WbDst) :=
  let r := d.toNat
  if r < 60 then if x.gfull r then some (x.markG r true, .g r w) else none
  else if loadS x false (r - 60) < scalarRoom then some (x, .qs (r - 60) w) else none

/-- A long-latency scalar result of a unit (R158, R159). -/
def oweG (s : State) (d : BitVec 6) (w : Word) (fl : Flags) (unit : Nat) : Done :=
  match owe s.x d w with
  | some (x, dst) => .later { s with x := x } [dst] fl unit
  | none => .hold s (60 ≤ d.toNat)

/-! ### The execute side (R83, R84) -/

/-- How the effect of an M instruction ends its attempt. -/
inductive DoneM where
  | ok (s : State) (fl : Flags)
  | later (s : State) (dsts : List WbDst) (fl : Flags)
  | hold (s : State) (queue : Bool)
  | trap (s : State) (c : Cause) (detail : BitVec 32)

/-- Removes the head of the stream: the execute side has completed it. -/
def popStream (s : State) (fl : Flags) (sigs : List Nat) : State :=
  modX s (fun x => { sendSignals (x.orFlags fl) sigs with stream := x.stream.tail, blockA := false, blockE := false, since := s.tick,
                                                           readyE := none, promE := false })

/-- Puts the head of the stream back with what it has captured; the deadlock clock restarts unless it was blocked on a queue already
(R176). -/
def holdHead (s : State) (e : Entry) (queue : Bool) : State :=
  modX s (fun x => { x with stream := EItem.instr e :: x.stream.tail, blockE := queue,
                            since := if queue && x.blockE then x.since else s.tick })

/-- The execute side raises a cause: the head stays as a replay entry (R460). -/
def trapHead (s : State) (e : Entry) (c : Cause) (detail : BitVec 32) : State :=
  raise (modX s (fun x => { x with stream := EItem.instr e :: x.stream.tail }))
    { cause := c, detail := detail, faddr := 0, fpc := e.pc, async := false, keep := false }

/-- What follows an effect on the execute side. -/
def finishM (e : Entry) (sigs : List Nat) : DoneM → State
  | .ok s fl => popStream s fl sigs
  | .later s dsts fl =>
    popStream (modX s (fun x => { x with wbs := x.wbs ++ [⟨dsts, fl, sigs, true, x.handler, 0, s.tick⟩] })) flagNone []
  | .hold s q => holdHead s e q
  | .trap s c d => trapHead s e c d

/-- Executes the M instruction `e` at the head of the stream: ring waits of member M (unless it is an engine operation), the
sources not forwarded yet, then its effect (R64, R83). `late` answers for an instruction that leaves the execute side before its
source arrives (R195). -/
def executeHead (i : Instr) (engine : Bool) (late : Entry → State → Option DoneM) (body : List (Option Src) → State → DoneM)
    (e : Entry) (s : State) : State :=
  let r := actRing s.x (ringOf i)
  match (if e.waited || engine then some s.x else ringWait s.x .M r) with
  | none => holdHead s e false
  | some x =>
    let e := { e with waited := !engine }
    match late e { s with x := x } with
    | some d => finishM e (if engine then [] else signalsOf .M r) d
    | none =>
    let (caps, x, out) := capture true false (sources i) e.caps x
    let e := { e with caps := caps }
    match out with
    | .wait q => holdHead { s with x := x } e q
    | .trap c => trapHead { s with x := x } e c 0
    | .ok => finishM e (if engine then [] else signalsOf .M r) (body caps { s with x := x })

/-- Replay vector slots that the M instructions of a stream would need: one for each E-family instruction with more than four g
sources (R460). -/
def streamSlots (l : List EItem) : Nat :=
  ((streamEntries l).filter (fun e => match decodeList e.words with
    | .ok (i, _) => 4 < ((sources i).filter SrcF.early).length
    | .error _ => false)).length

/-- Issues an M instruction: in the execute side's turn it executes the head of the stream; otherwise the access side passes it,
forwarding its g-register sources (R83, R460), and the execute side executes it at once when it has caught up. `engine` marks
the operations of opcodes 0x60 to 0x67. -/
def issueLate (i : Instr) (engine : Bool) (late : Entry → State → Option DoneM) (body : List (Option Src) → State → DoneM)
    (s : State) : State :=
  if s.eside then
    match s.x.stream with
    | .instr e :: _ => executeHead i engine late body e s
    | _ => s
  else
    let e := { accessEntry i s.x with exec := true }
    if 16 ≤ s.x.outcomes || 30 ≤ (streamEntries s.x.stream).length || 30 ≤ streamSlots s.x.stream then holdAccess s e (16 ≤ s.x.outcomes)
    else
      let (caps, x, out) := capture false true (sources i) e.caps s.x
      let e := { e with caps := caps }
      match out with
      | .wait q => holdAccess { s with x := x } e q
      | .trap c => trapAccess { s with x := x } { e with exec := false } c 0 0
      | .ok =>
        let first := s.x.stream.isEmpty && !s.lag
        let s := stepHalt { s with x := ({ x.moved s.tick with stream := x.stream ++ [EItem.instr e] }).advance e }
        if first then executeHead i engine late body e s else s

/-- Issues an M instruction that waits for all of its sources. -/
def issueM (i : Instr) (engine : Bool) (body : List (Option Src) → State → DoneM) (s : State) : State :=
  issueLate i engine (fun _ _ => none) body s

end Sys2Proof.Machine
end

