-- ==== Sys2Proof/Machine/Fetch.lean ====
section
/-!
DEFINITION. What comes before an instruction of the current context: fetching and decoding its words (R60, R63, R86), the causes
that are taken at an instruction boundary (R454), the re-injection of replay entries (R462), and debug halt (R475).
-/

namespace Sys2Proof.Machine

/-- The remaining words of an instruction. -/
def fetchRest (s : State) (a : Nat) : Nat → List IWord → Acc (List IWord)
  | 0, acc => .ok acc.reverse s
  | n + 1, acc =>
    match fetchWord s a with
    | .ok w s => fetchRest s (a + 4) n (w :: acc)
    | .hold s => .hold s
    | .trap s c d f => .trap s c d f

/-- What fetching and decoding gives. -/
inductive Fetched where
  | instr (i : Instr) (s : State)
  | wait (s : State)
  | trap (s : State) (c : Cause) (detail : BitVec 32) (fa : Word)

/-- Fetches and decodes the instruction at the PC, in the order of R86 after the checks of R60: words past 2^48 − 1 come before the
alignment. -/
def fetchDecode (s : State) : Fetched :=
  let pc := s.x.pc.toNat
  match s.x.xfer with
  | some t => .trap s 0x105 (accDetail false true false) t
  | none =>
    if 2 ^ 48 < pc + 4 then .trap s 0x105 (accDetail false true false) (BitVec.ofNat 64 pc)
    else if pc % 4 ≠ 0 then .trap s 0x00C 0 0
    else match fetchWord s pc with
      | .hold s => .wait s
      | .trap s c d f => .trap s c d f
      | .ok w s =>
        let n := wordCount w
        if n = 0 then .trap s 0x001 0 0
        else if 2 ^ 48 < pc + 4 * n then .trap s 0x105 (accDetail false true false) (BitVec.ofNat 64 pc)
        else match fetchRest s (pc + 4) (n - 1) [w] with
          | .hold s => .wait s
          | .trap s c d f => .trap s c d f
          | .ok ws s =>
            match decodeList ws with
            | .ok (i, _) => .instr i s
            | .error c => .trap s c 0 0

/-- What the access side does next. -/
inductive AccessTurn where
  /-- Performs an instruction. -/
  | exec (i : Instr) (s : State)
  /-- Moves to a state without performing one. -/
  | goto (s : State)

/-- Re-injects the first replay entry of the context (R462): an execute-side entry goes to the execute side, an access-side entry
is performed; words that raise a decode cause stop the re-injection there. -/
def reinject (s : State) (e : Entry) (rest : List Entry) : AccessTurn :=
  match decodeList e.words with
  | .error c => .goto (raise s { cause := c, detail := 0, faddr := 0, fpc := e.pc, async := false, keep := false })
  | .ok (i, _) =>
    if e.exec then
      .goto (modX s (fun x => { x with replay := rest, stream := x.stream ++ [EItem.instr e] }))
    else .exec i (modX s (fun x => { x with replay := rest, cur := some e }))

/-- Whether the current core issues nothing: it is in debug halt, or its die has stopped (R475, R496). -/
def coreStopped (s : State) : Bool :=
  (getCore s s.core).halt || (getDie s (ctxCluster s.xid / 12)).stopped

/-- The access side's turn: a raised cause, then the 0x105 of a transfer to an address outside the range, whose target no EPC keeps
(R60), then the boundary's asynchronous cause, then replay entries, then the instruction in progress, then the instruction at the PC. -/
def accessTurn (s : State) : AccessTurn :=
  if !s.x.run || coreStopped s then .goto s
  else match s.x.raised with
    | some r => .goto (if trapWaits s then s else trapEntry s r)
    | none =>
      match (if s.x.xfer.isSome then none else boundaryCause s.x) with
      | some a => .goto (raiseAsync s a)
      | none =>
        match s.x.cur, s.x.replay with
        | some e, _ =>
          match decodeList e.words with
          | .ok (i, _) => .exec i s
          | .error c => .goto (earlyTrap s c 0 0)
        | none, e :: rest => reinject s e rest
        | none, [] =>
          match fetchDecode s with
          | .instr i s => .exec i s
          | .wait s => .goto s
          | .trap s c d f => .goto (earlyTrap s c d f)

/-- The execute side's turn: the instruction at the head of the stream, or an outcome that it passes (R84). It waits while the access
side is to raise the 0x105 of a transfer. -/
def executeTurn (s : State) : AccessTurn :=
  if !s.x.run || coreStopped s || s.x.raised.isSome || s.x.xfer.isSome then .goto s
  else match s.x.stream with
    | [] => .goto s
    | .outcome _ :: t => .goto (modX s (fun x => { x with stream := t, since := s.tick }))
    | .instr e :: _ =>
      match decodeList e.words with
      | .ok (i, _) => .exec i { s with eside := true }
      | .error _ => .goto s

end Sys2Proof.Machine
end

