-- ==== Sys2Proof/Machine/Engine.lean ====
section
/-!
DEFINITION. What every engine operation shares: issue into a queue of the cluster (R83, R386, R395, R398), the choice of a queue
head and its start (R64, R293, R386), the accesses of a step at the homes of its bytes (R258, R292, R332), buffer tags (R265),
and the end of a step (R404, R499).
-/

namespace Sys2Proof.Machine

/-! ### Issue -/

/-- The number of a control core's queue into an engine (R386): engine 0 load copy, 1 store copy, 2 matrix sequencer. -/
def engQueue (eng core : Nat) : Nat := eng * 4 + core

/-- Operations that one queue holds (R386). -/
def queueRoom : Nat := 32

/-- The captured scalars of an instruction by source field. -/
def capWords (caps : List (Option Src)) : List Word := (List.range caps.length).map (srcS caps)

/-- Handle register `r` of a context. -/
def Context.hval (x : Context) (r : Nat) : HReg := vecGet x.h r {}

/-- Layout register `r` of a context. -/
def Context.yval (x : Context) (r : Nat) : BitVec 256 := vecGet x.y r 0

/-- The entry of a new operation (R396, R397). -/
def newEntry (x : Context) (op : Op) (pri : BitVec 2) (dt : Bool) : TokEntry :=
  { state := .queued, pri := pri, bundle := x.cont.bundle, node := x.cont.node, owner := if dt then none else some x.cont.cid,
    released := false, held := false, scope := 0, done := 0, total := 0, fr := {}, op := op, waited := false, started := false, stop := none,
    flags := 0, lanes := [], todo := none, quit := false }

/-- The operation of an instruction with all that is captured at issue (R83, R133, R330, R345). -/
def newOp (s : State) (i : Instr) (eng : Nat) (hs : List (BitVec 5)) (ys : List (BitVec 256)) (gs : List Word) : Op :=
  { instr := i, ring := actRing s.x (ringOf i), member := eng, ctx := s.xid, cid := s.x.cont.cid, core := ctxLocalCore s.xid,
    gs := gs, hs := hs.map (fun r => s.x.hval r.toNat), hregs := hs.map (·.toNat), ys := ys, seed := s.x.seed, pkbase := s.x.pkbase, since := s.tick, seq := s.nextId,
    pend := s.x.pend }

/-- Puts an operation into its queue and table and its token into k register `k`; none while the queue or the table is full. -/
def issueOp (s : State) (op : Op) (k : BitVec 4) (pri : BitVec 2) (dt : Bool) : Option State :=
  let key := engQueue op.member op.core
  let q := tabGet [] key (getCluster s s.cl).queues
  if queueRoom ≤ q.length then none
  else match allocTok s s.cl (newEntry s.x op pri dt) with
    | none => none
    | some (slot, s) =>
      let s := modCluster (takeId s).2 s.cl (fun c => { c with queues := tabPut key (q ++ [slot]) c.queues })
      some (modX s (fun x => { x with k := vecSet x.k k.toNat ((getCluster s s.cl).tok slot) }))

/-- Whether the cluster's table is full. -/
def tableFull (s : State) : Bool := (getCluster s s.cl).nextSlot.isNone

/-- The opcode of word 0 (R61). -/
def opcodeOf (w : IWord) : Nat := (w.extractLsb' 21 7).toNat

/-- Whether word 0 is a matrix operation, opcodes 0x60 to 0x67. -/
def isEngineWord (w : IWord) : Bool := 0x60 ≤ opcodeOf w && opcodeOf w ≤ 0x67

/-- Whether the execute side has still to issue a matrix operation that writes k register `k`, so that the access side waits for
it before it reads or writes the register. -/
def streamOwesK (x : Context) (k : BitVec 4) : Bool :=
  (streamEntries x.stream).any (fun e => match e.words with
    | w :: _ => isEngineWord w && w.extractLsb' 17 4 = k
    | [] => false)

/-- Whether the execute side has still to issue a matrix operation, which captures its handles then. -/
def streamOwesH (x : Context) : Bool :=
  (streamEntries x.stream).any (fun e => match e.words with
    | w :: _ => isEngineWord w
    | [] => false)

/-- Issues an L or S operation from the access side (R83, R85). -/
def issueLS (i : Instr) (eng : Nat) (k : BitVec 4) (pri : BitVec 2) (dt : Bool) (hs : List (BitVec 5)) (ys : List (BitVec 3))
    (s : State) : State :=
  issue i (engMember eng) (fun caps s =>
    if streamOwesK s.x k then .hold s false
    else
      let op := newOp s i eng hs (ys.map (fun r => s.x.yval r.toNat)) (capWords caps)
      match issueOp s op k pri dt with
      | some s => .ok (modX s (fun x => { x with tokA := none })) flagNone
      | none => .hold (modX s (fun x => { x with tokA := if tableFull s then some (x.tokA.getD s.tick) else none })) false) s

/-- Issues a matrix operation from the execute side (R83, R242). -/
def issueMat (i : Instr) (k : BitVec 4) (pri : BitVec 2) (dt : Bool) (hs : List (BitVec 5)) (s : State) : State :=
  issueM i true (fun caps s =>
    match issueOp s (newOp s i 2 hs [] (capWords caps)) k pri dt with
    | some s => .ok (modX s (fun x => { x with tokE := none })) flagNone
    | none => .hold (modX s (fun x => { x with tokE := if tableFull s then some (x.tokE.getD s.tick) else none })) false) s

/-- Cycles after which a blocked issue traps (R398). -/
def issueLimit : Nat := 65536

/-- Whether the issue of an operation has been blocked for the limit (R398). -/
def issueDue (s : State) (t : Option Nat) : Bool := t.any (fun t => issueLimit ≤ s.tick - t)

/-- TOKEN_ISSUE_TIMEOUT of the current context: the execute side's blocked operation, which comes first in program order (R457), or the
access side's raises 0x084 with its replay entry captured (R398). -/
def tokenTimeout (s : State) : State :=
  match (if issueDue s s.x.tokE then s.x.stream.head? else none), (if issueDue s s.x.tokA then s.x.cur else none) with
  | some (.instr e), _ => trapHead (modX s (fun x => { x with tokE := none })) e 0x084 0
  | _, some e => trapAccess (modX s (fun x => { x with tokA := none })) e 0x084 0 0
  | _, none => s

/-! ### Queue heads and starts -/

/-- The heads of an engine's four queues, from the core after the one served last (R386). -/
def engHeads (c : Cluster) (eng : Nat) : List (Nat × Nat) :=
  (List.range 4).filterMap (fun j =>
    let core := (tabGet 3 eng c.rr + 1 + j) % 4
    ((tabGet [] (engQueue eng core) c.queues).head?).map (fun slot => (core, slot)))

/-- Whether the context that issued an operation still runs its continuation. -/
def issuerRuns (s : State) (o : Op) : Bool := let x := getCtx s o.ctx; x.run && x.cont.cid = o.cid

/-- Whether the ring waits of an operation are met. A continuation that has left its context no longer holds ring counters; the
waits of its operations count as met. -/
def ringMet (s : State) (t : TokEntry) : Bool :=
  t.waited || !issuerRuns s t.op || (ringWait (getCtx s t.op.ctx) (engMember t.op.member) t.op.ring).isSome

/-- Consumes the ring waits of an operation once. -/
def takeRing (s : State) (cl slot : Nat) (t : TokEntry) : State :=
  if t.waited then s
  else
    let s := if issuerRuns s t.op then
        match ringWait (getCtx s t.op.ctx) (engMember t.op.member) t.op.ring with
        | some x => putCtx s t.op.ctx x
        | none => s
      else s
    modTok s cl slot (fun t => { t with waited := true })

/-- Whether the accesses of the issuer before the operation have been performed, apart from write-throughs that the start itself
waits for (R293). -/
def forkReady (s : State) (o : Op) : Bool :=
  (!issuerRuns s o || (ownShoal s o.ctx).isEmpty) && !s.net.any (fun p => p.ctx = o.ctx && p.cid = o.cid && !p.applied)

/-- Whether the pending set that an operation captured at issue lets a release-class access of it reach pod die `dst`: the writes to other
dies have been acknowledged, and those to `dst` applied, so that its packet meets its causal vector there (R287–R289). -/
def opReleases (s : State) (o : Op) (dst : Nat) : Bool :=
  o.pend.all (fun e => s.net.all (fun p => !(p.src = e.src && p.dst = e.dst && p.count = e.count) || (e.dst = dst && p.applied)))

/-- The issuer's write-throughs reach their homes before the operation starts (R293). -/
def forkDrain (s : State) (o : Op) : State := if issuerRuns s o then drainStores s o.ctx else s

/-- Whether engines of a cluster move: it is neither frozen nor held for a checkpoint, and its die has not stopped (R466, R475, R496). -/
def enginesRun (s : State) (cl : Nat) : Bool := !(getCluster s cl).freeze && !(getCluster s cl).hold && !(getDie s (cl / 12)).stopped

/-- Whether an operation moves: its engine does, or it completes the step that it is in (R476, R496, R499). -/
def opMoves (s : State) (cl : Nat) (t : TokEntry) : Bool := enginesRun s cl || t.todo.isSome

/-- The first element with the greatest rank. -/
def bestBy {α : Type} (rank : α → Nat) : List α → Option α
  | [] => none
  | a :: t => match bestBy rank t with
    | none => some a
    | some b => if rank a < rank b then some b else some a

/-- The head that an engine serves among those that may start: the aged one that has waited longest, else the one of highest
priority, round-robin (R386). -/
def pickHead (s : State) (cl eng : Nat) (may : Nat → TokEntry → Bool) : Option (Nat × Nat × TokEntry) :=
  let c := getCluster s cl
  let cands := (engHeads c eng).filterMap (fun h =>
    match getTok s cl h.2 with
    | some t => if ringMet s t && forkReady s t.op && may h.2 t then some (h.1, h.2, t) else none
    | none => none)
  match bestBy (fun h => s.tick - h.2.2.op.since) (cands.filter (fun h => tabFind (engQueue eng h.1) c.aged = some h.2.1)) with
  | some h => some h
  | none => bestBy (fun h => h.2.2.pri.toNat) cands

/-- Serves a head: its ring waits are consumed and the issuer's stores performed. -/
def serveHead (s : State) (cl eng core slot : Nat) (t : TokEntry) : State :=
  let s := modCluster s cl (fun c =>
    { c with rr := tabPut eng core c.rr, aged := tabDel (engQueue eng core) c.aged })
  forkDrain (takeRing s cl slot t) t.op

/-- Pops an operation from its queue: it has started. -/
def popHead (s : State) (cl slot : Nat) : State := modTok (dequeueOp s cl slot) cl slot (fun t => { t with started := true })

/-- Cycles after which a waiting head is served next (R386). -/
def headLimit : Nat := 2048

/-- ENGINE_HEAD_AGING (R386): the heads that have waited 2,048 cycles are served next, once they may start, the longest first. -/
def headAging (s : State) (cl eng : Nat) : State :=
  let old := (engHeads (getCluster s cl) eng).filter (fun h => (getTok s cl h.2).any (fun t => headLimit ≤ s.tick - t.op.since))
  modCluster s cl (fun c => { c with aged := old.foldl (fun l h => tabPut (engQueue eng h.1) h.2 l) c.aged })

/-! ### Accesses of a step -/

/-- How an access of an engine's step ends its attempt. -/
inductive EAcc (α : Type) where
  | ok (v : α) (s : State)
  | hold (s : State)
  | fail (s : State) (c : Cause) (loc : Word)

/-- What follows an access. -/
def EAcc.bind {α β : Type} (a : EAcc α) (k : α → State → EAcc β) : EAcc β :=
  match a with
  | .ok v s => k v s
  | .hold s => .hold s
  | .fail s c l => .fail s c l

/-- The pattern table that an operation's decoding uses: its issuer's (R122). DESIGN CHOICE (log entry 185): of an operation whose issuer
has left its context, or that a C or S node issued, the table is empty, as at the start of a continuation (R128). -/
def opPats (s : State) (o : Op) : Vector (Option (BitVec 1024)) 12 :=
  if issuerRuns s o then (getCtx s o.ctx).pats else Vector.replicate 12 none

/-- The operation scope of a location (R292). -/
def locScope (s : State) (cl : Nat) (l : Loc) (tr : Option Trans) : BitVec 2 :=
  match l with
  | .pool c _ => if c = cl then 0 else 1
  | .mem pa => if isHost pa || tr.any (fun t => t.range = 2) then 3 else if isRemote s pa then 2 else 1

/-- Widens an operation's scope (R292). -/
def widenOp (s : State) (cl slot : Nat) (sc : BitVec 2) : State :=
  match getTok s cl slot with
  | some t => if t.scope.toNat < sc.toNat then modTok s cl slot (fun t => { t with scope := sc }) else s
  | none => s

/-- Whether a record stands for the step in progress of an operation, or (`log`) for its entries in its engine's log. -/
def engRecord (log : Bool) (cl slot : Nat) (f : Fault1) : Bool := f.eng = some (cl, slot) && (f.kind = kindLogged) = log

/-- Drops the held record of an operation's step. -/
def dropEngHeld (s : State) (cl slot : Nat) : State :=
  if s.faults = [] then s else { s with faults := s.faults.filter (fun f => !engRecord false cl slot f) }

/-- Drops the record of an operation's entries in its engine's log. -/
def dropLogHeld (s : State) (cl slot : Nat) : State :=
  if s.faults = [] then s else { s with faults := s.faults.filter (fun f => !engRecord true cl slot f) }

/-- A step's access that fails translation: held for service, then its cause (R256, R258, R332). -/
def engHeld {α : Type} (s : State) (cl slot : Nat) (t : TokEntry) (va : Nat) (f : TFault) : EAcc α :=
  match s.faults.find? (engRecord false cl slot) with
  | some r =>
    match r.refused with
    | some e => .fail (dropEngHeld s cl slot) e r.va
    | none => .hold s
  | none =>
    if f.cause = 0x106 && !f.host then .fail s f.cause (BitVec.ofNat 64 va)
    else .hold { s with faults := s.faults ++ [{ ctx := none, eng := some (cl, slot), va := BitVec.ofNat 64 va, kind := 3, cause := f.cause,
                                                 since := s.tick, refused := none, hostBacked := f.host, prg := none, seq := none, chan := none, grace := 1000 * s.hub.mpctl,
                                                 fn := jobFn s t.bundle, space := jobSpace s t.bundle }] }

/-- The translation of a global address for an operation (R255). -/
def engTranslate (s : State) (t : TokEntry) (need : Need) (va : Nat) : Except TFault Trans :=
  translate s (jobSpace s t.bundle) (jobFn s t.bundle) (opPats s t.op) need va

/-- Pieces of `n` bytes from `a` that do not cross a page of 16 KiB. -/
def pagesOf (a : Nat) : Nat → Nat → List (Nat × Nat)
  | 0, _ => []
  | f + 1, n => if n = 0 then [] else
    let m := min n (16384 - a % 16384)
    (a, m) :: pagesOf (a + m) f (n - m)

/-- The pieces of a run of bytes by page. -/
def pageRuns (a n : Nat) : List (Nat × Nat) := pagesOf a (n / 16384 + 2) n

/-- Where one piece of an operation's bytes lies: at a scratchpad offset (kind 1) or at a global address; the operation ends where no route
leads to its home (R446, R490), or a die-to-die link drops its packet by its job key (R447). -/
def engTarget (s : State) (cl slot : Nat) (t : TokEntry) (kind : Nat) (need : Need) (a : Nat) : EAcc Target :=
  if kind = 1 then .ok ⟨.pool cl (scratchBase (getCluster s cl).poolpw + a), none⟩ s
  else if 2 ^ 57 ≤ a then .fail s 0x105 (BitVec.ofNat 64 a)
  else match engTranslate s t need a with
    | .error f => engHeld s cl slot t a f
    | .ok tr =>
      if unreached s cl (.mem tr.pa) then .fail s 0x381 (BitVec.ofNat 64 a)
      else if foreign s cl (.mem tr.pa) then .fail (postForeign s t.bundle (.mem tr.pa)) 0x381 (BitVec.ofNat 64 a)
      else .ok ⟨.mem tr.pa, some tr⟩ (dropEngHeld s cl slot)

/-- The address of byte `off` of a handle's range: a scratchpad offset or a global address (R250, R422). -/
def hAddr (h : HReg) (off : Nat) : Nat := (hBase h.bits).toNat + off

/-- Reads the pieces of an operation's bytes, in order. -/
def engReadRuns (s : State) (cl slot : Nat) (t : TokEntry) (kind : Nat) : List (Nat × Nat) → List (List Byte) → EAcc (List Byte)
  | [], acc => .ok acc.reverse.flatten s
  | (a, n) :: rest, acc =>
    match engTarget s cl slot t kind needLoad a with
    | .hold s => .hold s
    | .fail s c l => .fail s c l
    | .ok tg s =>
      match readBad s tg.loc n with
      | some e => .fail (postBad s e tg.loc) e (BitVec.ofNat 64 a)
      | none => engReadRuns (widenOp s cl slot (locScope s cl tg.loc tg.tr)) cl slot t kind rest (readHome s tg.loc n :: acc)

/-- Reads `n` bytes at offset `off` of a handle. -/
def engRead (s : State) (cl slot : Nat) (t : TokEntry) (h : HReg) (off n : Nat) : EAcc (List Byte) :=
  engReadRuns s cl slot t (hKind h.bits) (pageRuns (hAddr h off) n) []

/-- Reads several runs of one handle. -/
def engReadAll (s : State) (cl slot : Nat) (t : TokEntry) (h : HReg) : List (Nat × Nat) → List (List Byte) → EAcc (List (List Byte))
  | [], acc => .ok acc.reverse s
  | (o, n) :: rest, acc =>
    match engRead s cl slot t h o n with
    | .hold s => .hold s
    | .fail s c l => .fail s c l
    | .ok bs s => engReadAll s cl slot t h rest (bs :: acc)

/-- Checks that every piece of a run can be written now; a remote line waits for the die's earlier writes to it (R286). -/
def engCanWrite (s : State) (cl slot : Nat) (t : TokEntry) (kind : Nat) : List (Nat × Nat) → List Loc → EAcc (List Loc)
  | [], acc => .ok acc.reverse s
  | (a, n) :: rest, acc =>
    match engTarget s cl slot t kind needStore a with
    | .hold s => .hold s
    | .fail s c l => .fail s c l
    | .ok tg s =>
      match writeBad s tg.loc n with
      | some e => .fail (postBad s e tg.loc) e (BitVec.ofNat 64 a)
      | none =>
        if dieBlocks s (podDie s (cl / 12)) tg.loc n then .hold s
        else engCanWrite (widenOp s cl slot (locScope s cl tg.loc tg.tr)) cl slot t kind rest (tg.loc :: acc)

/-! ### Handle checks at start (R429) -/

/-- Steps 1 to 5 of R429 for a handle register with number `reg`: `lo` and `hi` bound the footprint by offset from the base. A
pool region must also lie in the cluster's partition as it stands. -/
def checkHandle (s : State) (cl : Nat) (t : TokEntry) (h : HReg) (reg : BitVec 5) (rights : BitVec 8) (lo hi : Int) :
    Option (Cause × Word) :=
  let loc := handleWhere h reg.toNat
  let c := handleCheck s (jobSpace s t.bundle) h rights
  if c ≠ 0 then some (c, loc)
  else if lo < 0 || (hExtent h.bits : Int) < hi then some (0x204, loc)
  else if hKind h.bits = 1 && (scratchLen (getCluster s cl).poolpw : Int) < (hBase h.bits).toNat + hi then some (0x204, loc)
  else none

/-- The first failing check of a list. -/
def firstFail (l : List (Option (Cause × Word))) : Option (Cause × Word) := l.findSome? id

/-- The kind of a handle register for the kind checks, which come before those of R429. -/
def kindOf (h : HReg) : Nat := hKind h.bits

/-! ### Steps -/

/-- The rounding lanes of an operation: lane `j mod 256` steps and gives its state (R133). -/
def privLane (seed : Word) (lanes : Tab (BitVec 32)) (j : Nat) : BitVec 32 × Tab (BitVec 32) :=
  let l := j % 256
  let st := lfsrStep (tabGet (seedLane (seed.setWidth 32) l) l lanes)
  (st, tabPut l st lanes)

/-- A step is done: the operation ends when it was the last one, or at a stop that was asked for (R404, R499). -/
def endStep (s : State) (cl slot : Nat) : State :=
  match getTok s cl slot with
  | none => s
  | some t =>
    if t.total ≤ t.done then opEnd s cl slot .done {}
    else match t.stop with
      | some c => opEnd s cl slot .cancelled { cause := c, loc := t.fr.loc }
      | none => s

/-- Before a step: a stop that was asked for may fall on this boundary or on the next one (R499). -/
def stopNow (s : State) (t : TokEntry) : Bool × State :=
  match t.stop with
  | none => (false, s)
  | some _ => takeBit s

/-- The next running operation of a cluster that `sel` selects, after the one served last under key `key`. -/
def pickRunning (s : State) (cl key : Nat) (sel : TokEntry → Bool) : Option (Nat × TokEntry) :=
  let c := getCluster s cl
  let run := c.toks.filter (fun e => e.2.state = .running && sel e.2)
  let last := tabGet 512 key c.rr
  match run.find? (fun e => last < e.1) with
  | some e => some e
  | none => run.head?

/-- Notes the operation served last under a key. -/
def noteServed (s : State) (cl key slot : Nat) : State := modCluster s cl (fun c => { c with rr := tabPut key slot c.rr })

end Sys2Proof.Machine
end

