-- ==== Sys2Proof/Machine/Authority.lean ====
section
/-!
DEFINITION. The handle authority (R425): when it mints, and the handle that it mints (R422, R424).
-/

namespace Sys2Proof.Machine

/-- What a request asks for: slot, base, extent, rights and kind (R426, R433). -/
structure MintReq where
  slot   : Nat
  base   : Word
  extent : Nat
  rights : BitVec 8
  kind   : Nat
  deriving DecidableEq, Repr

/-- Whether every argument lies in the range that a handle's fields allow (R346, R422). -/
def mintArgsOk (r : MintReq) : Bool :=
  r.slot < 2 ^ 20 && r.extent ≠ 0 && r.extent < 2 ^ 48 &&
    (match r.kind with
      | 0 => r.base.toNat % 128 = 0 && r.base.toNat < 2 ^ 57
      | 1 => r.base.toNat < 2 ^ 24
      | 2 => r.base.toNat / 2 ^ 25 % 2 ^ 22 = 0 && r.base.toNat / 2 ^ 47 % 16 < 12
      | 3 => r.base.toNat < 2 ^ 10 && r.extent = 1
      | _ => false)

/-- The clusters' pool slots are live for the tenant whose node the cluster runs, until they retire past their last generation (R427). -/
def poolSlotOf (s : State) (space slot : Nat) : Option Slot :=
  if 0x10 ≤ slot && slot < 0x40 then
    let c := getCluster s (slot - 0x10)
    match c.node with
    | some (b, _) =>
      if jobSpace s b = space then
        some { gen := c.slotGen, live := true, base := 0, len := scratchLen c.poolpw, rights := rightR ||| rightW ||| rightM ||| rightN,
               kind := 1, retired := slotSpent c }
      else none
    | none => none
  else tabFind (slotKey space slot) s.slots

/-- The status of a request for a tenant in address space `space` under the mint policy of function `fn`: 0 when it is minted (R425,
R426). -/
def mintStatus (s : State) (space fn : Nat) (r : MintReq) : Nat :=
  if !mintArgsOk r then 5
  else match poolSlotOf s space r.slot with
    | none => 2
    | some v =>
      if !v.live || v.revoking || v.retired then 2
      else if r.base.toNat < v.base.toNat || v.base.toNat + v.len < r.base.toNat + r.extent then 3
      else if r.kind ≠ v.kind.toNat || r.rights &&& ~~~v.rights ≠ 0 || r.rights &&& ~~~((getFn s fn).rights.extractLsb' (8 * r.kind) 8) ≠ 0 then 1
      else 0

/-- The handle of a request (R422, R424). -/
def mintBits (s : State) (space : Nat) (r : MintReq) : BitVec 256 :=
  sealed s (handleBody (slotGen s space r.slot) r.slot (spacePart space) (spaceTenant space) r.kind r.rights r.extent r.base)

end Sys2Proof.Machine
end

