-- ==== Sys2Proof/Machine/Scalar.lean ====
section
/-!
DEFINITION. The integer instructions of the access side (R161–R166): RRR, unary, RRI and RL. Each reads its sources, computes a
64-bit result and writes it to d; none touches FSTAT.
-/

namespace Sys2Proof.Machine

/-! ### Values -/

/-- A truth value as a register holds it. -/
def truth (b : Bool) : Word := if b then 1 else 0

/-- A signed integer clamped to 64 bits (R161). -/
def clamp64 (v : Int) : Word := BitVec.ofInt 64 (clampInt (-(2 ^ 63 : Nat)) ((2 ^ 63 : Nat) - 1) v)

/-- Bits [127:64] of the signed product. -/
def mulHigh (a b : Word) : Word := BitVec.ofInt 64 (a.toInt * b.toInt / ((2 ^ 64 : Nat) : Int))

/-- Bits [127:64] of the unsigned product. -/
def mulHighU (a b : Word) : Word := BitVec.ofNat 64 (a.toNat * b.toNat / 2 ^ 64)

/-- Signed quotient, truncated toward zero; −1 for a zero divisor; −2^63 / −1 wraps to −2^63 (R162). -/
def divSigned (a b : Word) : Word := if b = 0 then BitVec.allOnes 64 else BitVec.ofInt 64 (a.toInt.tdiv b.toInt)

/-- Unsigned quotient; all ones for a zero divisor (R162). -/
def divUnsigned (a b : Word) : Word := if b = 0 then BitVec.allOnes 64 else BitVec.ofNat 64 (a.toNat / b.toNat)

/-- Signed remainder with the sign of a; a for a zero divisor (R162). -/
def remSigned (a b : Word) : Word := if b = 0 then a else BitVec.ofInt 64 (a.toInt.tmod b.toInt)

/-- Unsigned remainder; a for a zero divisor (R162). -/
def remUnsigned (a b : Word) : Word := if b = 0 then a else BitVec.ofNat 64 (a.toNat % b.toNat)

/-- The count of a register shift: b[5:0] (R161). -/
def shiftCount (b : Word) : Nat := b.toNat % 64

/-- Number of leading zero bits; 64 for zero (R164). -/
def leadingZeros (a : Word) : Word := if a = 0 then 64 else BitVec.ofNat 64 (63 - a.toNat.log2)

/-- Number of trailing zero bits; 64 for zero (R164). -/
def trailingZeros (a : Word) : Word := BitVec.ofNat 64 (((List.range 64).find? (fun i => a.getLsbD i)).getD 64)

/-- Number of one bits (R164). -/
def onesCount (a : Word) : Word := BitVec.ofNat 64 ((List.range 64).countP (fun i => a.getLsbD i))

/-- Bit i moved to bit 63 − i (R164). -/
def bitReverse (a : Word) : Word :=
  BitVec.ofNat 64 ((List.range 64).foldl (fun r i => r * 2 + (if a.getLsbD i then 1 else 0)) 0)

/-- An immediate of 8 bits, sign-extended (R165). -/
def imm8 (i : BitVec 8) : Word := i.signExtend 64

/-- A bit field of a, zero- or sign-extended (R166). -/
def fieldGet (a : Word) (pos width : Nat) (sx : Bool) : Word :=
  let v := bitsOf a.toNat pos width
  if sx then BitVec.ofInt 64 (signed width v) else BitVec.ofNat 64 v

/-- A bit field of d replaced by the low bits of a (R166). -/
def fieldPut (d a : Word) (pos width : Nat) : Word :=
  let mask : Word := BitVec.ofNat 64 ((2 ^ width - 1) <<< pos)
  (d &&& ~~~mask) ||| ((a <<< pos) &&& mask)

/-! ### Shared forms -/

/-- The outcome of every meaning. -/
abbrev Out := Host.Outcome State Fault Refusal

/-- An instruction with a scalar result at once from its captured sources (R158). -/
def scalarOp (i : Instr) (d : BitVec 6) (fn : List (Option Src) → Word) (s : State) : State :=
  issue i .P (fun caps s => putG s d (fn caps) flagNone) s

/-- An instruction with a long-latency scalar result (R158, R159). -/
def scalarLong (i : Instr) (d : BitVec 6) (fn : List (Option Src) → Word) (s : State) : State :=
  issue i .P (fun caps s => oweG s d (fn caps) flagNone 1) s

/-! ### RRR (R161–R163) -/

/-- ADD: a + b (R161). -/
def execAdd (f : RRR) (s : State) : Out :=
  .next (scalarOp (.add f) f.d (fun c => srcS c 0 + srcS c 1) s)

/-- ADDS: the signed sum clamped (R161). -/
def execAdds (f : RRR) (s : State) : Out :=
  .next (scalarOp (.adds f) f.d (fun c => clamp64 ((srcS c 0).toInt + (srcS c 1).toInt)) s)

/-- SUB: a − b (R161). -/
def execSub (f : RRR) (s : State) : Out :=
  .next (scalarOp (.sub f) f.d (fun c => srcS c 0 - srcS c 1) s)

/-- SUBS: the signed difference clamped (R161). -/
def execSubs (f : RRR) (s : State) : Out :=
  .next (scalarOp (.subs f) f.d (fun c => clamp64 ((srcS c 0).toInt - (srcS c 1).toInt)) s)

/-- MUL: bits [63:0] of a × b (R161). -/
def execMul (f : RRR) (s : State) : Out :=
  .next (scalarOp (.mul f) f.d (fun c => srcS c 0 * srcS c 1) s)

/-- MULH: bits [127:64] of the signed product (R161). -/
def execMulh (f : RRR) (s : State) : Out :=
  .next (scalarOp (.mulh f) f.d (fun c => mulHigh (srcS c 0) (srcS c 1)) s)

/-- MULHU: bits [127:64] of the unsigned product (R161). -/
def execMulhu (f : RRR) (s : State) : Out :=
  .next (scalarOp (.mulhu f) f.d (fun c => mulHighU (srcS c 0) (srcS c 1)) s)

/-- DIV: signed quotient, long-latency (R158, R161, R162). -/
def execDiv (f : RRR) (s : State) : Out :=
  .next (scalarLong (.div f) f.d (fun c => divSigned (srcS c 0) (srcS c 1)) s)

/-- DIVU: unsigned quotient, long-latency (R161, R162). -/
def execDivu (f : RRR) (s : State) : Out :=
  .next (scalarLong (.divu f) f.d (fun c => divUnsigned (srcS c 0) (srcS c 1)) s)

/-- REM: signed remainder, long-latency (R161, R162). -/
def execRem (f : RRR) (s : State) : Out :=
  .next (scalarLong (.rem f) f.d (fun c => remSigned (srcS c 0) (srcS c 1)) s)

/-- REMU: unsigned remainder, long-latency (R161, R162). -/
def execRemu (f : RRR) (s : State) : Out :=
  .next (scalarLong (.remu f) f.d (fun c => remUnsigned (srcS c 0) (srcS c 1)) s)

/-- AND: a AND b (R161). -/
def execAnd (f : RRR) (s : State) : Out :=
  .next (scalarOp (.and f) f.d (fun c => srcS c 0 &&& srcS c 1) s)

/-- OR: a OR b (R161). -/
def execOr (f : RRR) (s : State) : Out :=
  .next (scalarOp (.or f) f.d (fun c => srcS c 0 ||| srcS c 1) s)

/-- XOR: a XOR b (R161). -/
def execXor (f : RRR) (s : State) : Out :=
  .next (scalarOp (.xor f) f.d (fun c => srcS c 0 ^^^ srcS c 1) s)

/-- ANDN: a AND NOT b (R161). -/
def execAndn (f : RRR) (s : State) : Out :=
  .next (scalarOp (.andn f) f.d (fun c => srcS c 0 &&& ~~~(srcS c 1)) s)

/-- SHL: a << b[5:0] (R161). -/
def execShl (f : RRR) (s : State) : Out :=
  .next (scalarOp (.shl f) f.d (fun c => srcS c 0 <<< shiftCount (srcS c 1)) s)

/-- SHR: a >> b[5:0], zero fill (R161). -/
def execShr (f : RRR) (s : State) : Out :=
  .next (scalarOp (.shr f) f.d (fun c => srcS c 0 >>> shiftCount (srcS c 1)) s)

/-- SRA: a >> b[5:0], sign fill (R161). -/
def execSra (f : RRR) (s : State) : Out :=
  .next (scalarOp (.sra f) f.d (fun c => (srcS c 0).sshiftRight (shiftCount (srcS c 1))) s)

/-- ROL: a rotated left by b[5:0] (R161). -/
def execRol (f : RRR) (s : State) : Out :=
  .next (scalarOp (.rol f) f.d (fun c => (srcS c 0).rotateLeft (shiftCount (srcS c 1))) s)

/-- MIN: the smaller, signed (R161). -/
def execMin (f : RRR) (s : State) : Out :=
  .next (scalarOp (.min f) f.d (fun c => if (srcS c 0).slt (srcS c 1) then srcS c 0 else srcS c 1) s)

/-- MINU: the smaller, unsigned (R161). -/
def execMinu (f : RRR) (s : State) : Out :=
  .next (scalarOp (.minu f) f.d (fun c => if srcS c 0 < srcS c 1 then srcS c 0 else srcS c 1) s)

/-- MAX: the larger, signed (R161). -/
def execMax (f : RRR) (s : State) : Out :=
  .next (scalarOp (.max f) f.d (fun c => if (srcS c 0).slt (srcS c 1) then srcS c 1 else srcS c 0) s)

/-- MAXU: the larger, unsigned (R161). -/
def execMaxu (f : RRR) (s : State) : Out :=
  .next (scalarOp (.maxu f) f.d (fun c => if srcS c 0 < srcS c 1 then srcS c 1 else srcS c 0) s)

/-- SLT: 1 if a < b signed (R161). -/
def execSlt (f : RRR) (s : State) : Out :=
  .next (scalarOp (.slt f) f.d (fun c => truth ((srcS c 0).slt (srcS c 1))) s)

/-- SLTU: 1 if a < b unsigned (R161). -/
def execSltu (f : RRR) (s : State) : Out :=
  .next (scalarOp (.sltu f) f.d (fun c => truth (decide (srcS c 0 < srcS c 1))) s)

/-- SEQ: 1 if a = b (R161). -/
def execSeq (f : RRR) (s : State) : Out :=
  .next (scalarOp (.seq f) f.d (fun c => truth (decide (srcS c 0 = srcS c 1))) s)

/-- SNE: 1 if a ≠ b (R161). -/
def execSne (f : RRR) (s : State) : Out :=
  .next (scalarOp (.sne f) f.d (fun c => truth (decide (srcS c 0 ≠ srcS c 1))) s)

/-- CMOV: (b ≠ 0) ? a : d, with d read as a third source (R161, R163). -/
def execCmov (f : RRR) (s : State) : Out :=
  .next (scalarOp (.cmov f) f.d (fun c => if srcS c 1 ≠ 0 then srcS c 0 else srcS c 2) s)

/-! ### Unary group (R164) -/

/-- CLZ: leading zero bits (R164). -/
def execClz (f : RR) (s : State) : Out :=
  .next (scalarOp (.clz f) f.d (fun c => leadingZeros (srcS c 0)) s)

/-- CTZ: trailing zero bits (R164). -/
def execCtz (f : RR) (s : State) : Out :=
  .next (scalarOp (.ctz f) f.d (fun c => trailingZeros (srcS c 0)) s)

/-- POPC: one bits (R164). -/
def execPopc (f : RR) (s : State) : Out :=
  .next (scalarOp (.popc f) f.d (fun c => onesCount (srcS c 0)) s)

/-- BREV: bit order reversed (R164). -/
def execBrev (f : RR) (s : State) : Out :=
  .next (scalarOp (.brev f) f.d (fun c => bitReverse (srcS c 0)) s)

/-- SEXT.B: a[7:0] sign-extended (R164). -/
def execSextB (f : RR) (s : State) : Out :=
  .next (scalarOp (.sextB f) f.d (fun c => ((srcS c 0).setWidth 8).signExtend 64) s)

/-- SEXT.H: a[15:0] sign-extended (R164). -/
def execSextH (f : RR) (s : State) : Out :=
  .next (scalarOp (.sextH f) f.d (fun c => ((srcS c 0).setWidth 16).signExtend 64) s)

/-- SEXT.W: a[31:0] sign-extended (R164). -/
def execSextW (f : RR) (s : State) : Out :=
  .next (scalarOp (.sextW f) f.d (fun c => ((srcS c 0).setWidth 32).signExtend 64) s)

/-- ZEXT.B: a[7:0] zero-extended (R164). -/
def execZextB (f : RR) (s : State) : Out :=
  .next (scalarOp (.zextB f) f.d (fun c => ((srcS c 0).setWidth 8).setWidth 64) s)

/-- ZEXT.H: a[15:0] zero-extended (R164). -/
def execZextH (f : RR) (s : State) : Out :=
  .next (scalarOp (.zextH f) f.d (fun c => ((srcS c 0).setWidth 16).setWidth 64) s)

/-- ZEXT.W: a[31:0] zero-extended (R164). -/
def execZextW (f : RR) (s : State) : Out :=
  .next (scalarOp (.zextW f) f.d (fun c => ((srcS c 0).setWidth 32).setWidth 64) s)

/-- ABS: the wrapping absolute value (R164). -/
def execAbs (f : RR) (s : State) : Out :=
  .next (scalarOp (.abs f) f.d (fun c => if (srcS c 0).msb then -(srcS c 0) else srcS c 0) s)

/-- NEG: 0 − a, wrapping (R164). -/
def execNeg (f : RR) (s : State) : Out :=
  .next (scalarOp (.neg f) f.d (fun c => -(srcS c 0)) s)

/-! ### RRI (R165) -/

/-- ADDI: a + s (R165). -/
def execAddi (f : RRI) (s : State) : Out :=
  .next (scalarOp (.addi f) f.d (fun c => srcS c 0 + imm8 f.imm) s)

/-- ANDI: a AND s (R165). -/
def execAndi (f : RRI) (s : State) : Out :=
  .next (scalarOp (.andi f) f.d (fun c => srcS c 0 &&& imm8 f.imm) s)

/-- ORI: a OR s (R165). -/
def execOri (f : RRI) (s : State) : Out :=
  .next (scalarOp (.ori f) f.d (fun c => srcS c 0 ||| imm8 f.imm) s)

/-- XORI: a XOR s (R165). -/
def execXori (f : RRI) (s : State) : Out :=
  .next (scalarOp (.xori f) f.d (fun c => srcS c 0 ^^^ imm8 f.imm) s)

/-- SHLI: a << imm8[5:0] (R165). -/
def execShli (f : RSh) (s : State) : Out :=
  .next (scalarOp (.shli f) f.d (fun c => srcS c 0 <<< f.sh.toNat) s)

/-- SHRI: a >> imm8[5:0], zero fill (R165). -/
def execShri (f : RSh) (s : State) : Out :=
  .next (scalarOp (.shri f) f.d (fun c => srcS c 0 >>> f.sh.toNat) s)

/-- SRAI: a >> imm8[5:0], sign fill (R165). -/
def execSrai (f : RSh) (s : State) : Out :=
  .next (scalarOp (.srai f) f.d (fun c => (srcS c 0).sshiftRight f.sh.toNat) s)

/-- SLTI: 1 if a < s signed (R165). -/
def execSlti (f : RRI) (s : State) : Out :=
  .next (scalarOp (.slti f) f.d (fun c => truth ((srcS c 0).slt (imm8 f.imm))) s)

/-- SLTIU: 1 if a < s unsigned (R165). -/
def execSltiu (f : RRI) (s : State) : Out :=
  .next (scalarOp (.sltiu f) f.d (fun c => truth (decide (srcS c 0 < imm8 f.imm))) s)

/-! ### RL (R166) -/

/-- BFX: a bit field of a (R166). -/
def execBfx (f : BFld) (s : State) : Out :=
  .next (scalarOp (.bfx f) f.d (fun c => fieldGet (srcS c 0) f.pos.toNat (f.wm1.toNat + 1) f.sx) s)

/-- BFI: d with a bit field replaced, d read as the last source (R166, R163). -/
def execBfi (f : BFld) (s : State) : Out :=
  .next (scalarOp (.bfi f) f.d (fun c => fieldPut (srcS c 1) (srcS c 0) f.pos.toNat (f.wm1.toNat + 1)) s)

/-- LI: the immediate sign-extended (R166). -/
def execLi (f : RL0) (s : State) : Out :=
  .next (scalarOp (.li f) f.d (fun _ => f.imm.signExtend 64) s)

/-- LIS: (a << 28) OR the zero-extended immediate (R166). -/
def execLis (f : RL1) (s : State) : Out :=
  .next (scalarOp (.lis f) f.d (fun c => (srcS c 0 <<< 28) ||| f.imm.setWidth 64) s)

/-- ADDL: a + the sign-extended immediate (R166). -/
def execAddl (f : RL1) (s : State) : Out :=
  .next (scalarOp (.addl f) f.d (fun c => srcS c 0 + f.imm.signExtend 64) s)

end Sys2Proof.Machine
end

