-- ==== Sys2Proof/Machine/Control.lean ====
section
/-!
DEFINITION. Predicate instructions (R170–R172), branches and links (R173, R174), hardware loops (R177–R179), TRAP, SVC, BRK and
ERET (R182–R185).
-/

namespace Sys2Proof.Machine

/-! ### Predicates -/

/-- An M instruction that writes one predicate register (R170, R171). -/
def predOp (i : Instr) (pd : Nat) (fn : List (Option Src) → Context → Pred) (s : State) : State :=
  issueM i false (fun caps s => .ok (modX s (fun x => x.setP pd (fn caps x))) flagNone) s

/-- PAND: pa AND pb (R170). -/
def execPand (f : PPP) (s : State) : Out :=
  .next (predOp (.pand f) f.pd.toNat (fun _ x => x.pval f.pa.toNat &&& x.pval f.pb.toNat) s)

/-- POR: pa OR pb (R170). -/
def execPor (f : PPP) (s : State) : Out :=
  .next (predOp (.por f) f.pd.toNat (fun _ x => x.pval f.pa.toNat ||| x.pval f.pb.toNat) s)

/-- PXOR: pa XOR pb (R170). -/
def execPxor (f : PPP) (s : State) : Out :=
  .next (predOp (.pxor f) f.pd.toNat (fun _ x => x.pval f.pa.toNat ^^^ x.pval f.pb.toNat) s)

/-- PNOT: NOT pa (R170). -/
def execPnot (f : PP) (s : State) : Out :=
  .next (predOp (.pnot f) f.pd.toNat (fun _ x => ~~~(x.pval f.pa.toNat)) s)

/-- A quarter of a predicate replaced; the others are kept or cleared (R171). -/
def quarterPut (p : Pred) (j : Nat) (v : Word) (clear : Bool) : Pred :=
  let mask : Pred := (BitVec.allOnes 64).setWidth 256 <<< (64 * j)
  (if clear then 0 else p &&& ~~~mask) ||| (v.setWidth 256 <<< (64 * j))

/-- PFROM: pops an entry into quarter j of pd (R171). -/
def execPfrom (f : PFrom) (s : State) : Out :=
  .next (predOp (.pfrom f) f.pd.toNat (fun caps x => quarterPut (x.pval f.pd.toNat) f.j.toNat (srcS caps 0) f.z) s)

/-- A push to an execute-to-access scalar queue by the execute side; it waits while the queue is full (R78, R172). -/
def pushEA (s : State) (n : Nat) (w : Word) (fl : Flags) : DoneM :=
  if pendingQs s.x true n then .hold s true
  else match pushS true s.x n w with
    | some x => .ok { s with x := x } fl
    | none => .hold s true

/-- PTO: pushes quarter j of ps (R172). -/
def execPto (f : PTo) (s : State) : Out :=
  .next (issueM (.pto f) false (fun _ s =>
    pushEA s f.n.toNat ((s.x.pval f.ps.toNat).extractLsb' (64 * f.j.toNat) 64) flagNone) s)

/-! ### Branches -/

/-- The target of a branch: P + 4 × SignExtend(offset) (R173). -/
def branchTarget {w : Nat} (s : State) (off : BitVec w) : Word := curPc s + 4 * off.signExtend 64

/-- A conditional branch: its decision is one outcome for the execute side (R84, R173). -/
def branchOp (i : Instr) (off : BitVec 14) (cond : Word → Bool) (s : State) : State :=
  issue i .P (fun caps s =>
    if cond (srcS caps 0) then .jump s (branchTarget s off) else .ok (modX s (fun x => x.outcome (curNext s))) flagNone) s

/-- BR: always taken (R173). -/
def execBr (f : Br0) (s : State) : Out :=
  .next (issue (.br f) .P (fun _ s => .jump s (branchTarget s f.off)) s)

/-- BZ: taken when a = 0 (R173). -/
def execBz (f : BrC) (s : State) : Out := .next (branchOp (.bz f) f.off (fun a => decide (a = 0)) s)

/-- BNZ: taken when a ≠ 0 (R173). -/
def execBnz (f : BrC) (s : State) : Out := .next (branchOp (.bnz f) f.off (fun a => decide (a ≠ 0)) s)

/-- BLTZ: taken when a < 0, signed (R173). -/
def execBltz (f : BrC) (s : State) : Out := .next (branchOp (.bltz f) f.off (fun a => a.msb) s)

/-- BGEZ: taken when a ≥ 0, signed (R173). -/
def execBgez (f : BrC) (s : State) : Out := .next (branchOp (.bgez f) f.off (fun a => !a.msb) s)

/-- Writes a link register, then transfers control (R174). -/
def linkJump (s : State) (d : BitVec 6) (link t : Word) : Done :=
  match writeDst s.x d link with
  | .ok x => .jump { s with x := x } t
  | .error q => .hold s q

/-- JL: to the value that a held before the link P + 4 is written (R174). -/
def execJl (f : RR) (s : State) : Out :=
  .next (issue (.jl f) .P (fun caps s => linkJump s f.d (curPc s + 4) (srcS caps 0)) s)

/-- BRL: link P + 8, target P + 4 × SignExtend(imm28) (R174). -/
def execBrl (f : RL0) (s : State) : Out :=
  .next (issue (.brl f) .P (fun _ s => linkJump s f.d (curPc s + 8) (branchTarget s f.imm)) s)

/-! ### Hardware loops (R178) -/

/-- The node record that a context runs, if its bundle is resident. -/
def nodeOf (s : State) (b n : Nat) : Option Node := (tabFind b s.bundles).bind (fun v => v.nodes[n]?)

/-- The code range [pc, pcend) of the context's node; a context without a resident node has no bound. -/
def codeRange (s : State) : Nat × Nat :=
  match nodeOf s s.x.cont.bundle s.x.cont.node with
  | some n => (n.pc.toNat, n.pcend.toNat)
  | none => (0, 2 ^ 48)

/-- Whether a first word is LOOP or LOOPI (R88). -/
def isLoopWord (w : IWord) : Bool := w.extractLsb' 21 7 = 0x37#7 || w.extractLsb' 21 7 = 0x38#7

/-- LOOP and LOOPI with count `n` and end offset `endo` (R178): one outcome enters the body or skips it (R175), and a skip adds the end
decisions of the levels that end there. -/
def loopBody (s : State) (n : Word) (endo : BitVec 11) : Done :=
  let e := (curPc s + 4 * endo.setWidth 64)
  let (lo, hi) := codeRange s
  if endo = 0 || e.toNat < lo || hi ≤ e.toNat then .trap s 0x005 0 0
  else match fetchWord s e.toNat with
    | .hold s => .hold s false
    | .trap s c d f => .trap s c d f
    | .ok w s =>
      if wordCount w = 0 || isLoopWord w then .trap s 0x005 0 0
      else if s.x.loops.head?.any (fun l => l.stop.toNat < e.toNat) then .trap s 0x005 0 0
      else if n = 0 then
        let (ls, back) := endPass e s.x.loops
        let next := e + 4 * BitVec.ofNat 64 (wordCount w)
        .goto (modX s (fun x => (({ x with loops := ls }).outcome next).outcomesOf (endDecisions x.loops ls back next))) (back.getD next)
      else if 4 ≤ s.x.loops.length then .trap s 0x006 0 0
      else .goto (modX s (fun x => ({ x with loops := ⟨curNext s, e, n⟩ :: x.loops }).outcome (curNext s))) (curNext s)

/-- LOOP: count from a register (R177, R178). -/
def execLoop (f : LoopF) (s : State) : Out :=
  .next (issue (.loop f) .P (fun caps s => loopBody s (srcS caps 0) f.endo) s)

/-- LOOPI: immediate count (R177, R178). -/
def execLoopi (f : LoopIF) (s : State) : Out :=
  .next (issue (.loopi f) .P (fun _ s => loopBody s (f.count.setWidth 64) f.endo) s)

/-! ### Traps -/

/-- TRAP: retires, then takes the trap with its code (R182). -/
def execTrap (f : TrapF) (s : State) : Out :=
  .next (issue (.trap f) .P (fun _ s => .after s f.code 0) s)

/-- SVC: retires, then traps with 0x00F and the service number (R183). -/
def execSvc (f : SvcF) (s : State) : Out :=
  .next (issue (.svc f) .P (fun _ s => .after s 0x00F (f.svc.setWidth 32)) s)

/-- BRK: raises 0x013 with its tag, or enters debug halt when breakpoint halting is armed (R184, R475). -/
def execBrk (f : BrkF) (s : State) : Out :=
  .next (if (getCore s s.core).arm then modCore s s.core (fun k => { k with halt := true, one := false })
    else earlyTrap (modX s (fun x => { x with cur := none })) 0x013 (f.tag.setWidth 32) 0)

/-- The effect of ERET in handler mode: once its own stores have reached their homes and no instruction of the handler is left on
the execute side, the frame is checked and reloaded (R185, R462). -/
def eretBody (s : State) : Done :=
  if !s.x.stream.isEmpty || !shoalDrained s s.xid then .hold s false
  else
    let s := drainStores s s.xid
    match readFrame s s.x.tfp.toNat 16 frameLen [] with
    | .hold s => .hold s false
    | .trap s c d f => .trap s c d f
    | .ok fb s =>
      if frameOk fb then .left (stepHalt (modX (returnFromTrap s fb) (fun x => { x with since := s.tick, promA := false })))
      else .trap s 0x003 0 0

/-- ERET: raises 0x012 outside handler mode; in handler mode it reloads the frame and fetch goes on at EPC (R185, R462). -/
def execEret (s : State) : Out :=
  .next (issueChecked .eret (fun s => if s.x.handler then none else some (0x012, 0)) .P (fun _ s => eretBody s) s)

end Sys2Proof.Machine
end

