-- ==== Sys2Proof/Machine/Suspend.lean ====
section
/-!
DEFINITION. Suspension points (R274, R383, R384, R399): what a continuation carries, where it is kept, and when it may leave its
context.
-/

namespace Sys2Proof.Machine

/-- Every earlier instruction of both streams of the context has retired. -/
def streamsDone (x : Context) : Bool := x.stream.isEmpty && x.wbs.isEmpty

/-- Whether the continuation may leave its context: its shoal-log entries have drained, its remote writes are applied, and its remote
FINCs are answered (R274). -/
def mayLeave (s : State) : Bool := shoalDrained s s.xid && !unapplied s s.xid && s.x.fincs = 0

/-- A continuation about to leave its context sends its stores: the departure acts as a release at device scope (R274). -/
def leaving (s : State) : State := if streamsDone s.x then drainStores s s.xid else s

/-- Whether a continuation owns an entry of a cluster's table that is not freed (R399). -/
def ownsEntry (s : State) (cl cid : Nat) : Bool := (getCluster s cl).toks.any (fun e => e.2.owner = some cid)

/-- What survives a suspension (R384): the record with pc, g1 to g3 and k0 to k3 as they stand. -/
def carry (x : Context) (pc : BitVec 48) : Cont :=
  { x.cont with pc := pc, g1 := x.gval 1, g2 := x.gval 2, g3 := x.gval 3, k0 := vecGet x.k 0 0, k1 := vecGet x.k 1 0,
                k2 := vecGet x.k 2 0, k3 := vecGet x.k 3 0 }

/-- Entries of a die's ready pool, and of the central one (R382). -/
def diePoolSize : Nat := 1024

/-- The number of the central ready pool in the list of pools. -/
def centralPool : Nat := 4

/-- Entries of the central ready pool (R22, R382). -/
def centralPoolSize : Nat := 8192

/-- Whether ready pool `p` has room. -/
def poolRoom (s : State) (p : Nat) : Bool :=
  (s.ready.filter (fun e => e.1 = p)).length < (if p = centralPool then centralPoolSize else diePoolSize)

/-- Adds a continuation to cluster `cl`'s local list. -/
def placeLocal (s : State) (cl : Nat) (k : Cont) : State := modCluster s cl (fun c => { c with ready := c.ready ++ [k] })

/-- Adds a free continuation to the first of `pools` that has room. DESIGN CHOICE (log entry 190): where the central pool is full too,
the item stays on cluster `cl`'s local list, for which the spec gives no bound; R382 names no source below the central pool. -/
def placePool (s : State) (cl : Nat) (k : Cont) (pools : List Nat) : State :=
  match pools.find? (poolRoom s) with
  | some p => { s with ready := s.ready ++ [(p, k)] }
  | none => placeLocal s cl k

/-- Places a ready continuation (R412): a bound one on its cluster's local list, a free one on the die's ready pool, or on the
central pool while that is full (R382). DESIGN CHOICE (log entry 190): what becomes of it when both are full (`placePool`). -/
def placeReady (s : State) (cl : Nat) (k : Cont) : State :=
  let k := { k with state := 0, since := s.tick }
  if k.bound then placeLocal s k.cluster k else placePool s cl k [cl / 12, centralPool]

/-- The context after its continuation has left it at a suspension point: its FSTAT flags are ORed into the job's record (R384). -/
def leaveContext (s : State) : State :=
  let s := jobFlags s s.x.cont.bundle (s.x.fstat.setWidth 6)
  { s with x := freeContext s.x, faults := s.faults.filter (fun f => f.ctx != some s.xid) }

/-- Suspends the current continuation as record `k` (R384): its stores are performed (R274), its lease is released unless it
waits for one (R224), and the record is kept by the cluster until it is woken. -/
def suspend (s : State) (k : Cont) (keepLease : Bool) : State :=
  let s := drainStores s s.xid
  let s := if keepLease then s else releaseLease s s.cl s.x.cont.cid none
  let bound := k.bound || ownsEntry s s.cl k.cid || k.wtok.isSome
  let k := { k with state := 2, pending := true, bound := bound, cluster := if bound then s.cl else k.cluster, since := s.tick }
  leaveContext (modCluster s s.cl (fun c => { c with susp := c.susp ++ [k] }))

/-- Wakes the suspended continuation `cid` of a cluster: it becomes ready (R318, R403, R225). -/
def wakeCont (s : State) (cl cid : Nat) : State :=
  match (getCluster s cl).susp.find? (fun k => k.cid = cid) with
  | none => s
  | some k => placeReady (modCluster s cl (fun c => { c with susp := c.susp.filter (fun j => j.cid != cid) })) cl k

/-- The cluster that keeps a suspended continuation. -/
def suspCluster (s : State) (cid : Nat) : Option Nat :=
  (s.clusters.find? (fun e => e.2.susp.any (fun k => k.cid = cid))).map (·.1)

/-- The check of a suspending form before any other effect: 0x012 in handler mode, 0x00E inside a hardware loop (R181, R457). -/
def suspendCheck (s : State) : Option (Cause × BitVec 32) :=
  if s.x.handler then some (0x012, 0) else if s.x.loops.isEmpty then none else some (0x00E, 0)

end Sys2Proof.Machine
end

