-- ==== Sys2Proof/Machine/MemInstr.lean ====
section
/-!
DEFINITION. The memory, atomic, wait, fence, address and flag instructions of the access side (R307–R324), LDM and STM (R186–R188).
-/

namespace Sys2Proof.Machine

/-- Bytes of a size code (R307). -/
def sizeBytes (sz : BitVec 2) : Nat := 2 ^ sz.toNat

/-- A value of `n` bytes, zero-extended. -/
def zeroExt (bs : List Byte) : Word := leWord 64 bs

/-- A value of `n` bytes, sign-extended. -/
def signExt (bs : List Byte) : Word := BitVec.ofInt 64 (signed (8 * bs.length) (leNat bs))

/-- Whether a long-latency result for `d` may be issued: no earlier producer owes the register (R159). -/
def oweReady (x : Context) (d : BitVec 6) : Bool := 60 ≤ d.toNat || x.gfull d.toNat

/-- A load with a scalar destination: it waits for an earlier producer of t before it accesses memory. -/
def loadInto (s : State) (d : BitVec 6) (acc : State → Acc (List Byte)) (fn : List Byte → Word) : Done :=
  if !oweReady s.x d then .hold s false
  else match acc s with
    | .ok bs s => oweG s d (fn bs) flagNone 0
    | .hold s => .hold s false
    | .trap s c dt fa => .trap s c dt fa

/-- A store-like access that retires when it has been performed or logged. -/
def storeDone : Acc Unit → Done
  | .ok _ s => .ok s flagNone
  | .hold s => .hold s false
  | .trap s c dt fa => .trap s c dt fa

/-- The plain bytes of an address, without the page's attributes. -/
def plainBytesAt (s : State) (a n : Nat) : Acc (List Byte) :=
  match plainLoad s s.xid a n n with
  | .ok r s => .ok r.1 s
  | .hold s => .hold s
  | .trap s c d f => .trap s c d f

/-- The effective address of a plain access: g[b] + m × s, wrapping (R308). -/
def memAddr (f : Mem) (b : Word) : Nat := (b + BitVec.ofNat 64 (f.m.toNat * sizeBytes f.sz)).toNat

/-- LD: plain sign-extending load, long-latency (R308). -/
def execLd (f : Mem) (s : State) : Out :=
  .next (issue (.ld f) .P (fun caps s =>
    loadInto s f.t (fun s => plainBytesAt s (memAddr f (srcS caps 0)) (sizeBytes f.sz)) signExt) s)

/-- LDU: plain zero-extending load, long-latency (R308). -/
def execLdu (f : Mem) (s : State) : Out :=
  .next (issue (.ldu f) .P (fun caps s =>
    loadInto s f.t (fun s => plainBytesAt s (memAddr f (srcS caps 0)) (sizeBytes f.sz)) zeroExt) s)

/-- ST: plain store (R308). -/
def execSt (f : Mem) (s : State) : Out :=
  .next (issue (.st f) .P (fun caps s =>
    let n := sizeBytes f.sz
    storeDone (plainStore s s.xid (memAddr f (srcS caps 1)) n (wordBytes n (srcS caps 0)))) s)

/-- LDS: strong relaxed load (R311). -/
def execLds (f : MemS) (s : State) : Out :=
  .next (issue (.lds f) .P (fun caps s =>
    loadInto s f.t (fun s => strongLoad s s.xid (srcS caps 0).toNat (sizeBytes f.sz) none) zeroExt) s)

/-- LDA: acquire load at its scope (R311). -/
def execLda (f : MemS) (s : State) : Out :=
  .next (issue (.lda f) .P (fun caps s =>
    loadInto s f.t (fun s => strongLoad s s.xid (srcS caps 0).toNat (sizeBytes f.sz) (some f.sc)) zeroExt) s)

/-- STS: strong relaxed store (R311). -/
def execSts (f : MemS) (s : State) : Out :=
  .next (issue (.sts f) .P (fun caps s =>
    storeDone (strongStore s s.xid (srcS caps 1).toNat (wordBytes (sizeBytes f.sz) (srcS caps 0)) f.sc false)) s)

/-- STL: release store at its scope (R311). -/
def execStl (f : MemS) (s : State) : Out :=
  .next (issue (.stl f) .P (fun caps s =>
    storeDone (strongStore s s.xid (srcS caps 1).toNat (wordBytes (sizeBytes f.sz) (srcS caps 0)) f.sc true)) s)

/-! ### Atomic operations (R312–R314) -/

/-- The new value of an AMO of `n` bytes by its op code (R100, R313). -/
def amoNew (op n old v cmp : Nat) : Nat :=
  let w := 8 * n
  let m := 2 ^ w
  match op with
  | 0 => (old + v) % m
  | 1 => old &&& v
  | 2 => old ||| v
  | 3 => old ^^^ v
  | 4 => if signed w old ≤ signed w v then old else v
  | 5 => if signed w old ≤ signed w v then v else old
  | 6 => if old ≤ v then old else v
  | 7 => if old ≤ v then v else old
  | 8 => v
  | 9 => if old = cmp then v else old
  | _ => (roundNum fp32 rneInf (numAdd (floatDecode fp32 old) (floatDecode fp32 v))).get.1

/-- Whether the target supports an AMO (R314). -/
def amoSupported (l : Loc) (op : Nat) : Bool :=
  match l with
  | .mem pa => !isHost pa || Config.hostCxl || op = 0 || op = 8 || op = 9
  | .pool _ _ => true

/-- The AMO performed at its home in one step: the old value (R267, R313). One whose key the target's die does not admit is dropped with
its event there (R447). -/
def amoPerform (s : State) (c : Nat) (l : Loc) (op n v cmp : Nat) : Nat × State :=
  if foreign s (ctxCluster c) l then (0, postForeign s (getCtx s c).cont.bundle l)
  else
    let old := leNat (readHome s l n)
    let bs := leBytes n (amoNew op n old v cmp)
    (old, patchL1 (writeHome s l bs) (ctxCore c) l bs)

/-- Whether some packet of the context's die to the same 128-byte line of a remote home has not been applied (R286). -/
def lineBlocks (s : State) (c : Nat) (l : Loc) : Bool := dieBlocks s (ctxDie s c) l 1

/-- Whether an AMO of release order at a resolved location must still wait. A remote one is performed only when every remote write
of the agent has been acknowledged, so that its packet needs no vector (R288). -/
def amoWaits (s : State) (c : Nat) (l : Loc) (sc : BitVec 2) (rel : Bool) : Bool :=
  rel && (!releaseReady s c l (widen s c l sc) || (match l with
    | .mem pa => isRemote s pa && remotePending (getCtx s c)
    | .pool _ _ => false))

/-- An AMO at a resolved location: step 5 of R304, its waits, its effect and its acquire. -/
def amoAt (s : State) (c : Nat) (a : Nat) (t : Target) (op n v cmp : Nat) (sc ord : BitVec 2) (detail : BitVec 32) : Acc Nat :=
  if !amoSupported t.loc op then .trap s 0x109 0 (BitVec.ofNat 64 a)
  else
    let rel := ord.getLsbD 1
    let s := if rel || storesOverlap (getCtx s c) t.loc n then drainStores s c else s
    if amoWaits s c t.loc sc rel || lineBlocks s c t.loc || poolHeld s t.loc then .hold s
    else match readBad s t.loc n with
      | some e => .trap (postBad s e t.loc) e detail (BitVec.ofNat 64 a)
      | none =>
        let (old, s) := amoPerform s c t.loc op n v cmp
        .ok old (if ord.getLsbD 0 then acquire s c (widen s c t.loc sc) else s)

/-- An AMO that returns its old value (nr = 0): a failed translation holds it (R258). -/
def amoReturn (s : State) (c a op n v cmp : Nat) (sc ord : BitVec 2) : Acc Nat :=
  let d := accDetail false false false
  match loadTarget s c needBoth 0 d a n n with
  | .hold s => .hold s
  | .trap s e dt f => .trap s e dt f
  | .ok t s => amoAt s c a t op n v cmp sc ord d

/-- A reduction (nr = 1): a failed translation, or an entry of the context that is still in the log, puts it into the shoal log
(R259, R260). It retires once its operand has been read: where its home cannot perform it yet, it is logged as well, unless it is an
acquire, which comes before every later access (R271, R313). -/
def amoReduce (s : State) (c a op n v cmp : Nat) (sc ord : BitVec 2) : Acc Unit :=
  let d := accDetail true false false
  let rel := ord.getLsbD 1
  let cid := (getCtx s c).cont.cid
  let ent (cause : Cause) (refused : Bool) : Shoal :=
    ⟨c, cid, BitVec.ofNat 64 a, List.replicate n 0, some (BitVec.ofNat 4 op, n = 8), BitVec.ofNat 64 v, BitVec.ofNat 64 cmp, sc, ord, cause,
      refused, none⟩
  match resolve s c needBoth a n n with
  | .error (.early e) => .trap s e d (BitVec.ofNat 64 a)
  | .error (.trans t) =>
    let s := if rel then drainStores s c else s
    if rel && !(ownShoal s c).isEmpty then .hold s
    else
      let refused := t.cause = 0x106 && !t.host
      match shoalPush s c (ent t.cause refused) (some t) with
      | .ok _ s => .ok () (if refused then addAsync s c t.cause (accDetail true false true) (BitVec.ofNat 64 a) else s)
      | r => r
  | .ok t =>
    if !amoSupported t.loc op then .trap s 0x109 0 (BitVec.ofNat 64 a)
    else match holdCheck s c t.loc a n true true d with
    | some r => r
    | none =>
      let s := passHeld s c a
      let later (s : State) : Acc Unit :=
        if ord.getLsbD 0 then .hold s else shoalPush s c { ent 0 false with loc := t.window } none
      if !rel && !(ownShoal s c).isEmpty then shoalPush s c { ent 0 false with loc := t.window } none
      else if netBlocks s c t.loc n then later s
      else match amoAt s c a t op n v cmp sc ord d with
        | .ok _ s => .ok () s
        | .hold s => later s
        | .trap s e dt f => .trap s e dt f

/-- An AMO instruction: operand t, address b, comparand `cmp` (R312, R313). -/
def amoOp (i : Instr) (f : Amo) (op : Nat) (s : State) : State :=
  issue i .P (fun caps s =>
    let n := if f.dbl then 8 else 4
    let v := (srcS caps 0).toNat % 2 ^ (8 * n)
    let cmp := (srcS caps 2).toNat % 2 ^ (8 * n)
    let a := (srcS caps 1).toNat
    if f.nr then storeDone (amoReduce s s.xid a op n v cmp f.sc f.ord)
    else if !oweReady s.x f.t then .hold s false
    else match amoReturn s s.xid a op n v cmp f.sc f.ord with
      | .ok old s => oweG s f.t (BitVec.ofNat 64 old) flagNone 0
      | .hold s => .hold s false
      | .trap s c dt fa => .trap s c dt fa) s

/-- AADD: new := old + v (R313). -/
def execAadd (f : Amo) (s : State) : Out := .next (amoOp (.aadd f) f 0 s)
/-- AAND: new := old AND v (R313). -/
def execAand (f : Amo) (s : State) : Out := .next (amoOp (.aand f) f 1 s)
/-- AOR: new := old OR v (R313). -/
def execAor (f : Amo) (s : State) : Out := .next (amoOp (.aor f) f 2 s)
/-- AXOR: new := old XOR v (R313). -/
def execAxor (f : Amo) (s : State) : Out := .next (amoOp (.axor f) f 3 s)
/-- AMIN: the smaller, signed (R313). -/
def execAmin (f : Amo) (s : State) : Out := .next (amoOp (.amin f) f 4 s)
/-- AMAX: the larger, signed (R313). -/
def execAmax (f : Amo) (s : State) : Out := .next (amoOp (.amax f) f 5 s)
/-- AMINU: the smaller, unsigned (R313). -/
def execAminu (f : Amo) (s : State) : Out := .next (amoOp (.aminu f) f 6 s)
/-- AMAXU: the larger, unsigned (R313). -/
def execAmaxu (f : Amo) (s : State) : Out := .next (amoOp (.amaxu f) f 7 s)
/-- ASWP: new := v (R313). -/
def execAswp (f : Amo) (s : State) : Out := .next (amoOp (.aswp f) f 8 s)
/-- ACAS: new := v where old equals the comparand, else old (R313). -/
def execAcas (f : Amo) (s : State) : Out := .next (amoOp (.acas f) f 9 s)
/-- AFADD: the FP32 sum, RNE, INF policy, no flag (R313). -/
def execAfadd (f : Amo) (s : State) : Out := .next (amoOp (.afadd f) f 10 s)

/-! ### Waits (R316–R318) -/

/-- Met(c, x, v, m0) at a width of `w` bits; `first` marks the first read, which CHG never meets (R317). -/
def waitMet (cond w x v m0 : Nat) (first : Bool) : Bool :=
  match cond with
  | 0 => x = v
  | 1 => x ≠ v
  | 2 => v ≤ x
  | 3 => x < v
  | 4 => 0 ≤ signed w (x + 2 ^ w - v)
  | 5 => signed w (x + 2 ^ w - v) < 0
  | _ => !first && x ≠ m0

/-- From now on the writes to what a suspended wait watches are counted (MODEL). -/
def watchOn (cl : Nat) (s : State) (w : Watch) : State :=
  let on (k : Nat) : State := if (tabFind k s.marks).isSome then s else { s with marks := tabPut k 0 s.marks }
  match w with
  | .none => s
  | .line l _ => on (lineMark l)
  | .entry e _ => on (flagMark cl e)

/-- The wait with its state so far: it completes, suspends, or holds the access side (R317, R318). `read` performs one read,
`timeout` is the count of cycles or 0, `watch` what a suspended wait watches, `fin` writes the status. -/
def waitLoop (s : State) (read : State → Acc (List Byte)) (watch : State → Watch) (cond w v timeout : Nat) (sus : Bool)
    (fin : State → Word → Done) : Done :=
  let ws := s.x.ws.getD { t0 := s.tick, m0 := 0, first := true, due := if timeout = 0 then 0 else s.tick + timeout }
  let s := modX s (fun x => { x with ws := some ws })
  if sus && !streamsDone s.x then .hold s false
  else match read s with
    | .hold s => .hold s false
    | .trap s c d f => .trap s c d f
    | .ok bs s =>
      let x := leNat bs
      let ws := if ws.first then { ws with m0 := BitVec.ofNat 64 x } else ws
      if waitMet cond w x v ws.m0.toNat ws.first then fin s 0
      else if timeout ≠ 0 && timeout ≤ s.tick - ws.t0 then fin s 1
      else
        let s := if sus then leaving s else s
        let ws := { ws with first := false, watch := watch s }
        if sus && mayLeave s then
          .left (stepHalt (suspend (watchOn s.cl s ws.watch) { carry s.x ((s.x.cur.map Entry.pc).getD s.x.pc) with cur := s.x.cur, ws := some ws } false))
        else .hold (modX s (fun x => { x with ws := some ws })) false

/-- The 64-byte line of a location, or the 64 pool bytes around it. -/
def lineOf : Loc → Loc
  | .pool c o => .pool c (o / 64 * 64)
  | .mem pa => .mem (pa / 64 * 64)

/-- What a wait on address `a` watches (R318). -/
def watchLine (s : State) (a n : Nat) : Watch :=
  match resolve s s.xid needLoad a n n with
  | .ok t => .line (lineOf t.loc) (tabGet 0 (lineMark t.loc) s.marks)
  | .error _ => .none

/-- WAITA (R316–R318). -/
def execWaita (f : WaitaF) (s : State) : Out :=
  .next (issueChecked (.waita f) (fun s => if f.sus then suspendCheck s else none) .P (fun caps s =>
    let n := if f.dbl then 8 else 4
    waitLoop s (fun s => strongLoad s s.xid (srcS caps 1).toNat n (if f.acq then some f.sc else none)) (fun s => watchLine s (srcS caps 1).toNat n) f.cond.toNat (8 * n)
      ((srcS caps 0).toNat % 2 ^ (8 * n)) (srcS caps 2).toNat f.sus (fun s w => putG s f.d w flagNone)) s)

/-! ### Fences (R319) -/

/-- Whether every earlier access of the context has been performed (R271): its remote writes are applied, and at pod or system
scope acknowledged. -/
def accessesDone (s : State) (sc : Nat) : Bool :=
  shoalDrained s s.xid && !unapplied s s.xid && (sc < 2 || !remotePending s.x)

/-- A fence that waits until the context's accesses have been performed, then acquires when it has a scope to acquire at. -/
def fenceBody (s : State) (sc : Nat) (acq : Option (BitVec 2)) : Done :=
  let s := drainStores s s.xid
  if accessesDone s sc then
    .ok (match acq with
      | some sc => acquire s s.xid sc
      | none => s) flagNone
  else .hold s false

/-- FENCE FULL (R319). -/
def execFenceFull (f : FenceS) (s : State) : Out :=
  .next (issue (.fenceFull f) .P (fun _ s => fenceBody s f.sc.toNat (some f.sc)) s)

/-- FENCE ACQ: earlier loads are performed when they issue (R319). -/
def execFenceAcq (f : FenceS) (s : State) : Out :=
  .next (issue (.fenceAcq f) .P (fun _ s => .ok (acquire s s.xid f.sc) flagNone) s)

/-- FENCE REL (R319). -/
def execFenceRel (f : FenceS) (s : State) : Out :=
  .next (issue (.fenceRel f) .P (fun _ s => fenceBody s f.sc.toNat none) s)

/-- FENCE SHOAL: the shoal-log entries have drained (R319, R261). -/
def execFenceShoal (f : R0) (s : State) : Out :=
  .next (issue (.fenceShoal f) .P (fun _ s => if shoalDrained s s.xid then .ok s flagNone else .hold s false) s)

/-- Whether an entry of the current context's shoal log may be a write to host memory: one that does not translate, or whose home is
host memory (R319). -/
def toHost (s : State) (e : Shoal) : Bool :=
  match shoalTarget s e with
  | .error _ => true
  | .ok t => match t.loc with
    | .mem pa => isHost pa
    | .pool _ _ => false

/-- FENCE IO: earlier writes to host memory have reached global observation (R319, R290). -/
def execFenceIo (f : R0) (s : State) : Out :=
  .next (issue (.fenceIo f) .P (fun _ s =>
    let s := drainStores s s.xid
    if (ownShoal s s.xid).any (toHost s) then .hold s false else .ok s flagNone) s)

/-! ### LDM and STM (R186–R188) -/

/-- Sets the captured progress of the access-side instruction in progress. -/
def setProg (s : State) (i : Nat) : State := modX s (fun x => { x with cur := x.cur.map (fun e => { e with cont := true, prog := i }) })

/-- Elements above a faulting element of an LDM: each register holds its old or its new value, independently (R188). -/
def ldmAbove (s : State) (t : Nat) (a : Nat) : List Nat → State
  | [] => s
  | i :: is =>
    let (b, s) := takeBit s
    if b then
      match plainBytesAt s ((a + 8 * i) % 2 ^ 64) 8 with
      | .ok bs s => ldmAbove (modX s (fun x => x.setG (t + i) (zeroExt bs))) t a is
      | .hold _ => ldmAbove s t a is
      | .trap _ _ _ _ => ldmAbove s t a is
    else ldmAbove s t a is

/-- Elements i to n − 1 of an LDM: `got` are the ones loaded in this attempt, last first. -/
def ldmFrom (s : State) (t n a : Nat) : List Nat → List (Nat × Word) → Done
  | [], got =>
    let x := got.foldl (fun x e => x.markG e.1 true) s.x
    .later { s with x := x } (got.reverse.map (fun e => .g e.1 e.2)) flagNone 3
  | i :: is, got =>
    let landed (s : State) : State := modX s (fun x => got.foldl (fun x e => x.setG e.1 e.2) x)
    match plainBytesAt s ((a + 8 * i) % 2 ^ 64) 8 with
    | .ok bs s => ldmFrom s t n a is ((t + i, zeroExt bs) :: got)
    | .hold s => .hold (setProg (landed s) i) false
    | .trap s c d f => .trap (setProg (ldmAbove (landed s) t a is) i) c d f

/-- The element at which a resumed LDM or STM goes on (R188). -/
def curProg (s : State) : Nat := (s.x.cur.map (fun e => if e.cont then e.prog else 0)).getD 0

/-- LDM: n doublewords into consecutive registers, long-latency (R187, R188). -/
def execLdm (f : LdmF) (s : State) : Out :=
  .next (issue (.ldm f) .P (fun caps s =>
    let n := f.m.toNat + 1
    let p := curProg s
    if (List.range n).all (fun i => i < p || s.x.gfull (f.t.toNat + i)) then
      ldmFrom s f.t.toNat n (srcS caps 0).toNat ((List.range n).drop p) []
    else .hold s false) s)

/-- Elements above a faulting element of an STM: each store may or may not be performed (R188). -/
def stmAbove (s : State) (t a : Nat) : List Nat → State
  | [] => s
  | i :: is =>
    let (b, s) := takeBit s
    if b then
      match plainStore s s.xid ((a + 8 * i) % 2 ^ 64) 8 (wordBytes 8 (s.x.gval (t + i))) with
      | .ok _ s => stmAbove s t a is
      | .hold _ => stmAbove s t a is
      | .trap _ _ _ _ => stmAbove s t a is
    else stmAbove s t a is

/-- Elements i to n − 1 of an STM. -/
def stmFrom (s : State) (t a : Nat) : List Nat → Done
  | [] => .ok s flagNone
  | i :: is =>
    match plainStore s s.xid ((a + 8 * i) % 2 ^ 64) 8 (wordBytes 8 (s.x.gval (t + i))) with
      | .ok _ s => stmFrom s t a is
      | .hold s => .hold (setProg s i) false
      | .trap s c d f => .trap (setProg (stmAbove s t a is) i) c d f

/-- STM: consecutive registers to n doublewords (R187, R188). -/
def execStm (f : LdmF) (s : State) : Out :=
  .next (issue (.stm f) .P (fun caps s =>
    stmFrom s f.t.toNat (srcS caps 1).toNat ((List.range (f.m.toNat + 1)).drop (curProg s))) s)

/-! ### Address conversion (R323, R324) -/

/-- Whether address `a` belongs to space `sp` (R323). -/
def belongs (x : Context) (a sp : Nat) : Bool :=
  if sp = 0 then a < 2 ^ 57 && windowOf x a = 0
  else a < 2 ^ 57 && windowOf x a = sp && a - winBase (winCsr x sp) < winLimit (winCsr x sp)

/-- The result of CVTA for address or offset `a` and control value `b` (R324). -/
def cvtaValue (x : Context) (a b : Word) : Word :=
  let sp := b.toNat % 4
  let bad : Word := BitVec.allOnes 64
  if !b.getLsbD 2 then
    if belongs x a.toNat sp then (if sp = 0 then a else a - BitVec.ofNat 64 (winBase (winCsr x sp))) else bad
  else if sp = 0 then (if belongs x a.toNat 0 then a else bad)
  else if a.toNat < winLimit (winCsr x sp) then BitVec.ofNat 64 (winBase (winCsr x sp)) + a
  else bad

/-- CVTA (R324). -/
def execCvta (f : RRR) (s : State) : Out :=
  .next (issue (.cvta f) .P (fun caps s => putG s f.d (cvtaValue s.x (srcS caps 0) (srcS caps 1)) flagNone) s)

/-- ASPC (R324). -/
def execAspc (f : RRR) (s : State) : Out :=
  .next (issue (.aspc f) .P (fun caps s =>
    putG s f.d (truth (belongs s.x (srcS caps 0).toNat ((srcS caps 1).toNat % 4))) flagNone) s)

/-! ### Flags (R320–R322) -/

/-- A flag target: an entry of the own cluster, or of another one as pod die, cluster on it and entry. -/
inductive FlagName where
  | own (entry : Nat)
  | far (die cluster entry : Nat)
  | bad
  deriving DecidableEq, Repr

/-- The flag that a name selects (R320). -/
def flagName (s : State) (w : Word) : FlagName :=
  let v := w.toNat
  let entry := v % 256
  if bitsOf v 25 1 = 0 then .own entry
  else
    let die := bitsOf v 12 13
    let cl := bitsOf v 8 4
    if 12 ≤ cl then .bad
    else if die = ctxDie s s.xid && cl = s.cl % 12 then .own entry
    else .far die cl entry

/-- One entry of a cluster's flag file. -/
def flagGet (s : State) (cl e : Nat) : BitVec 32 := tabGet 0 e (getCluster s cl).flags

/-- Writes an entry of a cluster's flag file; an entry at 0 is not listed. -/
def flagPut (s : State) (cl e : Nat) (v : BitVec 32) : State :=
  modCluster (noteWrites [flagMark cl e] s) cl (fun c => { c with flags := if v = 0 then tabDel e c.flags else tabPut e v c.flags })

/-- A release at cluster scope by the current context before it writes a flag: done, or still waiting for its shoal log (R271, R322) -/
def flagRelease (s : State) (k : State → Done) : Done :=
  let s := drainStores s s.xid
  if shoalDrained s s.xid then k s else .hold s false

/-- A release by the current context of a flag of its own cluster, which waits also until its remote writes have been applied (R271,
R277). -/
def ownRelease (s : State) (k : State → Done) : Done :=
  flagRelease s (fun s => if unapplied s s.xid then .hold s false else k s)

/-- FSET: writes an entry of the own cluster as a release (R322). -/
def execFset (f : Flag2) (s : State) : Out :=
  .next (issue (.fset f) .P (fun caps s =>
    match flagName s (srcS caps 0) with
    | .own e => ownRelease s (fun s => .ok (flagPut s s.cl e ((srcS caps 1).setWidth 32)) flagNone)
    | _ => .trap s 0x108 0 0) s)

/-- FRD: reads an entry, relaxed (R322). -/
def execFrd (f : FRdF) (s : State) : Out :=
  .next (issue (.frd f) .P (fun caps s =>
    match flagName s (srcS caps 0) with
    | .own e => putG s f.d ((flagGet s s.cl e).setWidth 64) flagNone
    | _ => .trap s 0x108 0 0) s)

/-- FINC: adds to an entry of the own cluster, or sends a release-class packet to another cluster (R287, R288, R322). -/
def execFinc (f : Flag2) (s : State) : Out :=
  .next (issue (.finc f) .P (fun caps s =>
    let n : BitVec 32 := (srcS caps 1).setWidth 32
    match flagName s (srcS caps 0) with
    | .own e => ownRelease s (fun s => .ok (flagPut s s.cl e (flagGet s s.cl e + n)) flagNone)
    | .far die cl e => flagRelease s (fun s =>
        if mayRelease s.x die then
          .ok (modX (sendPacket s s.xid die true (causalVec s.x.pend die) (.flag (die * 12 + cl) e n))
            (fun x => { x with fincs := x.fincs + 1 })) flagNone
        else .hold s false)
    | .bad => .trap s 0x108 0 0) s)

/-- FWAIT: waits on an entry of the own cluster; the satisfying read acquires at cluster scope (R322). -/
def execFwait (f : FWaitF) (s : State) : Out :=
  .next (issueChecked (.fwait f) (fun s => if f.sus then suspendCheck s else none) .P (fun caps s =>
    match flagName s (srcS caps 0) with
    | .own e =>
      waitLoop s (fun s => .ok (leBytes 4 (flagGet s s.cl e).toNat) s) (fun s => .entry e (tabGet 0 (flagMark s.cl e) s.marks)) f.cond.toNat 32 ((srcS caps 1).toNat % 2 ^ 32) 0 f.sus
        (fun s _ => .ok (acquire s s.xid 0) flagNone)
    | _ => .trap s 0x108 0 0) s)

end Sys2Proof.Machine
end

