-- ==== Sys2Proof/Machine/Lease.lean ====
section
/-!
DEFINITION. The lease of the matrix array (R222–R226): MLEASE, MREL, and the steps that pass possession.
-/

namespace Sys2Proof.Machine

/-- Changes a cluster's lease. -/
def modLease (s : State) (cl : Nat) (f : Lease → Lease) : State := modCluster s cl (fun c => { c with lease := f c.lease })

def getLease (s : State) (cl : Nat) : Lease := (getCluster s cl).lease

/-- Whether continuation `cid` holds the lease. -/
def holdsLease (l : Lease) (cid : Nat) : Bool := l.holders.any (fun h => h.1 = cid)

/-- The budget of a request (R225). -/
def leaseBudget (v : Word) : Nat := if v = 0 then 64 else min v.toNat 256

/-- An MLEASE that may suspend its continuation (R225). -/
def suspends : Instr → Bool
  | .mlease f => f.sus
  | _ => false

/-- MLEASE at the head of its queue (R225): a holder's budget is replaced, any other request joins the tail of its FIFO. -/
def startLease (s : State) (cl slot : Nat) (t : TokEntry) : State :=
  let b := leaseBudget (t.op.gs.getD 0 0)
  let cid := t.op.cid
  let s := popHead s cl slot
  if holdsLease (getLease s cl) cid then
    let s := modLease s cl (fun l => { l with
      holders := l.holders.map (fun h => if h.1 = cid then (cid, b, t.pri.toNat) else h)
      used := if l.possess = some cid then 0 else l.used })
    opEnd s cl slot .done {}
  else modLease s cl (fun l => { l with fifo := l.fifo ++ [⟨cid, t.pri, b, some slot, s.tick, suspends t.op.instr⟩] })

/-- MREL at the head of its queue (R226). -/
def startRel (s : State) (cl slot : Nat) (t : TokEntry) : State := releaseLease (popHead s cl slot) cl t.op.cid (some slot)

/-- Whether a continuation has not ended: it runs, waits in a list, or is halted for an image. -/
def contLive (s : State) (cl cid : Nat) : Bool :=
  (ctxOfCont s cid).isSome || (getCluster s cl).susp.any (fun k => k.cid = cid) || (getCluster s cl).ready.any (fun k => k.cid = cid) ||
    s.ready.any (fun e => e.2.cid = cid) || s.planners.any (fun p => p.2.saved.any (fun v => v.x.cont.cid = cid))

/-- Gives possession to a request, with a new budget; its MLEASE is DONE (R222, R225). A continuation that has ended holds the lease
until the matrix operations that it issued are terminal (R224). -/
def giveLease (s : State) (cl : Nat) (r : LeaseReq) : State :=
  match r.tok with
  | none => modLease s cl (fun l => { l with possess := some r.cid, used := 0, idle := s.tick })
  | some slot =>
    let s := modLease s cl (fun l => { l with
      holders := l.holders ++ [(r.cid, r.budget, r.pri.toNat)], possess := some r.cid, used := 0, idle := s.tick
      releasing := if contLive s cl r.cid then l.releasing else l.releasing ++ [(r.cid, none)] })
    opEnd s cl slot .done {}

/-- The request that is served first: class 3 first, each class in order (R222). -/
def headRequest (l : Lease) : Option LeaseReq := bestBy (fun r => r.pri.toNat) l.fifo

/-- LEASE_GRANT (R222, R225): while nobody has possession, the head request is granted; for a continuation that has been suspended at its
MLEASE and does not run yet the array is reserved, and the continuation becomes ready. -/
def leaseGrant (s : State) (cl : Nat) : State :=
  let l := getLease s cl
  if l.possess.isSome || l.reserved.isSome then s
  else match headRequest l with
    | none => s
    | some r =>
      let s := modLease s cl (fun l => { l with fifo := l.fifo.erase r })
      if r.sus && (ctxOfCont s r.cid).isNone && contLive s cl r.cid then
        wakeCont (modLease s cl (fun l => { l with reserved := some (r, s.tick) })) cl r.cid
      else giveLease s cl r

/-- Possession leaves the holder, which joins the tail of its class with an implicit request (R223). DESIGN CHOICE (entry 179): the
class is the one its request was granted in, so that of an aged request is 3. -/
def passLease (s : State) (cl cid : Nat) : State :=
  modLease s cl (fun l =>
    match l.holders.find? (fun h => h.1 = cid) with
    | none => { l with possess := none, used := 0 }
    | some h => { l with possess := none, used := 0, fifo := l.fifo ++ [⟨cid, BitVec.ofNat 2 h.2.2, h.2.1, none, s.tick, false⟩] })

/-- A block step of the possessor counts against its budget (R222, R223). -/
def countStep (s : State) (cl cid : Nat) : State :=
  let l := getLease s cl
  let budget := ((l.holders.find? (fun h => h.1 = cid)).map (fun h => h.2.1)).getD 64
  if l.used + 1 < budget then modLease s cl (fun l => { l with used := l.used + 1 })
  else if l.fifo.isEmpty then modLease s cl (fun l => { l with used := 0 })
  else passLease s cl cid

/-- Whether a continuation has an operation of the array queued or running. -/
def arrayWork (s : State) (cl cid : Nat) : Bool :=
  (getCluster s cl).toks.any (fun e => e.2.op.cid = cid && usesArray e.2.op.instr && !e.2.state.terminal)

/-- IDLE_POSSESSION_TIMEOUT (R223): the possessor has had nothing for the array for 256 cycles while a request waits. -/
def idlePass (s : State) (cl : Nat) : State :=
  let l := getLease s cl
  match l.possess with
  | none => s
  | some cid =>
    if 256 ≤ s.tick - l.idle && l.fifo.any (fun r => 256 ≤ s.tick - r.since) && !arrayWork s cl cid then passLease s cl cid else s

/-- LEASE_REQUEST_AGING (R222): a request that has waited 65,536 cycles moves to the tail of class 3. -/
def leaseAging (s : State) (cl : Nat) : State :=
  match (getLease s cl).fifo.find? (fun r => 65536 ≤ s.tick - r.since && r.pri != 3) with
  | none => s
  | some r => modLease s cl (fun l => { l with fifo := l.fifo.erase r ++ [{ r with pri := 3 }] })

/-- LEASE_RESERVATION_LAPSE (R225): the request returns to the tail of its class. -/
def leaseLapse (s : State) (cl : Nat) : State :=
  match (getLease s cl).reserved with
  | none => s
  | some (r, t) =>
    if 10000 ≤ s.tick - t then modLease s cl (fun l => { l with reserved := none, fifo := l.fifo ++ [{ r with since := s.tick }] }) else s

/-! ### MLEASE that may suspend (R225) -/

/-- The slot of the MLEASE in progress. -/
def leaseSlot (s : State) (k : BitVec 4) : Nat := (s.x.ws.map (fun w => w.m0.toNat)).getD (tokSlot (vecGet s.x.k k.toNat 0))

/-- The request has been issued: it completes when its token is DONE, takes the array that is reserved for it, or suspends after 4
cycles. -/
def leaseWait (s : State) (k : BitVec 4) : Done :=
  let slot := leaseSlot s k
  let cid := s.x.cont.cid
  let done (s : State) (tok : Tok) : Done := .ok (modX s (fun x => { x with k := vecSet x.k k.toNat tok })) flagNone
  match getTok s s.cl slot with
  | none => .ok s flagNone
  | some t =>
    let tok := (getCluster s s.cl).tok slot
    if t.state.terminal then done s tok
    else match (getLease s s.cl).reserved.filter (fun r => r.1.cid = cid) with
      | some (r, _) => done (giveLease (modLease s s.cl (fun l => { l with reserved := none })) s.cl r) tok
      | none =>
        let t0 := (s.x.ws.map WaitSt.t0).getD s.tick
        let s := leaving s
        if s.tick - t0 < 4 || !streamsDone s.x || !mayLeave s then
          .hold (modX s (fun x => { x with ws := some { t0 := t0, m0 := BitVec.ofNat 64 slot, first := false } })) false
        else
          .left (stepHalt (suspend s { carry s.x ((s.x.cur.map Entry.pc).getD s.x.pc) with
            cur := s.x.cur, ws := some { t0 := t0, m0 := BitVec.ofNat 64 slot, first := false } } true))

/-- MLEASE with `.sus` on the access side: it waits for both streams, issues its request, then waits for the grant. -/
def leaseSuspend (i : Instr) (f : MLeaseF) (caps : List (Option Src)) (s : State) : Done :=
  if (s.x.cur.map Entry.cont).getD false then leaseWait s f.k
  else if !streamsDone s.x then .hold s false
  else match issueOp s (newOp s i 2 [] [] (capWords caps)) f.k f.pri false with
    | none => .hold (modX s (fun x => { x with tokA := if tableFull s then some (x.tokA.getD s.tick) else none })) false
    | some s =>
      let slot := tokSlot (vecGet s.x.k f.k.toNat 0)
      .hold (modX (setProg s 1) (fun x => { x with tokA := none, ws := some { t0 := s.tick, m0 := BitVec.ofNat 64 slot, first := true } })) false

/-- MLEASE (R225). -/
def execMlease (f : MLeaseF) (s : State) : Out :=
  .next (if f.sus then issueChecked (.mlease f) suspendCheck .M (leaseSuspend (.mlease f) f) s
    else issueMat (.mlease f) f.k f.pri false [] s)

/-- MREL (R226). -/
def execMrel (f : MRelF) (s : State) : Out := .next (issueMat (.mrel f) f.k f.pri false [] s)

/-- LEASE_GRANT (R222). -/
def execEvLeaseGrant (cl : Nat) (s : State) : Out := .next (leaseGrant s cl)

/-- IDLE_POSSESSION_TIMEOUT (R223). -/
def execEvIdlePossessionTimeout (cl : Nat) (s : State) : Out := .next (idlePass s cl)

/-- LEASE_REQUEST_AGING (R222). -/
def execEvLeaseRequestAging (cl : Nat) (s : State) : Out := .next (leaseAging s cl)

/-- LEASE_RESERVATION_LAPSE (R225). -/
def execEvLeaseReservationLapse (cl : Nat) (s : State) : Out := .next (leaseLapse s cl)

end Sys2Proof.Machine
end

