-- ==== Sys2Proof/Machine/Matrix.lean ====
section
/-!
DEFINITION. The matrix instructions (R219–R243): operand records, start checks, block steps by the block-sum rule (R146–R152),
and the moves between tiles and memory.
-/

namespace Sys2Proof.Machine

/-! ### Operand records (R227–R229) -/

/-- Chunks in a panel row. -/
def tpChunks (w : Word) : Nat := bitsOf w.toNat 60 4 + 1
def tpFmt (w : Word) : Nat := bitsOf w.toNat 56 4
def tpPitch (w : Word) : Nat := bitsOf w.toNat 44 12
/-- Panel height. -/
def tpRows (w : Word) : Nat := bitsOf w.toNat 32 12 + 1
def tpOff (w : Word) : Nat := bitsOf w.toNat 0 32
/-- Row stride in bytes. -/
def tpStride (w : Word) : Nat := if tpPitch w = 0 then 128 * tpChunks w else 128 * tpPitch w

/-- The offset of byte `x` of logical row `r` (R227). -/
def tpByte (w : Word) (r x : Nat) : Nat :=
  tpOff w + x / (128 * tpChunks w) * tpRows w * tpStride w + r * tpStride w + x % (128 * tpChunks w)

/-- The runs that hold bytes [x, x + n) of logical row `r`; `f` bounds their number. -/
def tpRuns (w : Word) (r : Nat) : Nat → Nat → Nat → List (Nat × Nat)
  | 0, _, _ => []
  | f + 1, x, n =>
    if n = 0 then [] else
      let c := 128 * tpChunks w
      let m := min n (c - x % c)
      (tpByte w r x, m) :: tpRuns w r f (x + m) (n - m)

/-- The end of the footprint of `rows` logical rows of `n` bytes. -/
def tpEnd (w : Word) (rows n : Nat) : Nat :=
  (List.range ((n + 128 * tpChunks w - 1) / (128 * tpChunks w))).foldl (fun m p =>
    let x := p * (128 * tpChunks w)
    max m (tpByte w (rows - 1) x + min (128 * tpChunks w) (n - x))) 0

/-- The rules of R230 on a tile pointer that needs `rows` rows. -/
def tpBad (w : Word) (rows : Nat) : Bool :=
  tpOff w % 128 != 0 || (tpPitch w != 0 && tpPitch w < tpChunks w) || tpRows w < rows

def spGeom (w : Word) : Nat := bitsOf w.toNat 32 3
def spQ (w : Word) : Bool := w.getLsbD 35
def spPitch (w : Word) : Nat := bitsOf w.toNat 36 12
def spOff (w : Word) : Nat := bitsOf w.toNat 0 32

/-- Elements of K in one chunk (R219). -/
def chunkElems (fmt : Nat) : Nat :=
  match fmt with
  | 2 => 64
  | 3 => 64
  | 6 => 168
  | 7 => 168
  | 8 => 256
  | 11 => 256
  | 12 => 256
  | _ => 128

/-- Blocks of a row (R228). -/
def spBlocks (w : Word) (fmt kc : Nat) : Nat :=
  let b := geomLen (spGeom w)
  if b = 0 then 0 else (kc * chunkElems fmt + b - 1) / b

/-- The smallest row stride of the scale words, in 64-byte units. -/
def spMin (w : Word) (fmt kc : Nat) : Nat := (4 * spBlocks w fmt kc + 63) / 64

/-- Row stride of the scale words in bytes (R228). -/
def spStride (w : Word) (fmt kc : Nat) : Nat := 64 * (if spPitch w = 0 then spMin w fmt kc else spPitch w)

/-- The rules of R228 and R230 on a scale pointer. -/
def spBad (w : Word) (fmt kc : Nat) : Bool :=
  bitsOf w.toNat 48 16 != 0 || (spGeom w = 0 && w != 0) || spOff w % 64 != 0 || (spPitch w != 0 && spPitch w < spMin w fmt kc)

def shM (w : Word) : Nat := bitsOf w.toNat 0 12 + 1
def shN (w : Word) : Nat := bitsOf w.toNat 12 12 + 1
def shK (w : Word) : Nat := bitsOf w.toNat 24 12 + 1
/-- A shape record with a bit set above its fields (R229). -/
def shBad (w : Word) : Bool := bitsOf w.toNat 36 28 != 0

def tilesOfDim (n : Nat) : Nat := (n + 127) / 128

/-- The groups of formats that MMA accepts together (R231). DESIGN CHOICE (log entry 180): MMV, whose B is "as A", accepts the same pairs. -/
def pairOk (i : Instr) (a b : Nat) : Bool :=
  let both (l : List Nat) : Bool := l.contains a && l.contains b
  match i with
  | .mmaq _ => both [9, 10] || both [11, 12]
  | .mmv _ => both [4, 5] || both [8] || both [9] || both [11]
  | _ => both [4, 5] || both [6, 7] || both [8] || both [2, 3] || both [9] || both [11]

/-- A scale pointer whose kind does not match the format (R113, R231). -/
def scaleOk (fmt : Nat) (sp : Word) : Bool :=
  geomOk fmt (spGeom sp) && (spGeom sp = 0 || spQ sp = (fmt = 9 || fmt = 10 || fmt = 11 || fmt = 12))

/-! ### Tiles (R220, R221, R241) -/

/-- The first tile and the number of tiles of a matrix operation. -/
def tilesOf (o : Op) : Nat × Nat :=
  let g (j : Nat) : Word := o.gs.getD j 0
  match o.instr with
  | .mma f => (f.acc.toNat, tilesOfDim (shM (g 2)) * tilesOfDim (shN (g 2)))
  | .mmaq f => (f.acc.toNat, tilesOfDim (shM (g 2)) * tilesOfDim (shN (g 2)))
  | .mmv f => (f.acc.toNat, tilesOfDim (shN (g 2)))
  | .mzero f => (f.acc.toNat, f.cnt.toNat + 1)
  | .mdrain f => (f.acc.toNat, tilesOfDim (shM (g 1)) * tilesOfDim (shN (g 1)))
  | .mldacc f => (f.acc.toNat, tilesOfDim (shM (g 1)) * tilesOfDim (shN (g 1)))
  | _ => (0, 0)

/-- Tiles of the node on a cluster (R220). -/
def tileLimit (c : Cluster) : Nat := min (tileCount c.poolpw) 256

/-- Whether an operation's tiles overlap those of a started operation of another continuation (R241). -/
def tilesBusy (c : Cluster) (slot : Nat) (o : Op) : Bool :=
  let (a, n) := tilesOf o
  c.toks.any (fun e => e.1 != slot && e.2.started && !e.2.state.terminal && isMatrixOp e.2.op.instr && e.2.op.cid != o.cid &&
    (let (b, m) := tilesOf e.2.op; a < b + m && b < a + n))

/-- The place of element (i, j) of tile `t` in the cluster's tile memory (R220). -/
def tileAt (t i j : Nat) : Nat := t * 65536 + 512 * i + 4 * j

/-- Row `i` of a tile: `n` elements as FP32 codes. -/
def tileRow (c : Cluster) (t i n : Nat) : List Nat := (chunks 4 n (memRead c.tiles (tileAt t i 0) (4 * n))).map leNat

/-- Writes elements of row `i` of a tile from column 0; the tile is in use until the next scrub (R469). -/
def setTileRow (s : State) (cl t i : Nat) (row : List Nat) : State :=
  modCluster s cl (fun c => { c with tiles := memWrite c.tiles (tileAt t i 0) (row.flatMap (leBytes 4)), used := noteNumber t c.used })

/-- Rows or columns of block `b` of 128 out of `n`. -/
def blockDim (n b : Nat) : Nat := min 128 (n - 128 * b)

/-! ### Block sums (R146–R151) -/

/-- A row of an operand in one chunk: its format, its codes, and for a scaled operand the blocks of the chunk: first and last
element, scale word (R219, R228). -/
structure ChunkRow where
  fmt   : Nat
  codes : List Nat
  blocks : Option (List (Nat × Nat × Nat))
  deriving DecidableEq, Repr

/-- The codes of a chunk (R219). -/
def chunkCodes (fmt : Nat) (bs : List Byte) : List Nat :=
  let p := if fmt = 6 || fmt = 7 then sixPattern else densePattern (elemBits fmt)
  let v := leNat bs
  (List.range (chunkElems fmt)).map (fun i =>
    let n := p.elems.length
    let (sh, w) := p.elems.getD (i % n) (0, 1)
    bitsOf v ((i / n) * p.period + sh) w)

/-- The blocks of geometry length `b` that meet chunk `kc`: block number, first and last local element + 1 (R147). -/
def chunkBlocks (e b kc : Nat) : List (Nat × Nat × Nat) :=
  if b = 0 then []
  else
    let k0 := kc * e
    (List.range ((k0 + e - 1) / b + 1 - k0 / b)).map (fun d =>
      let j := k0 / b + d
      (j, max (j * b) k0 - k0, min (j * b + b) (k0 + e) - k0))

/-- The value of an element before its scale; QA codes less the block's zero point (R116, R151). -/
def rawValue (fmt zp code : Nat) : ExactNum :=
  match floatFmt fmt with
  | some f => floatDecode f code
  | none => ExactNum.ofInt ((if isSignedInt fmt then signed (elemBits fmt) code else ((code % 2 ^ elemBits fmt : Nat) : Int)) - zp)

/-- The value of a scale word; a malformed one gives an invalid NaN (R114, R115). -/
def scaleValue (fmt w : Nat) : NumF :=
  if (floatFmt fmt).isSome then (floatDecode fp32 (w % 2 ^ 32), flagNone)
  else if scaleMalformed fmt w then nanInvalid
  else (floatDecode fp16 (bitsOf w 0 16), flagNone)

/-- The zero point of a scale word; 0 for the floating formats. -/
def scaleZp (fmt w : Nat) : Nat := if (floatFmt fmt).isSome then 0 else bitsOf w 16 8

/-- The exact sum of finite values and infinities: NaN when a value is NaN or both infinities occur (R136, R148); the sum of none is
−0, which no sum keeps. -/
def exactSum (l : List NumF) : NumF :=
  let fl := l.foldl (fun a v => a ||| v.2) flagNone
  if l.any (fun v => v.1.isNan) then (.nan false, fl ||| flagIf (l.any (fun v => v.1.isSig)) flagInvalid)
  else if l.any (fun v => v.1 = .inf true) && l.any (fun v => v.1 = .inf false) then (.nan false, fl ||| flagInvalid)
  else l.foldl (fun a v =>
    let r := numAdd a.1 v.1
    (r.1, a.2 ||| v.2 ||| r.2)) (.zero true, flagNone)

/-- A product with the flags of its operands. -/
def mulF (a b : NumF) : NumF :=
  let r := numMul a.1 b.1
  (r.1, r.2 ||| a.2 ||| b.2)

/-- The exact product of two elements. -/
def elemProduct (fa za ca fb zb cb : Nat) : NumF := numMul (rawValue fa za ca) (rawValue fb zb cb)

/-- Elements [lo, hi) of a list. -/
def sliceOf {α : Type} (l : List α) (lo hi : Nat) : List α := (l.drop lo).take (hi - lo)

/-- The terms of one step for one output (R147, R151). -/
def stepTerms (a b : ChunkRow) : List NumF :=
  match a.blocks, b.blocks with
  | none, none => (a.codes.zip b.codes).map (fun e => elemProduct a.fmt 0 e.1 b.fmt 0 e.2)
  | _, _ =>
    let ranges := match a.blocks, b.blocks with
      | some l, _ => l
      | none, some l => l
      | none, none => []
    ranges.zipIdx.map (fun r =>
      let (lo, hi, _) := r.1
      let wa := (a.blocks.bind (fun l => l[r.2]?)).map (fun e => e.2.2)
      let wb := (b.blocks.bind (fun l => l[r.2]?)).map (fun e => e.2.2)
      let za := (wa.map (scaleZp a.fmt)).getD 0
      let zb := (wb.map (scaleZp b.fmt)).getD 0
      let dot := exactSum (((sliceOf a.codes lo hi).zip (sliceOf b.codes lo hi)).map (fun e => elemProduct a.fmt za e.1 b.fmt zb e.2))
      let d1 := match wa with
        | some w => mulF dot (scaleValue a.fmt w)
        | none => dot
      match wb with
      | some w => mulF d1 (scaleValue b.fmt w)
      | none => d1)

/-- A term as a multiple of 2^q, truncated toward zero, and whether that discards something (R148). -/
def truncAt (q : Int) : ExactNum → Int × Bool
  | .fin neg m e _ =>
    let (n, lost) := if q ≤ e then (m <<< (e - q).toNat, false)
      else let sh := (q - e).toNat; (m >>> sh, m % 2 ^ sh != 0)
    (if neg then -(n : Int) else n, lost)
  | _ => (0, false)

/-- The weight of the leading bit of a term; none for a zero (R148). -/
def leadOf : ExactNum → Option Int
  | .fin _ m e _ => if m = 0 then none else some ((m.log2 : Int) + e)
  | _ => none

/-- s of R148 as an FP32 code, with its flags. DESIGN CHOICE (entry 220): beside infinities of both signs a quiet NaN decides, and nothing
sets invalid. -/
def stepSum (terms : List NumF) : Nat × Flags :=
  let fl := terms.foldl (fun a v => a ||| v.2) flagNone
  if terms.any (fun v => v.1.isNan) then (nanCode fp32, fl ||| flagIf (terms.any (fun v => v.1.isSig)) flagInvalid)
  else if terms.any (fun v => v.1 = .inf true) then
    if terms.any (fun v => v.1 = .inf false) then (nanCode fp32, fl ||| flagInvalid) else (signBit fp32 true + infCode fp32, fl)
  else if terms.any (fun v => v.1 = .inf false) then (infCode fp32, fl)
  else match (terms.filterMap (fun v => leadOf v.1)).max? with
    | none => (if terms.all (fun v => v.1.neg) then signBit fp32 true else 0, fl)
    | some top =>
      let q := top - 63
      let parts := terms.map (fun v => truncAt q v.1)
      let n := parts.foldl (fun a p => a + p.1) 0
      let lost := parts.any (fun p => p.2)
      if n = 0 then (0, fl ||| flagIf lost flagInexact)
      else
        let (c, f2) := (toFloat fp32 rneInf (.fin (decide (n < 0)) n.natAbs q false)).get
        (c, fl ||| f2 ||| flagIf lost flagInexact)

/-- acc := Round(acc + s) (R148). -/
def accAdd (acc s : Nat) : Nat × Flags := (roundNum fp32 rneInf (numAdd (floatDecode fp32 acc) (floatDecode fp32 s))).get

/-- One row of outputs: each accumulator with the block sum of its terms, and the flags. -/
def rowSums (a : ChunkRow) : List ChunkRow → List Nat → Flags → List Nat × Flags
  | b :: bs, p :: ps, fl =>
    let (s, f1) := stepSum (stepTerms a b)
    let (r, f2) := accAdd p s
    let (rest, f3) := rowSums a bs ps (fl ||| f1 ||| f2)
    (r :: rest, f3)
  | _, _, fl => ([], fl)

/-! ### MMA, MMAQ and MMV (R232–R236) -/

/-- The form that MMA, MMAQ and MMV share (R232). -/
def mmaForm : Instr → Option MmaF
  | .mma f => some f
  | .mmaq f => some f
  | .mmv f => some f
  | _ => none

/-- The captured sources of an operation: A, B, shape, scales of A and of B. -/
def opG (o : Op) (j : Nat) : Word := o.gs.getD j 0

/-- The captured handle `j`. -/
def opH (o : Op) (j : Nat) : HReg := o.hs.getD j {}

/-- The highest end of the footprint of an operand and of its scales (R235 step 5). -/
def operandEnd (tp sp : Word) (rows kc : Nat) : Nat :=
  let e := tpEnd tp rows (128 * kc)
  if spGeom sp = 0 then e
  else max e (spOff sp + (rows - 1) * spStride sp (tpFmt tp) kc + 4 * spBlocks sp (tpFmt tp) kc)

/-- The lowest start of the footprint. -/
def operandStart (tp sp : Word) : Nat := if spGeom sp = 0 then tpOff tp else min (tpOff tp) (spOff sp)

/-- Whether [lo, hi) lies within one stack-resident leaf of 16 MiB or 16 GiB (R234): the page's geometry; none while it is not so. -/
def stackPage (s : State) (space lo hi : Nat) : Option Nat :=
  match tabFind space s.roots with
  | none => none
  | some root =>
    match walk s.mem lo walkLevels root with
    | .error _ => none
    | .ok l =>
      if (l.k = 24 || l.k = 34) && pteStk l.pte && lo / 2 ^ l.k = (hi - 1) / 2 ^ l.k && !isHost l.pa && pteRange l.pte != 2 then some (pteGeom l.pte) else none

/-- Step 6 of R235 for MMV: B and its scales lie in one stack-resident page, whose block geometry is that of B's scales (R127). -/
def placementFail (s : State) (t : TokEntry) : Option (Cause × Word) :=
  match t.op.instr with
  | .mmv _ =>
    let h := opH t.op 1
    let (tp, sp) := (opG t.op 1, opG t.op 4)
    let lo := hAddr h (operandStart tp sp)
    match stackPage s (jobSpace s t.bundle) lo (hAddr h (operandEnd tp sp (shN (opG t.op 2)) (shK (opG t.op 2)))) with
    | none => some (0x306, BitVec.ofNat 64 lo)
    | some g => if g = spGeom sp then none else some (0x302, 0)
  | _ => none

/-- A failing check when the condition holds. -/
def failIf (c : Bool) (cause : Cause) (loc : Word) : Option (Cause × Word) := if c then some (cause, loc) else none

/-- Steps 1 to 7 of R235. -/
def mmaChecks (s : State) (cl : Nat) (t : TokEntry) (f : MmaF) : Option (Cause × Word) :=
  let (ga, gb, sh, sa, sb) := (opG t.op 0, opG t.op 1, opG t.op 2, opG t.op 3, opG t.op 4)
  let (m, n, kc) := (shM sh, shN sh, shK sh)
  let mv := match t.op.instr with
    | .mmv _ => true
    | _ => false
  let (acc, cnt) := tilesOf t.op
  let rA : BitVec 8 := if mv then rightR else rightM
  firstFail
    [ failIf (shBad sh || tpBad ga m || tpBad gb n || spBad sa (tpFmt ga) kc || spBad sb (tpFmt gb) kc || (mv && 16 < m)) 0x301 0,
      failIf (!pairOk t.op.instr (tpFmt ga) (tpFmt gb) || !scaleOk (tpFmt ga) sa || !scaleOk (tpFmt gb) sb ||
        (spGeom sa != 0 && spGeom sb != 0 && spGeom sa != spGeom sb)) 0x302 0,
      failIf (tileLimit (getCluster s cl) < acc + cnt) 0x304 0,
      failIf (kindOf (opH t.op 0) != 1 || kindOf (opH t.op 1) != (if mv then 0 else 1)) 0x307 0,
      checkHandle s cl t (opH t.op 0) f.ha rA (operandStart ga sa) (operandEnd ga sa m kc),
      checkHandle s cl t (opH t.op 1) f.hb rA (operandStart gb sb) (operandEnd gb sb n kc),
      placementFail s t,
      failIf (usesArray t.op.instr && !holdsLease (getLease s cl) t.op.cid) 0x091 0 ]

/-- Whether a translation of MMV's B must be served before its placement can be judged (R258). -/
def mmvTranslates (s : State) (cl slot : Nat) (t : TokEntry) : EAcc Unit :=
  match t.op.instr with
  | .mmv _ =>
    if kindOf (opH t.op 1) = 0 && handleCheck s (jobSpace s t.bundle) (opH t.op 1) rightR = 0 then
      match engTarget s cl slot t 0 needLoad (hAddr (opH t.op 1) (tpOff (opG t.op 1))) with
      | .ok _ s => .ok () s
      | .hold s => .hold s
      | .fail s c l => .fail s c l
    else .ok () s
  | _ => .ok () s

/-- The operation runs from now on, with `total` steps. -/
def runOp (s : State) (cl slot total : Nat) : State :=
  modTok (popHead s cl slot) cl slot (fun t => { t with state := .running, total := total })

/-- A failed start (R235, R331). -/
def failStart (s : State) (cl slot : Nat) (c : Cause × Word) : State := opFault (popHead s cl slot) cl slot c.1 c.2

/-- Start of MMA, MMAQ or MMV (R235): an operation of the array that passes steps 1 to 7 without possession stays QUEUED at the head
of its queue (R223). -/
def startMma (s : State) (cl slot : Nat) (t : TokEntry) (f : MmaF) : State :=
  let sh := opG t.op 2
  let total := tilesOfDim (shM sh) * tilesOfDim (shN sh) * shK sh
  match mmaChecks s cl t f with
  | some (0x306, l) =>
    match mmvTranslates s cl slot t with
    | .hold s => s
    | .fail s c loc => failStart s cl slot (c, loc)
    | .ok _ s => failStart s cl slot (0x306, l)
  | some c => failStart s cl slot c
  | none =>
    if usesArray t.op.instr && (getLease s cl).possess != some t.op.cid then s
    else if tilesBusy (getCluster s cl) slot t.op then failStart s cl slot (0x305, 0)
    else runOp s cl slot total

/-- The rows [lo, lo + n) of an operand in chunk `kc`: the runs of elements and of scale words to read (R227, R228). -/
def operandRuns (tp sp : Word) (kcs kc lo n : Nat) : List (Nat × Nat) :=
  (List.range n).flatMap (fun i =>
    let r := lo + i
    let e := [(tpByte tp r (128 * kc), 128)]
    match chunkBlocks (chunkElems (tpFmt tp)) (geomLen (spGeom sp)) kc with
    | [] => e
    | b :: bs => e ++ [(spOff sp + r * spStride sp (tpFmt tp) kcs + 4 * b.1, 4 * (bs.length + 1))])

/-- The rows read, as codes and scale words. -/
def operandRows (tp sp : Word) (kc : Nat) : List (List Byte) → List ChunkRow
  | [] => []
  | e :: rest =>
    let fmt := tpFmt tp
    match chunkBlocks (chunkElems fmt) (geomLen (spGeom sp)) kc with
    | [] => ⟨fmt, chunkCodes fmt e, none⟩ :: operandRows tp sp kc rest
    | bl =>
      match rest with
      | w :: rest =>
        ⟨fmt, chunkCodes fmt e, some (bl.zipIdx.map (fun b => (b.1.2.1, b.1.2.2, leNat ((w.drop (4 * b.2)).take 4))))⟩ ::
          operandRows tp sp kc rest
      | [] => []

/-- Bytes read by a list of runs. -/
def runBytes (l : List (Nat × Nat)) : Nat := l.foldl (fun n r => n + r.2) 0

/-- Writes the rows of a tile that a step has updated. -/
def putRows (s : State) (cl t : Nat) : Nat → List (List Nat) → State
  | _, [] => s
  | i, r :: rs => putRows (setTileRow s cl t i r) cl t (i + 1) rs

/-- A's rows for a chunk: read by each step of the array, and sent once to the stack at the start of each 128-column group of an MMV, which
keeps them for the group (R234). -/
def rowsOfA (s : State) (cl slot : Nat) (t : TokEntry) (rows tm kc : Nat) : EAcc (List (List Byte)) :=
  let (ga, sa, kcs) := (opG t.op 0, opG t.op 3, shK (opG t.op 2))
  let runs (k : Nat) : List (Nat × Nat) := operandRuns ga sa kcs k (128 * tm) rows
  if usesArray t.op.instr then engReadAll s cl slot t (opH t.op 0) (runs kc) []
  else
    let part (l : List (List Byte)) : List (List Byte) :=
      (l.drop (((List.range kc).map (fun k => (runs k).length)).sum)).take (runs kc).length
    if t.sent.isEmpty then
      (engReadAll s cl slot t (opH t.op 0) ((List.range kcs).flatMap runs) []).bind (fun l s =>
        .ok (part l) (modTok s cl slot (fun t => { t with sent := l })))
    else .ok (part t.sent) s

/-- One block step of an MMA, MMAQ or MMV (R236), performed on the tile itself, which is where a drain leaves the sums (R221). -/
def mmaStep (s : State) (cl slot : Nat) (t : TokEntry) (f : MmaF) : State :=
  let (ga, gb, sh, sa, sb) := (opG t.op 0, opG t.op 1, opG t.op 2, opG t.op 3, opG t.op 4)
  let (m, n, kcs) := (shM sh, shN sh, shK sh)
  let tms := tilesOfDim m
  let (ti, kc) := (t.done / kcs, t.done % kcs)
  let (tn, tm) := (ti / tms, ti % tms)
  let (rows, cols) := (blockDim m tm, blockDim n tn)
  let runsA := operandRuns ga sa kcs kc (128 * tm) rows
  let runsB := operandRuns gb sb kcs kc (128 * tn) cols
  let r := (rowsOfA s cl slot t rows tm kc).bind (fun ra s =>
    (engReadAll s cl slot t (opH t.op 1) runsB []).bind (fun rb s => .ok (ra, rb) s))
  match r with
  | .hold s => s
  | .fail s c loc => opFault s cl slot c loc
  | .ok (ra, rb) s =>
    let a := operandRows ga sa kc ra
    let b := operandRows gb sb kc rb
    let tile := f.acc.toNat + ti
    let fresh := f.z && kc = 0
    let res := a.zipIdx.map (fun e =>
      rowSums e.1 b (if fresh then List.replicate cols 0 else tileRow (getCluster s cl) tile e.2 cols) flagNone)
    let s := putRows s cl tile 0 (res.map (·.1))
    let s := countBytes (countBytes s t.bundle f.bufa (runBytes runsA)) t.bundle f.bufb (runBytes runsB)
    let s := modTok s cl slot (fun t => { t with done := t.done + 1,
                                                 sent := if kc + 1 = kcs then [] else t.sent,
                                                 flags := res.foldl (fun fl r => fl ||| r.2) t.flags })
    let s := if usesArray t.op.instr then countStep s cl t.op.cid else s
    endStep s cl slot

/-- One step of the operation, or the stop that falls before it (R499). -/
def stepOp (s : State) (cl slot : Nat) (t : TokEntry) (body : State → State) : State :=
  match stopNow s t, t.stop with
  | (true, s), some c => opEnd s cl slot .cancelled { cause := c, loc := t.fr.loc }
  | (_, s), some c => abandonHeld (body s) cl slot c
  | (_, s), none => body s

/-- Whether no other operation of the matrix sequencer of cluster `cl` is held on a translation: such a hold holds the sequencer (R239, R258). -/
def seqOpen (s : State) (cl : Nat) (t : TokEntry) : Bool :=
  s.faults.all (fun f => f.kind != 3 || (match f.eng with
    | some (k, slot) => k != cl || (getTok s k slot).all (fun h => h.op.member != 2 || h.op.seq = t.op.seq)
    | none => true))

/-- MATRIX_BLOCK_STEP (R236): the possessor's operation makes one step. -/
def matrixBlockStep (s : State) (cl : Nat) : State :=
  if !enginesRun s cl then s
  else match pickRunning s cl 4 (fun t => seqOpen s cl t && usesArray t.op.instr && (getLease s cl).possess = some t.op.cid) with
    | none => s
    | some (slot, t) =>
      match mmaForm t.op.instr with
      | none => s
      | some f => stepOp (noteServed s cl 4 slot) cl slot t (fun s => mmaStep s cl slot t f)

/-- MMV_GROUP_STEP (R234). -/
def mmvGroupStep (s : State) (cl : Nat) : State :=
  if !enginesRun s cl then s
  else match pickRunning s cl 5 (fun t => seqOpen s cl t && (mmaForm t.op.instr).isSome && !usesArray t.op.instr) with
    | none => s
    | some (slot, t) =>
      match mmaForm t.op.instr with
      | none => s
      | some f => stepOp (noteServed s cl 5 slot) cl slot t (fun s => mmaStep s cl slot t f)

/-! ### MZERO, MDRAIN and MLDACC (R237–R239) -/

/-- Start of MZERO (R237). -/
def startZero (s : State) (cl slot : Nat) (t : TokEntry) : State :=
  let (acc, n) := tilesOf t.op
  if tileLimit (getCluster s cl) < acc + n then failStart s cl slot (0x304, 0)
  else if tilesBusy (getCluster s cl) slot t.op then failStart s cl slot (0x305, 0)
  else runOp s cl slot n

/-- Formats that MDRAIN and MLDACC accept (R231). -/
def drainFmt (fmt : Nat) : Bool := fmt = 1 || fmt = 2 || fmt = 3 || fmt = 4 || fmt = 5

/-- The checks of R235, without steps 6 and 7, for a stored matrix (R230, R238). -/
def tileChecks (s : State) (cl : Nat) (t : TokEntry) (f : MTileF) (rights : BitVec 8) : Option (Cause × Word) :=
  let (gt, sh) := (opG t.op 0, opG t.op 1)
  let bytes := shN sh * contBytes (tpFmt gt)
  let (acc, n) := tilesOf t.op
  firstFail
    [ failIf (bitsOf sh.toNat 36 28 != 0 || tpBad gt (shM sh) || (drainFmt (tpFmt gt) && bytes % 16 != 0)) 0x301 0,
      failIf (!drainFmt (tpFmt gt)) 0x302 0,
      failIf (tileLimit (getCluster s cl) < acc + n) 0x304 0,
      failIf (kindOf (opH t.op 0) != 0 && kindOf (opH t.op 0) != 1) 0x307 0,
      checkHandle s cl t (opH t.op 0) f.h rights (tpOff gt) (tpEnd gt (shM sh) bytes) ]

/-- Start of MDRAIN or MLDACC (R238). -/
def startTile (s : State) (cl slot : Nat) (t : TokEntry) (f : MTileF) (rights : BitVec 8) : State :=
  match tileChecks s cl t f rights with
  | some c => failStart s cl slot c
  | none =>
    if tilesBusy (getCluster s cl) slot t.op then failStart s cl slot (0x305, 0) else runOp s cl slot (tilesOf t.op).2

/-- One row of a drain: codes of the destination format with flags and lanes, or the cause of the TRAP policy (R133, R239). -/
def drainRow (fmt : Nat) (rnd ovf : BitVec 2) (seed : Word) (col : Nat) :
    List Nat → Tab (BitVec 32) → Flags → Except Cause (List Nat × Tab (BitVec 32) × Flags)
  | [], lanes, fl => .ok ([], lanes, fl)
  | c :: cs, lanes, fl =>
    let (st, lanes) := if rnd = 2 then privLane seed lanes col else (0, lanes)
    match toElem fmt ⟨rnd, ovf, st⟩ (floatDecode fp32 c) with
    | .trap e => .error e
    | .ok v f2 =>
      match drainRow fmt rnd ovf seed (col + 1) cs lanes (fl ||| f2) with
      | .error e => .error e
      | .ok (vs, lanes, fl) => .ok (v :: vs, lanes, fl)

/-- The rows of a tile drained in order. -/
def drainRows (fmt : Nat) (rnd ovf : BitVec 2) (seed : Word) (col : Nat) :
    List (List Nat) → Tab (BitVec 32) → Flags → Except Cause (List (List Nat) × Tab (BitVec 32) × Flags)
  | [], lanes, fl => .ok ([], lanes, fl)
  | r :: rs, lanes, fl =>
    match drainRow fmt rnd ovf seed col r lanes fl with
    | .error e => .error e
    | .ok (v, lanes, fl) =>
      match drainRows fmt rnd ovf seed col rs lanes fl with
      | .error e => .error e
      | .ok (vs, lanes, fl) => .ok (v :: vs, lanes, fl)

/-- The runs of offsets that hold block (tm, tn) of a stored matrix of `sz`-byte elements. -/
def storedRuns (gt : Word) (m n tm tn sz : Nat) : List (Nat × Nat) :=
  (List.range (blockDim m tm)).flatMap (fun i =>
    tpRuns gt (128 * tm + i) (128 * sz / 128 + 2) (128 * tn * sz) (blockDim n tn * sz))

/-- Writes consecutive bytes to a list of locations with lengths. -/
def writeRuns (s : State) : List (Loc × Nat) → List Byte → State
  | [], _ => s
  | (l, n) :: rest, bs => writeRuns (writeHome s l (bs.take n)) rest (bs.drop n)

/-- Ends a tile step. -/
def tileDone (s : State) (cl slot : Nat) (lanes : Tab (BitVec 32)) (fl : Flags) : State :=
  endStep (modTok s cl slot (fun t => { t with done := t.done + 1, lanes := lanes, flags := t.flags ||| fl })) cl slot

/-- Clears `rows` × `cols` elements of a tile. -/
def clearTile (s : State) (cl t rows cols : Nat) : State := putRows s cl t 0 (List.replicate rows (List.replicate cols 0))

/-- One tile of an MDRAIN (R239). DESIGN CHOICE (log entry 181): a tile that fails has none of its bytes written, of those that R239 lets
be written or not. -/
def drainStep (s : State) (cl slot : Nat) (t : TokEntry) (f : MTileF) : State :=
  let (gt, sh) := (opG t.op 0, opG t.op 1)
  let (m, n, sz) := (shM sh, shN sh, contBytes (tpFmt gt))
  let (tm, tn) := (t.done % tilesOfDim m, t.done / tilesOfDim m)
  let tile := f.acc.toNat + t.done
  let (rows, cols) := (blockDim m tm, blockDim n tn)
  let h := opH t.op 0
  match drainRows (tpFmt gt) f.rnd f.ovf t.op.seed (128 * tn)
      ((List.range rows).map (fun i => tileRow (getCluster s cl) tile i cols)) t.lanes flagNone with
  | .error c => opFault s cl slot c 0
  | .ok (codes, lanes, fl) =>
    let pieces := (storedRuns gt m n tm tn sz).flatMap (fun r => pageRuns (hAddr h r.1) r.2)
    match engCanWrite s cl slot t (kindOf h) pieces [] with
    | .hold s => s
    | .fail s c loc => opFault s cl slot c loc
    | .ok locs s =>
      let s := writeRuns s (locs.zip (pieces.map (·.2))) (codes.flatten.flatMap (leBytes sz))
      let s := countBytes s t.bundle f.buf (runBytes pieces)
      let s := if f.z then clearTile s cl tile rows cols else s
      tileDone s cl slot lanes fl

/-- A stored element as an FP32 code (R239). -/
def loadCode (fmt code : Nat) : Nat × Flags := (toFloat fp32 rneInf (elemDecode fmt code)).get

/-- One tile of an MLDACC (R239). -/
def loadStep (s : State) (cl slot : Nat) (t : TokEntry) (f : MTileF) : State :=
  let (gt, sh) := (opG t.op 0, opG t.op 1)
  let (m, n, sz) := (shM sh, shN sh, contBytes (tpFmt gt))
  let (tm, tn) := (t.done % tilesOfDim m, t.done / tilesOfDim m)
  let tile := f.acc.toNat + t.done
  let (rows, cols) := (blockDim m tm, blockDim n tn)
  let h := opH t.op 0
  let pieces := (storedRuns gt m n tm tn sz).flatMap (fun r => pageRuns (hAddr h r.1) r.2)
  match engReadRuns s cl slot t (kindOf h) pieces [] with
  | .hold s => s
  | .fail s c loc => opFault s cl slot c loc
  | .ok bs s =>
    let els := ((chunks sz (rows * cols) bs).map (fun c => loadCode (tpFmt gt) (leNat c)))
    let s := putRows s cl tile 0 ((List.range rows).map (fun i => ((els.drop (i * cols)).take cols).map (·.1)))
    let s := countBytes s t.bundle f.buf (runBytes pieces)
    tileDone s cl slot t.lanes (els.foldl (fun fl e => fl ||| e.2) flagNone)

/-- TILE_MOVE_STEP (R239): one tile of a running MZERO, MDRAIN or MLDACC. -/
def tileMoveStep (s : State) (cl : Nat) : State :=
  if !enginesRun s cl then s
  else match pickRunning s cl 6 (fun t => seqOpen s cl t && isMatrixOp t.op.instr && (mmaForm t.op.instr).isNone) with
    | none => s
    | some (slot, t) =>
      stepOp (noteServed s cl 6 slot) cl slot t (fun s =>
        match t.op.instr with
        | .mdrain f => drainStep s cl slot t f
        | .mldacc f => loadStep s cl slot t f
        | .mzero f => tileDone (clearTile s cl (f.acc.toNat + t.done) 128 128) cl slot t.lanes flagNone
        | _ => s)

/-! ### Start (R235, R241) -/

/-- Whether an instruction goes into a queue of the matrix sequencer (R386). -/
def inMatrixQueue : Instr → Bool
  | .mlease _ | .mrel _ => true
  | i => isMatrixOp i

/-- Whether an operation that the same continuation issued before into the matrix sequencer is not terminal: the next
one starts after it (R241, R400). -/
def matrixPending (s : State) (cl cid seq : Nat) : Bool :=
  (getCluster s cl).toks.any (fun e =>
    e.2.op.cid = cid && e.2.op.seq < seq && inMatrixQueue e.2.op.instr && !e.2.state.terminal)

/-- Whether a head of the matrix queues may be served: not while the sequencer is held on another operation (R239), not while an earlier matrix operation of its continuation is open, nor again
while an operation of the array waits for possession that its continuation does not have (R223, R241). -/
def matrixMay (s : State) (cl : Nat) (t : TokEntry) : Bool :=
  seqOpen s cl t && !matrixPending s cl t.op.cid t.op.seq &&
    !(usesArray t.op.instr && t.waited && holdsLease (getLease s cl) t.op.cid && (getLease s cl).possess != some t.op.cid)

/-- MATRIX_OP_START (R235): the sequencer serves one queue head. -/
def matrixOpStart (s : State) (cl : Nat) : State :=
  if !enginesRun s cl then s
  else match pickHead s cl 2 (fun _ t => matrixMay s cl t) with
    | none => s
    | some (core, slot, t) =>
      let s := serveHead s cl 2 core slot t
      match t.op.instr with
      | .mlease _ => startLease s cl slot t
      | .mrel _ => startRel s cl slot t
      | .mma f => startMma s cl slot t f
      | .mmaq f => startMma s cl slot t f
      | .mmv f => startMma s cl slot t f
      | .mzero _ => startZero s cl slot t
      | .mdrain f => startTile s cl slot t f rightW
      | .mldacc f => startTile s cl slot t f rightR
      | _ => s

/-! ### Instructions and events -/

/-- MMA (R232). -/
def execMma (f : MmaF) (s : State) : Out := .next (issueMat (.mma f) f.k f.pri f.dt [f.ha, f.hb] s)

/-- MMAQ (R232). -/
def execMmaq (f : MmaF) (s : State) : Out := .next (issueMat (.mmaq f) f.k f.pri f.dt [f.ha, f.hb] s)

/-- MMV (R232). -/
def execMmv (f : MmaF) (s : State) : Out := .next (issueMat (.mmv f) f.k f.pri f.dt [f.ha, f.hb] s)

/-- MZERO (R237). -/
def execMzero (f : MZeroF) (s : State) : Out := .next (issueMat (.mzero f) f.k f.pri f.dt [] s)

/-- MDRAIN (R238). -/
def execMdrain (f : MTileF) (s : State) : Out := .next (issueMat (.mdrain f) f.k f.pri f.dt [f.h] s)

/-- MLDACC (R238). -/
def execMldacc (f : MTileF) (s : State) : Out := .next (issueMat (.mldacc f) f.k f.pri f.dt [f.h] s)

/-- MATRIX_OP_START (R235). -/
def execEvMatrixOpStart (cl : Nat) (s : State) : Out := .next (matrixOpStart s cl)

/-- MATRIX_BLOCK_STEP (R236). -/
def execEvMatrixBlockStep (cl : Nat) (s : State) : Out := .next (matrixBlockStep s cl)

/-- MMV_GROUP_STEP (R234). -/
def execEvMmvGroupStep (cl : Nat) (s : State) : Out := .next (mmvGroupStep s cl)

/-- TILE_MOVE_STEP (R239). -/
def execEvTileMoveStep (cl : Nat) (s : State) : Out := .next (tileMoveStep s cl)

/-- ENGINE_HEAD_AGING (R386). -/
def execEvEngineHeadAging (cl : Nat) (eng : Nat) (s : State) : Out := .next (headAging s cl eng)

/-- TOKEN_ISSUE_TIMEOUT (R398). -/
def execEvTokenIssueTimeout (c : Nat) (s : State) : Out := .next (onCtx s c tokenTimeout)

end Sys2Proof.Machine
end

