-- ==== Sys2Proof/Machine/Copy.lean ====
section
/-!
DEFINITION. The copy engines (R325–R345, R497): layouts, the start checks, the steps of CPY, CPYG, CPYS, CPYR and CFILL with
decoding, conversion and combining, the engines' shoal logs (R259–R261), channels, and PKSET.
-/

namespace Sys2Proof.Machine

/-! ### Layout records (R325–R329) -/

/-- Count of dimension `i`; 0 means 1. -/
def lyCount (y : BitVec 256) (i : Nat) : Nat := let n := bitsOf y.toNat (16 * i) 16; if n = 0 then 1 else n
def lyPitch (y : BitVec 256) (i : Nat) : Int := signed 32 (bitsOf y.toNat (64 + 32 * i) 32)
/-- The dimension at place `j`, outermost first. -/
def lyOrder (y : BitVec 256) (j : Nat) : Nat := bitsOf y.toNat (198 - 2 * j) 2
def lyRows (y : BitVec 256) : Nat := bitsOf y.toNat 200 8 + 1
def lyRowBytes (y : BitVec 256) : Nat := 16 * (bitsOf y.toNat 208 8 + 1)
def lyRowPitch (y : BitVec 256) : Int := signed 32 (bitsOf y.toNat 216 32)
def lyInner (y : BitVec 256) : Nat := bitsOf y.toNat 248 2
def lySwz (y : BitVec 256) : Nat := bitsOf y.toNat 250 3
def lyShift (y : BitVec 256) : Nat := bitsOf y.toNat 253 3
/-- Steps of a layout (R326). -/
def lySteps (y : BitVec 256) : Nat := lyCount y 0 * lyCount y 1 * lyCount y 2 * lyCount y 3
/-- Bytes of a block. -/
def lyBlock (y : BitVec 256) : Nat := lyRows y * lyRowBytes y

/-- The offset of block `k` (R326): the dimension listed last is innermost. -/
def lyOffset (y : BitVec 256) (off : Nat) (k : Nat) : Int :=
  let d (j : Nat) : Nat := lyOrder y j
  let i3 := k % lyCount y (d 3)
  let k2 := k / lyCount y (d 3)
  let i2 := k2 % lyCount y (d 2)
  let k1 := k2 / lyCount y (d 2)
  let i1 := k1 % lyCount y (d 1)
  let i0 := k1 / lyCount y (d 1)
  (off : Int) + i0 * lyPitch y (d 0) + i1 * lyPitch y (d 1) + i2 * lyPitch y (d 2) + i3 * lyPitch y (d 3)

/-- The offset of row `r` of block `k`. -/
def lyRowAt (y : BitVec 256) (off k r : Nat) : Int := lyOffset y off k + r * lyRowPitch y

/-- The footprint [lo, hi) of a layout; rounded outward to 8 KiB under a swizzle (R326, R328). `base` is the handle's. -/
def lyFoot (y : BitVec 256) (base off : Nat) : Int × Int :=
  let spans := [((lyCount y 0 : Int) - 1) * lyPitch y 0, ((lyCount y 1 : Int) - 1) * lyPitch y 1, ((lyCount y 2 : Int) - 1) * lyPitch y 2,
    ((lyCount y 3 : Int) - 1) * lyPitch y 3, ((lyRows y : Int) - 1) * lyRowPitch y]
  let lo := spans.foldl (fun a x => a + min 0 x) (off : Int)
  let hi := spans.foldl (fun a x => a + max 0 x) (off : Int) + lyRowBytes y
  if lySwz y = 0 then (lo, hi)
  else
    let lo' := (lo + base) / 8192 * 8192 - base
    let hi' := (hi + base + 8191) / 8192 * 8192 - base
    (lo', hi')

/-- A layout that is malformed for a handle of a kind (R329). -/
def lyBad (y : BitVec 256) (kind : Nat) : Bool :=
  !((List.range 4).all (fun d => (List.range 4).any (fun j => lyOrder y j = d))) || 3 ≤ lySwz y || (lySwz y != 0 && kind != 1) ||
    2 ^ 32 < lySteps y

/-- R327: whether a destination block takes `rs` rows of `bs` bytes under transpose unit `e`. -/
def shapeOk (y : BitVec 256) (e rs bs : Nat) : Bool :=
  match lyInner y with
  | 0 => lyRows y = rs && lyRowBytes y = bs
  | 1 => bs % e = 0 && lyRows y = bs / e && lyRowBytes y = rs * e
  | 2 => rs % 4 = 0 && lyRows y = rs / 4 && lyRowBytes y = 4 * bs
  | _ => rs % 8 = 0 && lyRows y = rs / 8 && lyRowBytes y = 8 * bs

/-- Where byte `x` of source row `r` lands: destination row and byte (R327). -/
def innerPlace (inner e r x : Nat) : Nat × Nat :=
  match inner with
  | 0 => (r, x)
  | 1 => (x / e, r * e + x % e)
  | 2 => (r / 4, (x / 16 * 4 + r % 4) * 16 + x % 16)
  | _ => (r / 8, (x / 16 * 8 + r % 8) * 16 + x % 16)

/-- The block's rows arranged into destination rows (R327). DESIGN CHOICE (entry 223): under K-interleave the bytes of a decoded row after its
last whole unit of 16 bytes are dropped. -/
def arrange (inner e bs : Nat) (rows : List (List Byte)) : List (List Byte) :=
  match inner with
  | 0 => rows
  | 1 => (List.range (bs / e)).map (fun q => rows.flatMap (fun row => (row.drop (q * e)).take e))
  | i =>
    let g := if i = 2 then 4 else 8
    (List.range (rows.length / g)).map (fun q =>
      (List.range (bs / 16)).flatMap (fun u => ((rows.drop (q * g)).take g).flatMap (fun row => (row.drop (16 * u)).take 16)))

/-- Pieces of [a, a + n) that do not cross a 64-byte line: offset within the run, address, length; `f` bounds their number. -/
def lineCut (a : Nat) : Nat → Nat → Nat → List (Nat × Nat × Nat)
  | 0, _, _ => []
  | f + 1, x, n => if n = 0 then [] else
    let m := min n (64 - (a + x) % 64)
    (x, a + x, m) :: lineCut a f (x + m) (n - m)

/-- A run cut at its 64-byte lines. -/
def lineRuns (a n : Nat) : List (Nat × Nat × Nat) := lineCut a (n / 64 + 2) 0 n

/-- The swizzle of a scratchpad offset in row `r` (R328). -/
def swizzle (y : BitVec 256) (r o : Nat) : Nat :=
  if lySwz y = 0 then o
  else
    let l := o / 64 % 128
    let t := (r >>> lyShift y) % 128
    let l' := if lySwz y = 1 then l ^^^ t else (l + t) % 128
    o / 8192 * 8192 + l' * 64 + o % 64

/-- The pieces of row `r` of a side, `n` bytes from offset `o` of the handle: byte of the row, address, length (R326, R328). -/
def sidePieces (h : HReg) (y : BitVec 256) (r : Nat) (o : Int) (n : Nat) : List (Nat × Nat × Nat) :=
  (lineRuns ((hBase h.bits).toNat + o).toNat n).map (fun p => (p.1, swizzle y r p.2.1, p.2.2))

/-! ### The operands of a copy (R330, R337, R338) -/

/-- What kind of copy an instruction is. -/
inductive CopyKind where
  | plain | gather | scatter
  | reduce (op : BitVec 2)
  | fill (v : Word)
  deriving DecidableEq, Repr

/-- One side of a copy: handle, its register, offset and layout. -/
structure Side where
  h   : HReg
  reg : BitVec 5
  off : Nat
  y   : BitVec 256
  deriving DecidableEq, Repr

/-- The operands of a copy. -/
structure CopyView where
  kind : CopyKind
  d    : Side
  s    : Side
  dc   : Bool
  dfmt : Nat
  rnd  : BitVec 2
  ovf  : BitVec 2
  pat  : Bool
  e    : Nat
  buf  : BitVec 8
  che  : Bool
  ch   : Nat
  idx  : HReg
  ireg : BitVec 5
  ioff : Nat
  cnt  : Nat
  deriving DecidableEq, Repr

/-- The captured layout `j`. -/
def opY (o : Op) (j : Nat) : BitVec 256 := o.ys.getD j 0

/-- The view of words 0 to 2 of R337. -/
def viewOf (o : Op) (f : CpyF) (k : CopyKind) : CopyView :=
  { kind := k, d := ⟨opH o 0, f.hd, (opG o 0).toNat, opY o 0⟩, s := ⟨opH o 1, f.hs, (opG o 1).toNat, opY o 1⟩, dc := f.dc,
    dfmt := f.dfmt.toNat, rnd := f.rnd, ovf := f.ovf, pat := f.pat, e := 2 ^ f.esz.toNat, buf := f.buf, che := f.che, ch := f.ch.toNat,
    idx := opH o 2, ireg := 0, ioff := (opG o 3).toNat, cnt := (opG o 4).toNat }

/-- The operands of an operation that is a copy, or a transfer of XST or XLD (R347). -/
def copyView (o : Op) : Option CopyView :=
  match o.instr with
  | .cpy f => some (viewOf o f .plain)
  | .cpyg f => some { viewOf o f.c .gather with ireg := f.hi }
  | .cpys f => some { viewOf o f.c .scatter with ireg := f.hi }
  | .cpyr f => some (viewOf o f.c (.reduce f.op))
  | .cfill f =>
    some { kind := .fill (opG o 0), d := ⟨opH o 0, f.hd, (opG o 1).toNat, opY o 0⟩, s := ⟨{}, 0, 0, 0⟩, dc := false, dfmt := 0, rnd := 0,
           ovf := 0, pat := false, e := 1, buf := f.buf, che := f.che, ch := f.ch.toNat, idx := {}, ireg := 0, ioff := 0, cnt := 0 }
  | .xst f =>
    some { kind := .plain, d := ⟨opH o 0, f.hd, (opG o 0).toNat, opY o 0⟩, s := ⟨opH o 1, f.hs, (opG o 1).toNat, opY o 1⟩, dc := false,
           dfmt := 0, rnd := 0, ovf := 0, pat := false, e := 1, buf := f.buf, che := false, ch := 0, idx := {}, ireg := 0, ioff := 0, cnt := 0 }
  | .xld f =>
    some { kind := .plain, d := ⟨opH o 0, f.hd, (opG o 0).toNat, opY o 0⟩, s := ⟨opH o 1, f.hs, (opG o 1).toNat, opY o 1⟩, dc := false,
           dfmt := 0, rnd := 0, ovf := 0, pat := false, e := 1, buf := f.buf, che := f.che, ch := f.ch.toNat, idx := {}, ireg := 0, ioff := 0,
           cnt := 0 }
  | _ => none

/-- Whether an operation is a copy of a copy engine, whose steps are COPY_STEPs. -/
def isCopyOp : Instr → Bool
  | .cpy _ | .cpyg _ | .cpys _ | .cpyr _ | .cfill _ => true
  | _ => false

/-! ### Remote tensors (R346) -/

/-- The pod die and cluster that a kind-2 address names, and the scratchpad offset (R346). -/
def farDie (a : Nat) : Nat := a / 2 ^ 51
def farCluster (a : Nat) : Nat := a / 2 ^ 47 % 16
def farOff (a : Nat) : Nat := a % 2 ^ 47

/-- Where `n` bytes at a kind-2 address lie, for an engine of cluster `cl`: in a pool of this module, on another module, or nowhere, also
for want of an open strait (0x381, R346, R490). -/
def remoteAt (s : State) (cl b a n : Nat) : Except Cause (Option Loc) :=
  if 12 ≤ farCluster a then .error 0x381
  else match moduleDie s (farDie a) with
    | none => if routeOpen s cl (farDie a) then .ok none else .error 0x381
    | some d =>
      let tc := d * 12 + farCluster a
      let pw := (getCluster s tc).poolpw
      if runsJob s tc b && farOff a + n ≤ scratchLen pw then .ok (some (.pool tc (scratchBase pw + farOff a))) else .error 0x381

/-- Free bytes, for what another module's pool holds (MODEL). -/
def freeBytes : Nat → State → List Byte × State
  | 0, s => ([], s)
  | n + 1, s =>
    let (k, s) := takeFresh s
    let (l, s) := freeBytes n s
    (Config.freeByte k :: l, s)

/-- Reads `n` bytes at a kind-2 address. -/
def readRemote (s : State) (cl slot : Nat) (t : TokEntry) (a n : Nat) : EAcc (List Byte) :=
  match remoteAt s cl t.bundle a n with
  | .error c => .fail s c (BitVec.ofNat 64 a)
  | .ok none => let (bs, s) := freeBytes n s; .ok bs (widenOp s cl slot 2)
  | .ok (some l) =>
    match readBad s l n with
    | some e => .fail (postBad s e l) e (BitVec.ofNat 64 a)
    | none => .ok (readHome s l n) (widenOp s cl slot 2)

/-- The same kind-2 address on pod die `m`. -/
def onDie (m a : Nat) : Nat := m * 2 ^ 51 + a % 2 ^ 51

/-- Writes one piece to a kind-2 address on each of the dies `ms`, or on its own die. -/
def writeFar (s : State) (cl : Nat) (t : TokEntry) (a : Nat) (bs : List Byte) : List Nat → Except Cause State
  | [] => .ok s
  | m :: ms =>
    match remoteAt s cl t.bundle (onDie m a) bs.length with
    | .error c => .error c
    | .ok none => writeFar s cl t a bs ms
    | .ok (some l) =>
      match writeBad s l bs.length with
      | some e => .error e
      | none => writeFar (writeHome s l bs) cl t a bs ms

/-- Writes the pieces of a step of XST to a remote tensor (R348): every member die of the group's version receives them. -/
def writeFarAll (s : State) (cl : Nat) (t : TokEntry) (dies : Nat → List Nat) : List (Nat × Nat × List Byte) → Except (Cause × Nat) State
  | [] => .ok s
  | p :: rest =>
    match writeFar s cl t p.1 p.2.2 (dies p.1) with
    | .error c => .error (c, p.1)
    | .ok s => writeFarAll s cl t dies rest

/-- The dies that a transfer reaches: those of its version of the multicast group, or the address's own (R301, R348). An unknown group has
none. -/
def destDies (s : State) (cl slot : Nat) (i : Instr) (a : Nat) : Option (List Nat) :=
  if xstGroup i = 0 then some [farDie a]
  else ((tabFind (xstGroup i) s.groups).bind (fun g => versionOf g cl slot)).map Version.members

/-- The flag name of an XST, if it has one (R348). -/
def xstFlag (o : Op) : Option Word :=
  match o.instr with
  | .xst f => if f.gf = 0 then none else some (opG o 2)
  | _ => none

/-- The module clusters whose flag an XST increments, with the entry; an error where a target does not run the job, or no
route leads to its die (R346, R348). -/
def flagTargets (s : State) (cl b : Nat) (w : Word) (dies : List Nat) : Except Cause (List (Nat × Nat)) :=
  let v := w.toNat
  if dies.any (fun m => (moduleDie s m).isNone && !routeOpen s cl m) then .error 0x381 else
  let cls := dies.filterMap (fun m => (moduleDie s m).map (fun d => d * 12 + bitsOf v 8 4))
  if cls.all (fun c => runsJob s c b) then .ok (cls.map (fun c => (c, v % 256))) else .error 0x381

/-- The dies whose flag an XST increments: that of its flag name, or with a group the members of its version of the group (R348); none for
an unknown group. -/
def flagDies (s : State) (cl slot : Nat) (o : Op) (a : Nat) : Option (List Nat) :=
  match xstFlag o with
  | none => some []
  | some w => if xstGroup o.instr = 0 then some [bitsOf w.toNat 12 13] else destDies s cl slot o.instr a

/-- The increments of a flagged XST after its payload has been applied (R289, R348). -/
def xstFlags (s : State) (cl slot : Nat) (t : TokEntry) (a : Nat) : Except Cause State :=
  match xstFlag t.op with
  | none => .ok s
  | some w =>
    match flagDies s cl slot t.op a with
    | none => .error 0x381
    | some l => match flagTargets s cl t.bundle w l with
      | .error c => .error c
      | .ok ts => .ok (ts.foldl (fun s e => flagPut s e.1 e.2 (flagGet s e.1 e.2 + 1)) s)

def CopyKind.isFill : CopyKind → Bool
  | .fill _ => true
  | _ => false

/-! ### Decoding and conversion (R333) -/

/-- Elements of a decoded row of `n` bytes under a pattern. -/
def rowElems (p : Pattern) (n : Nat) : Nat := if p.period = 0 then 0 else 8 * n / p.period * p.elems.length

/-- Bytes of a row of `n` converted elements: whole periods of pattern 1, or the bits of pattern 0 (R120, R333). -/
def packedBytes (pat : Bool) (fmt n : Nat) : Nat := if pat then (n + 20) / 21 * 16 else (n * elemBits fmt + 7) / 8

/-- Codes packed into a row (R120, R333). -/
def packRow (pat : Bool) (fmt : Nat) (codes : List Nat) : List Byte :=
  let place (i : Nat) : Nat := if pat then i / 21 * 128 + i % 21 * 6 else i * elemBits fmt
  leBytes (packedBytes pat fmt codes.length) (codes.zipIdx.foldl (fun v c => v + c.1 <<< place c.2) 0)

/-- The element index within its destination row of element `i` of source row `r`, which is converted to `n` bytes: the rows of a gather
follow one another in the rows of the destination (R133, R327, R333, R339). -/
def destElem (v : CopyView) (r n i : Nat) : Nat :=
  let bits := if v.pat then i / 21 * 128 + i % 21 * 6 else i * elemBits v.dfmt
  let x := if lyInner v.d.y = 0 then (r * n + bits / 8) % max 1 (lyRowBytes v.d.y) else (innerPlace (lyInner v.d.y) v.e r (bits / 8)).2
  if v.pat then x / 16 * 21 + i % 21 else (8 * x + bits % 8) / elemBits v.dfmt

/-- The elements of source row `r`, which becomes `n` bytes, converted in order: codes, lanes and flags, or the TRAP policy's cause. -/
def convertRow (v : CopyView) (fmt : Nat) (seed : Word) (r n : Nat) :
    Nat → List Nat → Tab (BitVec 32) → Flags → Except Cause (List Nat × Tab (BitVec 32) × Flags)
  | _, [], lanes, fl => .ok ([], lanes, fl)
  | i, c :: cs, lanes, fl =>
    let (st, lanes) := if v.rnd = 2 then privLane seed lanes (destElem v r n i) else (0, lanes)
    match toElem v.dfmt ⟨v.rnd, v.ovf, st⟩ (elemDecode fmt c) with
    | .trap e => .error e
    | .ok code f2 =>
      match convertRow v fmt seed r n (i + 1) cs lanes (fl ||| f2) with
      | .error e => .error e
      | .ok (l, lanes, fl) => .ok (code :: l, lanes, fl)

/-- A row as the destination receives it, with lanes and flags so far. -/
abbrev RowData := List Byte × Tab (BitVec 32) × Flags

/-- Whether a source page's rows are converted: a RAW page moves its bytes unchanged (R126, R333). -/
def converts (v : CopyView) (tr : Trans) : Bool := v.dc && tr.fmt != 0 && v.dfmt != 0

/-- The bytes of a source row that has been read, decoded by its page's attributes (R126, R333). A converted row fills whole units of 16
bytes; DESIGN CHOICE (entry 224): one that does not meets 0x308. DESIGN CHOICE (log entry 184): the pattern entry is looked up for every row, so that each row is a decoding access of its own. -/
def decodeRow (s : State) (t : TokEntry) (v : CopyView) (tr : Option Trans) (r : Nat) (bs : List Byte) (lanes : Tab (BitVec 32)) (fl : Flags) :
    Except Cause RowData :=
  match tr with
  | none => .ok (bs, lanes, fl)
  | some tr =>
    if !v.dc || tr.fmt = 0 then .ok (bs, lanes, fl)
    else
      let p := (patternOf (opPats s t.op) tr.pat (elemBits tr.fmt)).getD (densePattern 8)
      let codes := extract p tr.fmt (leNat bs) 0 (rowElems p bs.length)
      if v.dfmt = 0 then .ok (contList tr.fmt codes, lanes, fl)
      else if tr.geom != 0 || tr.fmt = 10 || tr.fmt = 12 then .error 0x302
      else if packedBytes v.pat v.dfmt codes.length % 16 != 0 then .error 0x308
      else match convertRow v tr.fmt t.op.seed r (packedBytes v.pat v.dfmt codes.length) 0 codes lanes fl with
        | .error e => .error e
        | .ok (l, lanes, fl) => .ok (packRow v.pat v.dfmt l, lanes, fl)

/-- Bytes that a source row of `n` bytes becomes under a page's attributes; `n` where it moves unchanged. -/
def rowOut (s : State) (t : TokEntry) (v : CopyView) (tr : Option Trans) (n : Nat) : Nat :=
  match tr with
  | none => n
  | some tr =>
    if !v.dc || tr.fmt = 0 then n
    else
      let p := (patternOf (opPats s t.op) tr.pat (elemBits tr.fmt)).getD (densePattern 8)
      let k := rowElems p n
      if v.dfmt = 0 then k * contBytes tr.fmt else packedBytes v.pat v.dfmt k

/-- Reads one row of a source side and decodes it. Row `r` starts at offset `o`. -/
def readRow (s : State) (cl slot : Nat) (t : TokEntry) (v : CopyView) (r : Nat) (o : Int) (n : Nat) (lanes : Tab (BitVec 32)) (fl : Flags) :
    EAcc RowData :=
  let h := v.s.h
  let a := ((hBase h.bits).toNat + o).toNat
  if hKind h.bits = 2 then (readRemote s cl slot t a n).bind (fun bs s => .ok (bs, lanes, fl) s)
  else
  let whole : EAcc (Option Trans) :=
    if hKind h.bits = 0 then (engTarget s cl slot t 0 needLoad a).bind (fun tg s => .ok tg.tr s) else .ok none s
  whole.bind (fun tr s =>
    let pieces := if hKind h.bits = 1 then (sidePieces h v.s.y r o n).map (fun p => (p.2.1, p.2.2)) else pageRuns a n
    (engReadRuns s cl slot t (hKind h.bits) pieces []).bind (fun bs s =>
      match decodeRow s t v tr r bs lanes fl with
      | .error e => .fail s e (BitVec.ofNat 64 a)
      | .ok d => .ok d s))

/-- Reads rows in order: an absent offset gives a row of `bs` zero bytes. -/
def readRows (s : State) (cl slot : Nat) (t : TokEntry) (v : CopyView) (n bs : Nat) :
    List (Nat × Option Int) → List (List Byte) → Tab (BitVec 32) → Flags → EAcc (List (List Byte) × Tab (BitVec 32) × Flags)
  | [], acc, lanes, fl => .ok (acc.reverse, lanes, fl) s
  | (r, some o) :: rest, acc, lanes, fl =>
    match readRow s cl slot t v r o n lanes fl with
    | .hold s => .hold s
    | .fail s c l => .fail s c l
    | .ok (d, lanes, fl) s => readRows s cl slot t v n bs rest (d :: acc) lanes fl
  | (_, none) :: rest, acc, lanes, fl => readRows s cl slot t v n bs rest (List.replicate bs 0 :: acc) lanes fl

/-! ### The read part of a step -/

/-- Rows of one step of an indexed copy, and the bytes of a stream row: the whole of the other side's bytes over the count (R339). -/
def indexRow (v : CopyView) : Nat :=
  let y := if v.kind = .gather then v.d.y else v.s.y
  if v.cnt = 0 then 0 else lySteps y * lyBlock y / v.cnt

/-- The index entries of step `k` (R339). -/
def readIndex (s : State) (cl slot : Nat) (t : TokEntry) (v : CopyView) (k : Nat) : EAcc (List Nat) :=
  let y := if v.kind = .gather then v.d.y else v.s.y
  let per := lyBlock y / max 1 (indexRow v)
  (engRead s cl slot t v.idx (v.ioff + 4 * (k * per)) (4 * per)).bind (fun bs s => .ok ((chunks 4 per bs).map leNat) s)

/-- The offset of the row that an index entry names on the indexed side; none for 0xFFFF_FFFF (R339). -/
def indexAt (d : Side) (e : Nat) : Option Int := if e = 0xFFFFFFFF then none else some ((d.off : Int) + e * lyRowPitch d.y)

/-- Whether an indexed row lies within its handle (R339). -/
def indexIn (d : Side) (o : Option Int) : Bool :=
  match o with
  | none => true
  | some o => 0 ≤ o && o + lyRowBytes d.y ≤ (hExtent d.h.bits : Int)

/-- The writes of destination rows: row number, offset and bytes become pieces of one line each. -/
def rowWrites (d : Side) (rows : List (Nat × Int × List Byte)) : List (Nat × Nat × List Byte) :=
  rows.flatMap (fun r => (sidePieces d.h d.y r.1 r.2.1 r.2.2.length).map (fun p => (p.2.1, p.1, (r.2.2.drop p.1).take p.2.2)))

/-- Cuts `n` bytes of a row from its byte `c` on, at `a + c`, at lines but never inside an element of `sz` bytes: an element that straddles
a line is a piece of its own. Column, address and length of each piece; `k` bounds their number. -/
def elemRuns (sz a : Nat) : Nat → Nat → Nat → List (Nat × Nat × Nat)
  | 0, _, _ => []
  | k + 1, c, n =>
    if n = 0 then []
    else
      let room := 64 - (a + c) % 64
      let m := if n ≤ room then n else if room < sz then min sz n else room / sz * sz
      (c, a + c, m) :: elemRuns sz a k (c + m) (n - m)

/-- The writes of a CPYR, whose elements of `sz` bytes are combined whole (R340); the lines of a pool region keep their places. -/
def combineWrites (d : Side) (sz : Nat) (rows : List (Nat × Int × List Byte)) : List (Nat × Nat × List Byte) :=
  if kindOf d.h = 1 then rowWrites d rows
  else rows.flatMap (fun r =>
    let n := r.2.2.length
    (elemRuns sz (((hBase d.h.bits).toNat : Int) + r.2.1).toNat (n + 1) 0 n).map (fun p => (p.2.1, p.1, (r.2.2.drop p.1).take p.2.2)))

/-- Cuts a stream into destination rows of a block. -/
def blockRows (y : BitVec 256) (off k : Nat) (stream : List Byte) : List (Nat × Int × List Byte) :=
  (List.range (lyRows y)).map (fun q => (q, lyRowAt y off k q, (stream.drop (q * lyRowBytes y)).take (lyRowBytes y)))

/-- What a step has read: its writes, lanes and flags, and the bytes read from its source. -/
abbrev StepData := List (Nat × Nat × List Byte) × Tab (BitVec 32) × Flags × Nat

/-- A step of CPY and CPYR: the source block, arranged into the destination's (R326, R327). -/
def stepPlain (s : State) (cl slot : Nat) (t : TokEntry) (v : CopyView) (k : Nat) : EAcc StepData :=
  let rows := (List.range (lyRows v.s.y)).map (fun r => (r, some (lyRowAt v.s.y v.s.off k r)))
  (readRows s cl slot t v (lyRowBytes v.s.y) 0 rows [] t.lanes flagNone).bind (fun d s =>
    let bs := (d.1.headD []).length
    if !d.1.all (fun r => r.length = bs) || !shapeOk v.d.y v.e d.1.length bs then .fail s 0x308 0
    else
      let out := (arrange (lyInner v.d.y) v.e bs d.1).zipIdx.map (fun r => (r.2, lyRowAt v.d.y v.d.off k r.2, r.1))
      let l := match v.kind with
        | .reduce _ => combineWrites v.d (contBytes v.dfmt) out
        | _ => rowWrites v.d out
      .ok (l, d.2.1, d.2.2, lyBlock v.s.y) s)

/-- A step of CPYG: rows of the source in the order of the index list (R339). -/
def stepGather (s : State) (cl slot : Nat) (t : TokEntry) (v : CopyView) (k : Nat) : EAcc StepData :=
  (readIndex s cl slot t v k).bind (fun es s =>
    let offs := es.map (indexAt v.s)
    if !offs.all (indexIn v.s) then .fail s 0x204 (handleWhere v.s.h v.s.reg.toNat)
    else
      let bs := indexRow v
      (readRows s cl slot t v (lyRowBytes v.s.y) bs (offs.zipIdx.map (fun o => (o.2, o.1))) [] t.lanes flagNone).bind (fun d s =>
        if !d.1.all (fun r => r.length = bs) then .fail s 0x308 0
        else
          let out := if lyInner v.d.y = 0 then blockRows v.d.y v.d.off k d.1.flatten
            else (arrange (lyInner v.d.y) v.e bs d.1).zipIdx.map (fun r => (r.2, lyRowAt v.d.y v.d.off k r.2, r.1))
          .ok (rowWrites v.d out, d.2.1, d.2.2, (offs.filter Option.isSome).length * lyRowBytes v.s.y) s))

/-- A step of CPYS: rows of the stream to the rows that the index list names (R339). -/
def stepScatter (s : State) (cl slot : Nat) (t : TokEntry) (v : CopyView) (k : Nat) : EAcc StepData :=
  (readIndex s cl slot t v k).bind (fun es s =>
    let offs := es.map (indexAt v.d)
    if !offs.all (indexIn v.d) then .fail s 0x204 (handleWhere v.d.h v.d.reg.toNat)
    else
      let rows := (List.range (lyRows v.s.y)).map (fun r => (r, some (lyRowAt v.s.y v.s.off k r)))
      (readRows s cl slot t v (lyRowBytes v.s.y) 0 rows [] t.lanes flagNone).bind (fun d s =>
        let n := lyRowBytes v.d.y
        let stream := d.1.flatten
        let out := offs.zipIdx.filterMap (fun o => o.1.map (fun x => (0, x, (stream.drop (o.2 * n)).take n)))
        .ok (rowWrites v.d out, d.2.1, d.2.2, lyBlock v.s.y) s))

/-- A step of CFILL (R341). -/
def stepFill (v : CopyView) (w : Word) (k : Nat) : StepData :=
  let row := (List.range (lyRowBytes v.d.y)).map (fun x => w.extractLsb' (8 * (x % 8)) 8)
  (rowWrites v.d ((List.range (lyRows v.d.y)).map (fun q => (q, lyRowAt v.d.y v.d.off k q, row))), [], flagNone, 0)

/-- The read part of step `k`. -/
def stepRead (s : State) (cl slot : Nat) (t : TokEntry) (v : CopyView) (k : Nat) : EAcc StepData :=
  match v.kind with
  | .plain => stepPlain s cl slot t v k
  | .reduce _ => stepPlain s cl slot t v k
  | .gather => stepGather s cl slot t v k
  | .scatter => stepScatter s cl slot t v k
  | .fill w => .ok (stepFill v w k) s

/-! ### The write part of a step, and the shoal log -/

/-- One element of a CPYR combine (R340): a code with its flags, or the TRAP policy's cause. -/
def combineElem (op : BitVec 2) (fmt : Nat) (r : Rnd) (d x : Nat) : Coded :=
  match floatFmt fmt with
  | some f =>
    let (a, b) := (floatDecode f d, floatDecode f x)
    roundNum f r (if op = 0 then numAdd a b else numMinMax (op = 1) a b)
  | none =>
    let (a, b) := (signed (elemBits fmt) d, signed (elemBits fmt) x)
    let v := if op = 0 then a + b else if op = 1 then max a b else min a b
    let (lo, hi) := intRange fmt
    if lo ≤ v && v ≤ hi then .ok (unsigned (elemBits fmt) v) flagNone
    else if r.ovf = 3 then .trap 0x020
    else if r.ovf = 0 then .ok (unsigned (elemBits fmt) (clampInt lo hi v)) flagNone
    else .ok (unsigned (elemBits fmt) v) flagNone

/-- The elements of one piece combined in order: `j` is the first element's index in its destination row, of `m` elements where the piece
holds several rows (R133, R340). -/
def combineList (op : BitVec 2) (fmt : Nat) (rnd ovf : BitVec 2) (seed : Word) (m : Nat) :
    Nat → List (Nat × Nat) → Tab (BitVec 32) → Flags → Except Cause (List Nat × Tab (BitVec 32) × Flags)
  | _, [], lanes, fl => .ok ([], lanes, fl)
  | j, (d, x) :: rest, lanes, fl =>
    let (st, lanes) := if rnd = 2 && (floatFmt fmt).isSome then privLane seed lanes (if m = 0 then j else j % m) else (0, lanes)
    match combineElem op fmt ⟨rnd, ovf, st⟩ d x with
    | .trap e => .error e
    | .ok c f2 =>
      match combineList op fmt rnd ovf seed m (j + 1) rest lanes (fl ||| f2) with
      | .error e => .error e
      | .ok (l, lanes, fl) => .ok (c :: l, lanes, fl)

/-- How a piece is written: plain bytes, or the combine of CPYR with op, rnd, ovf and dfmt (R340, R472). -/
abbrev Comb := Option (BitVec 2 × BitVec 2 × BitVec 2 × BitVec 4)

def combOf (v : CopyView) : Comb :=
  match v.kind with
  | .reduce op => some (op, v.rnd, v.ovf, BitVec.ofNat 4 v.dfmt)
  | _ => none

/-- Where the bytes of a piece live: each place, its translation, and how many bytes. -/
abbrev Parts := List (Target × Nat)

/-- Bytes read from the places of a piece. -/
def readParts (s : State) (ps : Parts) : List Byte := ps.flatMap (fun p => readHome s p.1.loc p.2)

/-- Bytes written to the places of a piece. -/
def writeParts (s : State) : Parts → List Byte → State
  | [], _ => s
  | p :: ps, bs => writeParts (writeHome s p.1.loc (bs.take p.2)) ps (bs.drop p.2)

/-- The first bad line that an access to the places of a piece meets (R477). -/
def partsBad (s : State) (ps : Parts) (read : Bool) : Option (Cause × Loc) :=
  ps.findSome? (fun p => (if read then readBad s p.1.loc p.2 else writeBad s p.1.loc p.2).map (fun e => (e, p.1.loc)))

/-- The bytes that a piece leaves at its home, or the cause that ends the operation and where (R340, R438, R477). -/
def pieceBytes (s : State) (t : TokEntry) (ps : Parts) (comb : Comb) (row col : Nat) (bs : List Byte) :
    Except (Cause × Option Loc) (List Byte × Tab (BitVec 32) × Flags) :=
  match partsBad s ps comb.isSome with
  | some (e, l) => .error (e, some l)
  | none =>
    match comb with
    | none => .ok (bs, t.lanes, flagNone)
    | some (op, rnd, ovf, dfmt) =>
      let fmt := dfmt.toNat
      let sz := contBytes fmt
      let n := bs.length / sz
      let olds := (chunks sz n (readParts s ps)).map leNat
      match combineList op fmt rnd ovf t.op.seed (row / sz) (col / sz) (olds.zip ((chunks sz n bs).map leNat)) t.lanes flagNone with
      | .error e => .error (e, none)
      | .ok (codes, lanes, fl) => .ok (codes.flatMap (leBytes sz), lanes, fl)

/-- A piece written at its home; a packet over a die-to-die link whose key fails is dropped (R447). `row` is the length of the destination's rows where the piece holds several, else 0. -/
def writePiece (s : State) (cl slot : Nat) (ps : Parts) (comb : Comb) (row col : Nat) (bs : List Byte) :
    Except (Cause × Option Loc) State :=
  match getTok s cl slot with
  | none => .ok s
  | some t =>
    if ps.any (fun p => unreached s cl p.1.loc) then .error (0x381, none)
    else match ps.find? (fun p => foreign s cl p.1.loc) with
    | some p => .error (0x381, some p.1.loc)
    | none => match pieceBytes s t ps comb row col bs with
    | .error e => .error e
    | .ok (out, lanes, fl) =>
      let s := writeParts s ps out
      let s := modTok s cl slot (fun t => { t with lanes := lanes, stepFl := t.stepFl ||| fl })
      .ok (ps.foldl (fun s p => widenOp s cl slot (locScope s cl p.1.loc p.1.tr)) s)

/-- The homes of `n` bytes at virtual address `a`, page by page, or the first failing translation. -/
def homeParts (s : State) (t : TokEntry) (need : Need) (a n : Nat) : Except TFault Parts :=
  (pageRuns a n).mapM (fun p => match engTranslate s t need p.1 with
    | .ok tr => .ok (⟨.mem tr.pa, some tr⟩, p.2)
    | .error f => .error f)

/-- Entries of a copy engine's shoal log (R259). -/
def engLogRoom : Nat := 256

def engLog (c : Cluster) (eng : Nat) : List CShoal := if eng = 0 then c.logL else c.logS

/-- Changes an engine's log. Where it frees, the operations of the engine that a full log holds are held no more (R261). -/
def modEngLog (s : State) (cl eng : Nat) (f : List CShoal → List CShoal) : State :=
  let log := engLog (getCluster s cl) eng
  let freed := s.faults.any (fun e => e.kind = kindFull) && (f log).length < log.length
  let of (e : Fault1) : Bool := e.kind = kindFull && match e.eng with
    | some (k, slot) => k = cl && (getTok s k slot).any (fun t => t.op.member = eng)
    | none => false
  let s := if freed then { s with faults := s.faults.filter (fun e => !of e) } else s
  modCluster s cl (fun c => if eng = 0 then { c with logL := f c.logL } else { c with logS := f c.logS })

/-- Discards an operation's entries and held records. -/
def dropLog (s : State) (cl slot : Nat) : State :=
  let s := modEngLog (modEngLog s cl 0 (fun l => l.filter (fun e => e.slot != slot))) cl 1 (fun l => l.filter (fun e => e.slot != slot))
  dropLogHeld (dropEngHeld s cl slot) cl slot

/-- A copy ends FAULTED; its entries behind the failure are discarded (R261). -/
def copyFault (s : State) (cl slot : Nat) (c : Cause) (loc : Word) : State := opFault (dropLog s cl slot) cl slot c loc

/-- Notes that an entry of an engine's log waits for service (R256, R259). -/
def addEngHeld (s : State) (cl slot : Nat) (t : TokEntry) (va : Nat) (kind : BitVec 8) (f : TFault) : State :=
  if s.faults.any (engRecord (kind = kindLogged) cl slot) then s
  else { s with faults := s.faults ++ [{ ctx := none, eng := some (cl, slot), va := BitVec.ofNat 64 va, kind := kind, cause := f.cause,
                                         since := s.tick, refused := none, hostBacked := f.host, prg := none, seq := none, chan := none, grace := 1000 * s.hub.mpctl,
                                         fn := jobFn s t.bundle, space := jobSpace s t.bundle }] }

/-- Posts the memory error of a place, or the drop of a packet of job `b` by its key (R447), if that is what failed. -/
def postBadAt (s : State) (b : Nat) (e : Cause × Option Loc) : State :=
  match e.2 with
  | some l => if e.1 = 0x381 then postForeign s b l else postBad s e.1 l
  | none => s

/-- The pool byte at an offset of the cluster's scratchpad. -/
def poolTarget (s : State) (cl o : Nat) : Target := ⟨.pool cl (scratchBase (getCluster s cl).poolpw + o), none⟩

/-- How the writing of a step's pieces goes on: done, held on a full log, waiting for earlier writes of the die to a remote line (R286),
or failed. -/
inductive WriteEnd where
  | done (s : State)
  | hold (s : State) (rest : List (Nat × Nat × List Byte))
  | wait (s : State) (rest : List (Nat × Nat × List Byte))
  | fail (s : State) (c : Cause) (loc : Word)

/-- Whether a piece must wait for an earlier write of the engine's die to a line of a remote home (R286). -/
def partsBlock (s : State) (cl : Nat) (ps : Parts) : Bool := ps.any (fun p => dieBlocks s (podDie s (cl / 12)) p.1.loc p.2)

/-- Logs one piece; the log has room. -/
def logPiece (s : State) (cl eng slot : Nat) (t : TokEntry) (comb : Comb) (p : Nat × Nat × List Byte) (f : Option TFault) : State :=
  let s := modEngLog s cl eng (fun l => l ++ [⟨BitVec.ofNat 64 p.1, p.2.2, comb, slot, p.2.1, 0, false⟩])
  match f with
  | some f => addEngHeld s cl slot t p.1 kindLogged f
  | none => s

/-- Writes the pieces of a step in order: at their homes, or into the engine's log from the first failing translation on (R259,
R260); a full log holds the step there (R261). -/
def writePieces (cl eng slot : Nat) (t : TokEntry) (kind : Nat) (comb : Comb) :
    List (Nat × Nat × List Byte) → State → WriteEnd
  | [], s => .done s
  | p :: rest, s =>
    let tg : Except TFault Parts :=
      if kind = 1 then .ok [(poolTarget s cl p.1, p.2.2.length)]
      else homeParts s t (if comb.isSome then needBoth else needStore) p.1 p.2.2.length
    if kind = 0 && 2 ^ 57 ≤ p.1 then .fail s 0x105 (BitVec.ofNat 64 p.1)
    else
      let logged := (engLog (getCluster s cl) eng).any (fun e => e.slot = slot)
      match logged, tg with
      | false, .ok tg =>
        if partsBlock s cl tg then .wait s (p :: rest)
        else match writePiece s cl slot tg comb 0 p.2.1 p.2.2 with
        | .error e => .fail (postBadAt s t.bundle e) e.1 (BitVec.ofNat 64 p.1)
        | .ok s => writePieces cl eng slot t kind comb rest s
      | _, r =>
        if engLogRoom ≤ (engLog (getCluster s cl) eng).length then .hold s (p :: rest)
        else
          let f := match r with
            | .error f => if logged then none else some f
            | .ok _ => none
          match f with
          | some ⟨0x106, false⟩ => .fail s 0x106 (BitVec.ofNat 64 p.1)
          | f => writePieces cl eng slot t kind comb rest (logPiece s cl eng slot t comb p f)

/-- The pieces of a step by row: one that starts at byte 0 of its row begins a new row. -/
def piecesByRow (l : List (Nat × Nat × List Byte)) : List (List (Nat × Nat × List Byte)) :=
  l.foldr (fun p rows => match rows with
    | (q :: r) :: rest => if q.2.1 = 0 then [p] :: (q :: r) :: rest else (p :: q :: r) :: rest
    | rest => [p] :: rest) []

/-- Combines the rows of a step of CPYR in the pool: each row in turn is read, combined and written, so that rows which overlap accumulate
(R298, R340). -/
def combinePool (cl slot b : Nat) (comb : Comb) : List (List (Nat × Nat × List Byte)) → State → WriteEnd
  | [], s => .done s
  | l :: rows, s =>
    match writePiece s cl slot (l.map (fun p => (poolTarget s cl p.1, p.2.2.length))) comb 0 0 (l.flatMap (fun p => p.2.2)) with
    | .error e => .fail (postBadAt s b e) e.1 (BitVec.ofNat 64 ((l.head?.map (·.1)).getD 0))
    | .ok s => combinePool cl slot b comb rows s

/-! ### Start (R331, R343) -/

/-- The bytes that a channel's copies move in step `k`: ranges of the pool side relative to the channel's base. -/
def sideSpans (d : Side) (rows : List (Nat × Int)) (n base : Nat) : List (Nat × Nat) :=
  rows.flatMap (fun r => (sidePieces d.h d.y r.1 r.2 n).map (fun p => (p.2.1 - base, p.2.1 + p.2.2 - base)))

/-- The pool side of a bound copy: the destination for a load-engine channel, the source for a store-engine channel (R343). -/
def poolSide (v : CopyView) (eng : Nat) : Side := if eng = 0 then v.d else v.s

/-- Step 4 of R331 (R343). `fill` has no source side. -/
def channelFail (s : State) (cl : Nat) (t : TokEntry) (v : CopyView) : Option (Cause × Word) :=
  if !v.che then none
  else
    let p := poolSide v t.op.member
    let base := scratchBase (getCluster s cl).poolpw
    match tabFind (chanKey t.op.member v.ch) (getCluster s cl).chans with
    | none => some (0x30B, 0)
    | some ch =>
      let (lo, hi) := lyFoot p.y (hBase p.h.bits).toNat p.off
      let at0 : Int := (base + (hBase p.h.bits).toNat : Nat)
      if ch.owner != t.op.cid || hKind p.h.bits != 1 || (t.op.member = 1 && v.kind.isFill) || at0 + lo < ch.lo ||
        (ch.lo + ch.len : Nat) < at0 + hi then some (0x30B, 0)
      else none

/-- The page attributes of the first source row, if it translates now; a pool source has none. -/
def firstAttrs (s : State) (t : TokEntry) (v : CopyView) : Option (Option Trans) :=
  if hKind v.s.h.bits != 0 then some none
  else match engTranslate s t needLoad ((hBase v.s.h.bits).toNat + lyRowAt v.s.y v.s.off 0 0).toNat with
    | .ok tr => some (some tr)
    | .error _ => none

/-- Whether the layouts of a copy break R329 or R339. The shape of a decoded block is judged by the attributes of its first row; while
that does not translate, the step judges it. -/
def layoutFail (s : State) (t : TokEntry) (v : CopyView) : Bool :=
  let kd := kindOf v.d.h
  let ks := kindOf v.s.h
  let shape (rs bs : Nat) : Bool :=
    if v.dc && ks = 0 then
      match firstAttrs s t v with
      | some tr => shapeOk v.d.y v.e rs (rowOut s t v tr bs) && !(tr.any (converts v) && rowOut s t v tr bs % 16 != 0)
      | none => true
    else shapeOk v.d.y v.e rs bs
  let broken (bs : Nat) : Bool := ((firstAttrs s t v).getD none).any (converts v) && bs % 16 != 0
  let unit (d : Side) : Bool :=
    lySteps d.y = 1 && lyRows d.y = 1 && (List.range 4).all (fun i => lyPitch d.y i = 0)
  match v.kind with
  | .fill _ => lyBad v.d.y kd
  | .gather =>
    lyBad v.d.y kd || lyBad v.s.y ks || lyInner v.s.y != 0 || 2 ^ 24 < v.cnt || !unit v.s ||
      (v.cnt != 0 && (let bs := indexRow v
        bs * v.cnt != lySteps v.d.y * lyBlock v.d.y || bs = 0 || broken bs || lyBlock v.d.y % bs != 0 ||
        (!(v.dc && ks = 0) && bs != lyRowBytes v.s.y) || (lyInner v.d.y != 0 && !shapeOk v.d.y v.e (lyBlock v.d.y / bs) bs)))
  | .scatter =>
    lyBad v.d.y kd || lyBad v.s.y ks || lyInner v.s.y != 0 || lyInner v.d.y != 0 || 2 ^ 24 < v.cnt || !unit v.d ||
      (v.cnt != 0 && (lyRowBytes v.d.y * v.cnt != lySteps v.s.y * lyBlock v.s.y || lyBlock v.s.y % lyRowBytes v.d.y != 0))
  | _ => lyBad v.d.y kd || lyBad v.s.y ks || lyInner v.s.y != 0 || lySteps v.d.y != lySteps v.s.y || !shape (lyRows v.s.y) (lyRowBytes v.s.y)

/-- Kinds that each side accepts (R338). -/
def kindsFail (v : CopyView) : Bool :=
  let kd := kindOf v.d.h
  let ks := kindOf v.s.h
  match v.kind with
  | .fill _ => 1 < kd
  | .gather => kd != 1 || ks != 0 || kindOf v.idx != 1
  | .scatter => kd != 0 || ks != 1 || kindOf v.idx != 1
  | _ => 1 < kd || 1 < ks

/-- The handle checks of R331 step 3, in field order. -/
def copyHandles (s : State) (cl : Nat) (t : TokEntry) (v : CopyView) : Option (Cause × Word) :=
  let side (d : Side) (rights : BitVec 8) (indexed : Bool) : Option (Cause × Word) :=
    let (lo, hi) := if indexed then ((0 : Int), (0 : Int)) else lyFoot d.y (hBase d.h.bits).toNat d.off
    checkHandle s cl t d.h d.reg rights lo hi
  let index := checkHandle s cl t v.idx v.ireg (rightR ||| rightG) v.ioff (v.ioff + 4 * v.cnt)
  match v.kind with
  | .fill _ => side v.d rightW false
  | .gather => firstFail [side v.d rightW false, side v.s rightR true, index]
  | .scatter => firstFail [side v.d rightW true, side v.s rightR false, index]
  | .reduce _ => firstFail [side v.d (rightR ||| rightW) false, side v.s rightR false]
  | .plain => firstFail [side v.d rightW false, side v.s rightR false]

/-- The start checks of R331. -/
def copyChecks (s : State) (cl : Nat) (t : TokEntry) (v : CopyView) : Option (Cause × Word) :=
  let reduceBad := match v.kind with
    | .reduce _ => !(v.dfmt = 1 || v.dfmt = 2 || v.dfmt = 3 || v.dfmt = 9)
    | _ => false
  firstFail
    [ failIf (layoutFail s t v) 0x308 0,
      failIf (!notifyOk s cl t.op) 0x30E 0,
      failIf reduceBad 0x302 0,
      failIf (kindsFail v) 0x309 0,
      copyHandles s cl t v,
      channelFail s cl t v ]

/-- Steps of a copy (R326, R339). -/
def copySteps (v : CopyView) : Nat :=
  match v.kind with
  | .gather => if v.cnt = 0 then 0 else lySteps v.d.y
  | .scatter => if v.cnt = 0 then 0 else lySteps v.s.y
  | _ => lySteps v.d.y

/-- The operation occupies its engine from now on, with `total` steps. -/
def activate (s : State) (cl eng slot total : Nat) : State :=
  modCluster (runOp s cl slot total) cl (fun c => { c with active := tabPut eng slot c.active })

/-- Start of a copy. -/
def startCopy (s : State) (cl slot : Nat) (t : TokEntry) (v : CopyView) : State :=
  match copyChecks s cl t v with
  | some c => failStart s cl slot c
  | none =>
    if copySteps v = 0 then opEnd (popHead s cl slot) cl slot .done {}
    else activate s cl t.op.member slot (copySteps v)

/-! ### Channels (R342–R344) -/

/-- CHBIND (R342). -/
def startBind (s : State) (cl slot : Nat) (t : TokEntry) (f : ChBindF) : State :=
  let h := opH t.op 0
  let (b, l) := ((opG t.op 0).toNat, (opG t.op 1).toNat)
  let key := chanKey t.op.member f.c.toNat
  let base := (hBase h.bits).toNat
  match firstFail
    [ failIf (kindOf h != 1) 0x309 0,
      checkHandle s cl t h f.h rightW 0 0,
      failIf (l < 1 || 2 ^ 25 < l || b < base || base + hExtent h.bits < b + l) 0x308 0,
      failIf (tabFind key (getCluster s cl).chans).isSome 0x30B 0 ] with
  | some c => failStart s cl slot c
  | none =>
    let lo := scratchBase (getCluster s cl).poolpw + b
    let s := modCluster s cl (fun c => { c with chans := tabPut key { lo := lo, len := l, spans := [], owner := t.op.cid, broken := false } c.chans })
    opEnd (popHead s cl slot) cl slot .done {}

/-- The 8 bytes that CHRD writes (R344). -/
def chanWord (c : Cluster) (key : Nat) : Nat :=
  match tabFind key c.chans with
  | none => 0
  | some ch => chanW ch + ch.len * 2 ^ 32 + (if ch.broken then 2 ^ 63 else 0)

/-- CHRD (R344); part of a line that fails its checks is not written (R438, R477). -/
def startChrd (s : State) (cl slot : Nat) (t : TokEntry) (f : ChRdF) : State :=
  let p := (opG t.op 0).toNat
  let c := getCluster s cl
  if p % 8 != 0 || scratchLen c.poolpw < p + 8 then failStart s cl slot (0x30E, 0)
  else
    let l := Loc.pool cl (scratchBase c.poolpw + p)
    match writeBad s l 8 with
    | some e => failStart (postBad s e l) cl slot (e, BitVec.ofNat 64 p)
    | none =>
    let s := writeHome s l (leBytes 8 (chanWord c (chanKey t.op.member f.c.toNat)))
    opEnd (popHead s cl slot) cl slot .done {}

/-- Unbinds a channel; accesses held on it trap with 0x30A (R343). -/
def unbind (s : State) (cl key : Nat) : State :=
  let s := modCluster s cl (fun c => { c with chans := tabDel key c.chans })
  { s with faults := s.faults.map (fun f =>
      if f.kind = kindWatermark && f.chan = some key && f.ctx.any (fun c => ctxCluster c = cl) && f.refused.isNone
      then { f with refused := some 0x30A } else f) }

/-- CHUNB (R344); it starts when the bound copies before it have ended. -/
def startUnbind (s : State) (cl slot : Nat) (t : TokEntry) (f : ChUnbF) : State :=
  let key := chanKey t.op.member f.c.toNat
  match tabFind key (getCluster s cl).chans with
  | none => failStart s cl slot (0x30B, 0)
  | some ch =>
    if ch.owner != t.op.cid then failStart s cl slot (0x30B, 0)
    else opEnd (popHead (unbind s cl key) cl slot) cl slot .done {}

/-- Marks the bytes of a done step of a bound copy (R343). -/
def coverChannel (s : State) (cl : Nat) (t : TokEntry) (v : CopyView) (k : Nat) : State :=
  if !v.che then s
  else
    let key := chanKey t.op.member v.ch
    match tabFind key (getCluster s cl).chans with
    | none => s
    | some ch =>
      if ch.owner != t.op.cid then s
      else
        let p := poolSide v t.op.member
        let rows := (List.range (lyRows p.y)).map (fun r => (r, lyRowAt p.y p.off k r))
        let lo := ch.lo - scratchBase (getCluster s cl).poolpw
        let sp := sideSpans p rows (lyRowBytes p.y) lo
        modCluster s cl (fun c => { c with chans := tabPut key { ch with spans := ch.spans ++ sp, scope := if ch.scope.toNat < t.scope.toNat then t.scope else ch.scope } c.chans })

/-! ### COPY_STEP and PKSET_STEP -/

/-- The copy that an engine runs. -/
def activeOp (s : State) (cl eng : Nat) : Option (Nat × TokEntry) :=
  (tabFind eng (getCluster s cl).active).bind (fun slot => (getTok s cl slot).map (fun t => (slot, t)))

/-- Every write of the step in progress has been performed: the step is done (R332). The flags of an XST go out with the last step, as
release-class packets (R287, R348). -/
def stepDone (s : State) (cl slot : Nat) (v : CopyView) : State :=
  match getTok s cl slot with
  | none => s
  | some t =>
    let s := coverChannel s cl t v t.done
    let fin (s : State) : State := endStep (modTok (unlatch s (xstGroup t.op.instr) cl slot) cl slot TokEntry.commit) cl slot
    if t.done + 1 = t.total then
      if !((flagDies s cl slot t.op (hAddr v.d.h v.d.off)).getD []).all (opReleases s t.op) then s
      else match xstFlags s cl slot t (hAddr v.d.h v.d.off) with
      | .error c => copyFault s cl slot c 0
      | .ok s => fin s
    else fin s

/-- Writes a step of XST to a remote tensor; it is done when its targets have acknowledged it (R348). -/
def stepFar (s : State) (cl slot : Nat) (t : TokEntry) (v : CopyView) (l : List (Nat × Nat × List Byte)) : State :=
  match destDies s cl slot t.op.instr (hAddr v.d.h v.d.off) with
  | none => copyFault s cl slot 0x381 0
  | some dies =>
    match writeFarAll s cl t (fun _ => dies) l with
    | .error (c, a) => copyFault s cl slot c (BitVec.ofNat 64 a)
    | .ok s => stepDone (widenOp (modTok s cl slot (fun t => { t with todo := some [] })) cl slot 2) cl slot v

/-- Writes what the step in progress has still to write. -/
def stepWrite (s : State) (cl eng slot : Nat) (t : TokEntry) (v : CopyView) (l : List (Nat × Nat × List Byte)) : State :=
  if hKind v.d.h.bits = 2 then stepFar s cl slot t v l
  else match (if hKind v.d.h.bits = 1 && (combOf v).isSome then combinePool cl slot t.bundle (combOf v) (piecesByRow l) s
      else writePieces cl eng slot t (hKind v.d.h.bits) (combOf v) l s) with
  | .fail s c loc => copyFault s cl slot c loc
  | .hold s rest =>
    match (s.faults.find? (engRecord false cl slot)).bind (fun r => r.refused.map (fun e => (r.va, e))) with
    | some (va, e) => copyFault s cl slot e va
    | _ => modTok (addEngHeld s cl slot t ((rest.head?.map (·.1)).getD 0) kindFull ⟨0x110, false⟩) cl slot
        (fun t => { t with todo := some rest })
  | .wait s rest => modTok s cl slot (fun t => { t with todo := some rest })
  | .done s =>
    let s := modTok s cl slot (fun t => { t with todo := some [] })
    if opLogged (getCluster s cl) slot then s else stepDone s cl slot v

/-- A step of a copy that no stop ends: it reads, writes, or waits for its entries to drain. The packet of a multicast latches its version
when it leaves, and is delivered later (R301). -/
def copyBody (s : State) (cl eng slot : Nat) (t : TokEntry) (v : CopyView) : State :=
  match t.todo with
  | some [] => if opLogged (getCluster s cl) slot then s else stepDone s cl slot v
  | some l => stepWrite s cl eng slot t v l
  | none =>
    match stepRead s cl slot t v t.done with
    | .hold s => s
    | .fail s c loc => copyFault s cl slot c loc
    | .ok (l, lanes, fl, n) s =>
      let s := if v.kind.isFill then s else countBytes s t.bundle v.buf n
      let s := modTok s cl slot (fun t => { t with lanes := lanes, stepFl := t.stepFl ||| fl })
      match getTok s cl slot with
      | none => s
      | some t =>
        if xstGroup t.op.instr = 0 then stepWrite s cl eng slot t v l
        else modTok (latch s (xstGroup t.op.instr) cl slot) cl slot (fun t => { t with todo := some l })

/-- Whether the writes of a step are held on a full shoal log (R261). -/
def heldFull (s : State) (cl slot : Nat) : Bool := s.faults.any (fun f => f.eng = some (cl, slot) && f.kind = kindFull)

/-- A step whose writes are held on a full log is abandoned (R499). -/
def abandonWrites (s : State) (cl slot : Nat) : State :=
  dropEngHeld (modTok s cl slot (fun t => { t with todo := none, quit := true })) cl slot

/-- A copy that a stop has reached (R499): a step held on a full log is abandoned, entries in the log drain first, and any other step in
progress completes. -/
def copyStop (s : State) (cl eng slot : Nat) (t : TokEntry) (v : CopyView) (c : Cause) : State :=
  let upon (s : State) : State := opEnd s cl slot .cancelled { cause := c, loc := t.fr.loc }
  let wait := opLogged (getCluster s cl) slot
  match t.todo with
  | some [] => if wait then s else stepDone s cl slot v
  | some l =>
    if heldFull s cl slot then (let s := abandonWrites s cl slot; if wait then s else upon s)
    else stepWrite s cl eng slot t v l
  | none =>
    if wait then s
    else if t.quit then upon s
    else
      let (b, s) := takeBit s
      if b then upon s else abandonHeld (copyBody s cl eng slot t v) cl slot c

/-- A copy or transfer moves on. -/
def copyMove (s : State) (cl eng slot : Nat) (t : TokEntry) (v : CopyView) : State :=
  match t.stop with
  | some c => copyStop s cl eng slot t v c
  | none => copyBody s cl eng slot t v

/-- COPY_STEP (R332): the engine's copy moves on. -/
def copyStep (s : State) (cl eng : Nat) : State :=
  match activeOp s cl eng with
    | none => s
    | some (slot, t) =>
      match copyView t.op with
      | none => s
      | some v => if isCopyOp t.op.instr && opMoves s cl t then copyMove s cl eng slot t v else s

/-- One entry of a PKSET: read in the issuing context's address space and validated (R119, R345). -/
def pksetBody (s : State) (cl slot : Nat) (t : TokEntry) (f : PkSetF) : State :=
  let n := f.n.toNat + t.done
  let a := (t.op.pkbase.toNat + 128 * n) % 2 ^ 64
  let fin (s : State) : State := endStep (modTok s cl slot (fun t => { t with done := t.done + 1 })) cl slot
  if n < 4 then opFault s cl slot 0x303 (BitVec.ofNat 64 a)
  else if !issuerRuns s t.op then fin s
  else match resolve s t.op.ctx needLoad a 128 8 with
    | .error (.early e) => opFault s cl slot e (BitVec.ofNat 64 a)
    | .error (.trans tf) =>
      match (engHeld s cl slot t a tf : EAcc Unit) with
      | .fail s c loc => opFault s cl slot c loc
      | .hold s => s
      | .ok _ s => s
    | .ok tg =>
      let s := dropEngHeld s cl slot
      match readBad s tg.loc 128 with
      | some e => opFault (postBad s e tg.loc) cl slot e (BitVec.ofNat 64 a)
      | none =>
        let r := leNat (readHome s tg.loc 128)
        if !recValid r then opFault s cl slot 0x303 (BitVec.ofNat 64 a)
        else
          let s := modCtx s t.op.ctx (fun x => { x with pats := vecSet x.pats (n - 4) (some (BitVec.ofNat 1024 r)) })
          fin (widenOp s cl slot (locScope s cl tg.loc tg.tr))

/-- PKSET_STEP (R345). -/
def pksetStep (s : State) (cl : Nat) : State :=
  if !enginesRun s cl then s
  else match activeOp s cl 0 with
    | none => s
    | some (slot, t) =>
      match t.op.instr with
      | .pkset f => stepOp s cl slot t (fun s => pksetBody s cl slot t f)
      | _ => s

/-! ### Issue -/

/-- The engine of CPY, CPYR and CFILL: the load engine when the destination handle register is of kind 1 (R85). -/
def engByKind (x : Context) (hd : BitVec 5) : Nat := if hKind (x.hval hd.toNat).bits = 1 then 0 else 1

/-- CPY (R336). -/
def execCpy (f : CpyF) (s : State) : Out :=
  .next (issueLS (.cpy f) (engByKind s.x f.hd) f.k f.pri f.dt [f.hd, f.hs] [f.yd, f.ys] s)

/-- CPYG (R339). -/
def execCpyg (f : CpyIF) (s : State) : Out :=
  .next (issueLS (.cpyg f) 0 f.c.k f.c.pri f.c.dt [f.c.hd, f.c.hs, f.hi] [f.c.yd, f.c.ys] s)

/-- CPYS (R339). -/
def execCpys (f : CpyIF) (s : State) : Out :=
  .next (issueLS (.cpys f) 1 f.c.k f.c.pri f.c.dt [f.c.hd, f.c.hs, f.hi] [f.c.yd, f.c.ys] s)

/-- CPYR (R340). -/
def execCpyr (f : CpyRF) (s : State) : Out :=
  .next (issueLS (.cpyr f) (engByKind s.x f.c.hd) f.c.k f.c.pri f.c.dt [f.c.hd, f.c.hs] [f.c.yd, f.c.ys] s)

/-- CFILL (R341). -/
def execCfill (f : CFillF) (s : State) : Out :=
  .next (issueLS (.cfill f) (engByKind s.x f.hd) f.k f.pri f.dt [f.hd] [f.yd] s)

/-- The engine that an e bit selects (R342, R344). -/
def engOfBit (e : Bool) : Nat := if e then 1 else 0

/-- CHBIND (R342). -/
def execChbind (f : ChBindF) (s : State) : Out := .next (issueLS (.chbind f) (engOfBit f.se) f.k f.pri f.dt [f.h] [] s)

/-- CHRD (R344). -/
def execChrd (f : ChRdF) (s : State) : Out := .next (issueLS (.chrd f) (engOfBit f.se) f.k f.pri f.dt [] [] s)

/-- CHUNB (R344). -/
def execChunb (f : ChUnbF) (s : State) : Out := .next (issueLS (.chunb f) (engOfBit f.se) f.k f.pri f.dt [] [] s)

/-- PKSET (R345). -/
def execPkset (f : PkSetF) (s : State) : Out := .next (issueLS (.pkset f) 0 f.k f.pri f.dt [] [] s)

/-- COPY_STEP (R332). -/
def execEvCopyStep (cl : Nat) (eng : Nat) (s : State) : Out := .next (copyStep s cl eng)

/-- PKSET_STEP (R345). -/
def execEvPksetStep (cl : Nat) (s : State) : Out := .next (pksetStep s cl)

end Sys2Proof.Machine
end

