-- ==== Sys2Proof/Machine/Job.lean ====
section
/-!
DEFINITION. Jobs and their nodes as the task instructions and the front end change them: the continuations that live (R383), group
sizes and work identifiers (R380), dependence counters and dispatch (R378), and range tasks (R381).
-/

namespace Sys2Proof.Machine

/-- The continuations that run on a context. -/
def runningConts (s : State) : List Cont := ((s.x :: s.parked.map (·.2)).filter Context.run).map Context.cont

/-- The continuations that clusters keep, suspended or ready, and those of the ready pools. -/
def storedConts (s : State) : List Cont := s.clusters.flatMap (fun c => c.2.susp ++ c.2.ready) ++ s.ready.map (·.2)

/-- Every continuation that has not ended. -/
def liveConts (s : State) : List Cont := runningConts s ++ storedConts s

/-- Records of a job's continuation store (R413). -/
def storeSize : Nat := 65536

/-- Whether a job's continuation store is full. -/
def storeFull (s : State) (b : Nat) : Bool := storeSize ≤ ((liveConts s).filter (fun k => k.bundle = b)).length

/-- The group size of a node (R380). -/
def Node.gsize (n : Node) : Nat := 2 ^ (n.widths.take n.group).sum

/-- The group size of node `n` of job `b`; 1 where the job is not resident. -/
def gsizeOf (s : State) (b n : Nat) : Nat := ((nodeOf s b n).map Node.gsize).getD 1

/-- Field `j` of a work identifier (R380, R416). -/
def widField (widths : List Nat) (wid : Word) (j : Nat) : Word :=
  BitVec.ofNat 64 (wid.toNat / 2 ^ (widths.take j).sum % 2 ^ (widths.getD j 0))

/-- Changes node `n` of job `b`. -/
def modNode (s : State) (b n : Nat) (f : Node → Node) : State :=
  modBundle s b (fun v => { v with nodes := v.nodes.modify n f })

/-- Adds a range task on a cluster (R381, R414). -/
def addPiece (s : State) (b n : Nat) (lo hi : Nat) (pc : BitVec 48) (cl : Nat) : State :=
  let (i, s) := takeId s
  let gone := (tabFind b s.bundles).elim false Bundle.destroyed
  { s with pieces := s.pieces ++ [⟨i, b, n, lo, if gone then lo else hi, pc, cl, []⟩] }

/-- Dispatches a node: its range starts as one range task on its first cluster, at most once (R378, R381). -/
def dispatchNode (s : State) (b n : Nat) : State :=
  match nodeOf s b n with
  | none => s
  | some v =>
    if v.ready then s
    else addPiece (modNode s b n (fun v => { v with ready := true })) b n v.lo.toNat v.hi.toNat v.pc (v.clusters.headD 0)

/-- Whether a node waits for the nodes of other modules once its counter is zero (R377). -/
def Node.isX (v : Node) : Bool := v.kind = 4

/-- A node whose counter is zero becomes ready at once, but for an X node (R377, R378). -/
def readyIfZero (s : State) (b n : Nat) : State :=
  match nodeOf s b n with
  | some v => if v.deps = 0 && !v.isX then dispatchNode s b n else s
  | none => s

/-- Decrements a dependence counter; at zero it stays and 0x088 is logged (R378). -/
def decDep (s : State) (b n : Nat) : State :=
  match nodeOf s b n with
  | none => s
  | some v =>
    if v.deps = 0 then logCause s b 0x088
    else readyIfZero (modNode s b n (fun v => { v with deps := v.deps - 1 })) b n

/-- Decrements the counter of every node of a mask (R378, R417). -/
def decMask (s : State) (b : Nat) (mask : BitVec 8) : State :=
  ((List.range 8).filter (fun n => mask.getLsbD n)).foldl (fun s n => decDep s b n) s

/-- The number of nodes of a job. -/
def nodeCount (s : State) (b : Nat) : Nat := (tabFind b s.bundles).elim 0 (fun v => v.nodes.length)

/-- Counts work identifiers that have been executed (R384). -/
def countExecuted (s : State) (b n : Nat) : State := modBundle s b (fun v => { v with executed := v.executed + n })

/-- The range task that continuation `k` runs. -/
def pieceOf (s : State) (k : Cont) : Option Piece := s.pieces.find? (fun p => p.id = k.piece)

/-- Replaces a range task by its number. -/
def putPiece (s : State) (p : Piece) : State := { s with pieces := s.pieces.map (fun q => if q.id = p.id then p else q) }

end Sys2Proof.Machine
end

