-- ==== Sys2Proof/Machine/Fabric.lean ====
section
/-!
DEFINITION. The fabric operations (R346–R358): XST, XLD and XAMO, the collectives and CBAR (R155–R157), the Ethernet operations
with the endpoint's receives and regions (R435), and the start of every operation of the copy engines.
-/

namespace Sys2Proof.Machine

/-! ### XST, XLD and XAMO (R347–R349) -/

/-- The start checks of XST and XLD (R331, R347, R348). -/
def transferChecks (s : State) (cl : Nat) (t : TokEntry) (v : CopyView) : Option (Cause × Word) :=
  let kd := kindOf v.d.h
  let ks := kindOf v.s.h
  let (dlo, dhi) := lyFoot v.d.y (hBase v.d.h.bits).toNat v.d.off
  let (slo, shi) := lyFoot v.s.y (hBase v.s.h.bits).toNat v.s.off
  let flag := match xstFlag t.op with
    | none => none
    | some w => failIf (bitsOf w.toNat 25 1 = 0 || 12 ≤ bitsOf w.toNat 8 4) 0x108 0
  let (kindsBad, rd, rs) := match t.op.instr with
    | .xst f => ((kd != 0 && kd != 2) || 1 < ks || (f.grp != 0 && kd != 2),
        rightW ||| rightX ||| (if f.gf = 0 then 0 else rightF), rightR)
    | _ => (kd != 1 || (ks != 0 && ks != 2), rightW, rightR ||| rightX)
  firstFail
    [ failIf (layoutFail s t v) 0x308 0,
      failIf (!notifyOk s cl t.op) 0x30E 0,
      failIf kindsBad 0x309 0,
      checkHandle s cl t v.d.h v.d.reg rd dlo dhi,
      checkHandle s cl t v.s.h v.s.reg rs slo shi,
      flag,
      channelFail s cl t v ]

/-- Start of XST or XLD. -/
def startTransfer (s : State) (cl slot : Nat) (t : TokEntry) (v : CopyView) : State :=
  match transferChecks s cl t v with
  | some c => failStart s cl slot c
  | none => widenOp (activate s cl t.op.member slot (copySteps v)) cl slot 2

/-- Bytes of an XAMO's target. -/
def xamoBytes (f : XAmoF) : Nat := sizeBytes f.sz

/-- The start checks of XAMO (R349). -/
def xamoChecks (s : State) (cl : Nat) (t : TokEntry) (f : XAmoF) : Option (Cause × Word) :=
  let h := opH t.op 0
  let o := (opG t.op 0).toNat
  let gp := (opG t.op 3).toNat
  firstFail
    [ failIf (f.gp != 0 && (gp % 8 != 0 || scratchLen (getCluster s cl).poolpw < gp + 8)) 0x30E 0,
      failIf (kindOf h != 0 && kindOf h != 2) 0x309 0,
      checkHandle s cl t h f.h (rightR ||| rightW ||| rightX) o (o + xamoBytes f),
      failIf (hAddr h o % xamoBytes f != 0) 0x107 (BitVec.ofNat 64 (hAddr h o)) ]

/-- Start of XAMO. -/
def startXamo (s : State) (cl slot : Nat) (t : TokEntry) (f : XAmoF) : State :=
  match xamoChecks s cl t f with
  | some c => failStart s cl slot c
  | none => widenOp (activate s cl t.op.member slot 1) cl slot 2

/-- The old value reaches the scratchpad, and the step is done (R349); part of a line that fails its checks is not written (R438, R477). -/
def xamoDone (s : State) (cl slot : Nat) (t : TokEntry) (f : XAmoF) (old : Nat) : State :=
  let l := Loc.pool cl (scratchBase (getCluster s cl).poolpw + (opG t.op 3).toNat)
  match (if f.gp = 0 then none else writeBad s l 8) with
  | some e => opFault (postBad s e l) cl slot e (opG t.op 3)
  | none =>
    let s := if f.gp = 0 then s else writeHome s l (leBytes 8 old)
    endStep (modTok s cl slot (fun t => { t with done := t.done + 1 })) cl slot

/-- Whether an XAMO may reach its target on pod die `dst`: one of release or acquire-release order is a release-class access (R287, R349). -/
def xamoReleases (s : State) (t : TokEntry) (f : XAmoF) (dst : Nat) : Bool := !f.ord.getLsbD 1 || opReleases s t.op dst

/-- The one step of XAMO, at pod scope (R313, R349): at a home on another module the old value is free. -/
def xamoBody (s : State) (cl slot : Nat) (t : TokEntry) (f : XAmoF) : State :=
  let n := xamoBytes f
  let a := hAddr (opH t.op 0) (opG t.op 0).toNat
  let (op, v, cmp) := (f.op.toNat, (opG t.op 1).toNat % 2 ^ (8 * n), (opG t.op 2).toNat % 2 ^ (8 * n))
  let perform (s : State) (l : Loc) (tr : Option Trans) : State :=
    if !amoSupported l op then opFault s cl slot 0x109 (BitVec.ofNat 64 a)
    else match readBad s l n with
      | some e => opFault (postBad s e l) cl slot e (BitVec.ofNat 64 a)
      | none =>
        let old := leNat (readHome s l n)
        let s := widenOp (widenOp (writeHome s l (leBytes n (amoNew op n old v cmp))) cl slot 2) cl slot (locScope s cl l tr)
        xamoDone s cl slot t f old
  if kindOf (opH t.op 0) = 2 then
    if !xamoReleases s t f (farDie a) then s
    else match remoteAt s cl t.bundle a n with
    | .error c => opFault s cl slot c (BitVec.ofNat 64 a)
    | .ok none => let (bs, s) := freeBytes n s; xamoDone (widenOp s cl slot 2) cl slot t f (leNat bs)
    | .ok (some l) => perform s l none
  else match engTarget s cl slot t 0 needBoth a with
    | .hold s => s
    | .fail s c loc => opFault s cl slot c loc
    | .ok tg s =>
      if !xamoReleases s t f (locDie s tg.loc) || dieBlocks s (podDie s (cl / 12)) tg.loc n then s else perform s tg.loc tg.tr

/-- Whether a transfer writes the pool of a cluster whose freeze has been acknowledged: its writes wait at the port (R476). -/
def farHeld (s : State) (cl slot : Nat) (i : Instr) (h : HReg) : Bool :=
  let a := (hBase h.bits).toNat
  kindOf h = 2 && ((destDies s cl slot i a).getD []).any (fun m =>
    (moduleDie s m).any (fun d => (getCluster s (d * 12 + farCluster a)).ack))

/-- The remote-tensor handle of a transfer, with its register and the rights that it needs. -/
def farHandle (t : TokEntry) : Option (HReg × BitVec 5 × BitVec 8) :=
  let r := match t.op.instr with
    | .xst f => some (opH t.op 0, f.hd, rightW ||| rightX ||| (if f.gf = 0 then 0 else rightF))
    | .xld f => some (opH t.op 1, f.hs, rightR ||| rightX)
    | .xamo f => some (opH t.op 0, f.h, rightR ||| rightW ||| rightX)
    | _ => none
  r.filter (fun h => kindOf h.1 = 2)

/-- The target dies of an operation's remote-tensor handle: with a group the members of its version (R348). -/
def farDies (s : State) (cl slot : Nat) (t : TokEntry) (h : HReg) : List Nat :=
  (destDies s cl slot t.op.instr (hBase h.bits).toNat).getD []

/-- What the check of a remote-tensor handle at a target die finds, where such a die is one of this module's (R429). -/
def farRefused (s : State) (cl slot : Nat) (t : TokEntry) : Option (Cause × Word) :=
  (farHandle t).bind (fun h =>
    if (farDies s cl slot t h.1).all (fun m => (moduleDie s m).isNone) then none
    else
      let c := handleCheck s (jobSpace s t.bundle) h.1 h.2.2
      if c = 0 then none else some (c, handleWhere h.1 h.2.1.toNat))

/-- What a negative acknowledgement means: the fabric does not reach the target (0x381, R346), or the check of a remote-tensor handle at a
target die of another module has failed with a cause of R429, which is free. -/
def nakCause (s : State) (cl slot : Nat) (t : TokEntry) : (Cause × Word) × State :=
  match farHandle t with
  | none => ((0x381, 0), s)
  | some h =>
    if (farDies s cl slot t h.1).all (fun m => (moduleDie s m).isSome) then ((0x381, 0), s)
    else
      let (n, s) := takeFresh s
      let k := (Config.freeWord n).toNat % 6
      (if k = 5 then (0x381, 0) else (BitVec.ofNat 10 (0x200 + k), handleWhere h.1 h.2.1.toNat), s)

/-- REMOTE_TRANSFER_STEP (R348): one step is carried to its target; `ok` is false when a negative acknowledgement returns (R346, R429). -/
def remoteStep (s : State) (cl eng : Nat) (ok : Bool) : State :=
  match activeOp s cl eng with
    | none => s
    | some (slot, t) =>
      if !opMoves s cl t || farHeld s cl slot t.op.instr (opH t.op 0) then s
      else match farRefused s cl slot t with
      | some (c, loc) => copyFault s cl slot c loc
      | none => match t.op.instr, copyView t.op with
      | .xamo f, _ =>
        if ok then stepOp s cl slot t (fun s => xamoBody s cl slot t f)
        else let (c, s) := nakCause s cl slot t; opFault s cl slot c.1 c.2
      | i, some v =>
        if isCopyOp i then s
        else if ok then copyMove s cl eng slot t v
        else let (c, s) := nakCause s cl slot t; copyFault s cl slot c.1 c.2
      | _, none => s

/-! ### Collectives (R350–R355) -/

/-- The selectors of opcode 0x73 (R98), and CBAR. -/
inductive CollOp where
  | ar | ag | rs | a2a | bc | bar
  deriving DecidableEq, Repr

/-- A collective's selector and fields; CBAR has only the communicator. -/
def collForm : Instr → Option (CollOp × CollF)
  | .car f => some (.ar, f)
  | .cag f => some (.ag, f)
  | .crs f => some (.rs, f)
  | .ca2a f => some (.a2a, f)
  | .cbc f => some (.bc, f)
  | _ => none

/-- The communicator of a collective or CBAR. -/
def commOf : Instr → Nat
  | .cbar f => f.comm.toNat
  | i => match collForm i with
    | some (_, f) => f.comm.toNat
    | none => 0

/-- The key of a job's communicator. -/
def commKey (b comm : Nat) : Nat := b * 4096 + comm

/-- The key of the k-th collective of a communicator. -/
def collKey (b comm k : Nat) : Nat := commKey b comm * 2 ^ 32 + k

/-- A job's communicator; one that is not set up has no participants (R350). -/
def commRec (s : State) (b comm : Nat) : Comm := tabGet {} (commKey b comm) s.comms

/-- The participants of a communicator, as pod die and cluster on it, in rank order (R350). -/
def commRanks (s : State) (b comm : Nat) : List (Nat × Nat) := (commRec s b comm).ranks

/-- Destination and source of a collective. -/
def collSides (t : TokEntry) (f : CollF) : Side × Side :=
  (⟨opH t.op 0, f.hd, (opG t.op 0).toNat, opY t.op 0⟩, ⟨opH t.op 1, f.hs, (opG t.op 1).toNat, opY t.op 1⟩)

/-- Bytes that a layout describes. -/
def lyBytes (y : BitVec 256) : Nat := lySteps y * lyBlock y

/-- The row at stream position `p` of a side: row number in its block, offset of the row, and the byte within the row. -/
def streamRow (d : Side) (p : Nat) : Nat × Int × Nat :=
  let row := p / lyRowBytes d.y
  (row % lyRows d.y, lyRowAt d.y d.off (row / lyRows d.y) (row % lyRows d.y), p % lyRowBytes d.y)

/-- The pieces of stream bytes [p, p + n) of a side: address, byte of the row, length; `f` bounds the rows. -/
def streamPieces (d : Side) : Nat → Nat → Nat → List (Nat × Nat × Nat)
  | 0, _, _ => []
  | f + 1, p, n => if n = 0 then [] else
    let (r, o, x) := streamRow d p
    let m := min n (lyRowBytes d.y - x)
    (sidePieces d.h d.y r (o + x) m).map (fun q => (q.2.1, x + q.1, q.2.2)) ++ streamPieces d f (p + m) (n - m)

/-- Reads stream bytes [p, p + n) of a side. -/
def readStream (s : State) (cl slot : Nat) (t : TokEntry) (d : Side) (p n : Nat) : EAcc (List Byte) :=
  engReadRuns s cl slot t (hKind d.h.bits) ((streamPieces d (n / 16 + 2) p n).map (fun q => (q.1, q.2.2))) []

/-- The writes of stream bytes from position `p`. -/
def streamWrites (d : Side) (p : Nat) (bs : List Byte) : List (Nat × Nat × List Byte) :=
  let cut := streamPieces d (bs.length / 16 + 2) p bs.length
  (cut.foldl (fun a q => (a.1 ++ [(q.1, q.2.1, (bs.drop a.2).take q.2.2)], a.2 + q.2.2)) (([], 0) : List (Nat × Nat × List Byte) × Nat)).1

/-- The byte ranges of a side's rows. -/
def sideRows (d : Side) : List (Int × Int) :=
  (List.range (lySteps d.y)).flatMap (fun k => (List.range (lyRows d.y)).map (fun r =>
    let o := lyRowAt d.y d.off k r + (hBase d.h.bits).toNat
    (o, o + lyRowBytes d.y)))

/-- Whether two sides of one kind share a byte (R352). -/
def sidesOverlap (a b : Side) : Bool :=
  hKind a.h.bits = hKind b.h.bits && (sideRows a).any (fun x => (sideRows b).any (fun y => x.1 < y.2 && y.1 < x.2))

/-- Whether the byte counts of a rank fit its collective among `p` ranks (R352). -/
def countsOk (op : CollOp) (p d s : Nat) : Bool :=
  match op with
  | .ar => d = s
  | .rs => s = p * d
  | .ag => d = p * s
  | .a2a => s = d && d % p = 0
  | _ => d = s

/-- Whether a rank reads its source: every rank but those of CBC that are not the root (R352). -/
def readsSource (op : CollOp) (self root : Nat) : Bool := op != .bc || self = root

/-- Whether this rank's data leave its die: a participant lives on another one (R351). -/
def leavesDie (ranks : List (Nat × Nat)) (die : Nat) : Bool := ranks.any (fun r => r.1 != die)

/-- The start checks of a collective (R331, R351, R352). DESIGN CHOICE (entry 225): byte counts that break the Requires column of R352 are a
layout error, 0x308. -/
def collChecks (s : State) (cl : Nat) (t : TokEntry) (op : CollOp) (f : CollF) (ranks : List (Nat × Nat)) (self : Option Nat) :
    Option (Cause × Word) :=
  let (d, sr) := collSides t f
  let reads := match self with
    | some r => readsSource op r (opG t.op 3).toNat
    | none => true
  let fits := countsOk op ranks.length (lyBytes d.y) (lyBytes sr.y)
  let (dlo, dhi) := lyFoot d.y (hBase d.h.bits).toNat d.off
  let (slo, shi) := lyFoot sr.y (hBase sr.h.bits).toNat sr.off
  let x : BitVec 8 := if leavesDie ranks (podDie s (cl / 12)) then rightX else 0
  firstFail
    [ failIf self.isNone 0x30C 0,
      failIf (lyBad d.y (kindOf d.h) || lyInner d.y != 0 || !fits ||
        (reads && (lyBad sr.y (kindOf sr.h) || lyInner sr.y != 0)) ||
        ((op = .ag || op = .rs || op = .a2a) && kindOf d.h ≤ 1 && sidesOverlap d sr)) 0x308 0,
      failIf (!notifyOk s cl t.op) 0x30E 0,
      failIf ((op = .ar || op = .rs) && !(f.efmt = 1 || f.efmt = 2 || f.efmt = 3)) 0x302 0,
      failIf (1 < kindOf d.h || (reads && 1 < kindOf sr.h)) 0x309 0,
      checkHandle s cl t d.h d.reg rightW dlo dhi,
      if reads then checkHandle s cl t sr.h sr.reg (rightR ||| x) slo shi else none ]

/-- What must agree among the ranks (R350). -/
def collSig (t : TokEntry) : List Nat :=
  match collForm t.op.instr with
  | none => [6]
  | some (op, f) =>
    let (d, sr) := collSides t f
    let sel := match op with
      | .ar => 0 | .ag => 1 | .rs => 2 | .a2a => 3 | .bc => 4 | .bar => 6
    [sel, f.exact.toNat, f.efmt.toNat, f.op.toNat, lyBytes d.y, if op = .bc then 0 else lyBytes sr.y]

/-- This cluster's rank in a communicator. -/
def rankOf (s : State) (cl : Nat) (ranks : List (Nat × Nat)) : Option Nat :=
  ranks.findIdx? (fun r => r.1 = podDie s (cl / 12) && r.2 = cl % 12)

/-- Changes the record of a collective. -/
def modColl (s : State) (key : Nat) (f : CollRec → CollRec) : State := { s with colls := tabMod {} key f s.colls }

/-- The number of the collective that the operation dequeued, kept with its slot (R350). -/
def collNo (s : State) (cl b comm : Nat) : Nat := tabGet 0 (commKey b comm) (getCluster s cl).colls

/-- Start of a collective or CBAR: it joins the record of the k-th one of its communicator; a difference ends every participant
(R350). Its scope is pod, or system when a path crosses Ethernet (R353). -/
def startColl (s : State) (cl slot : Nat) (t : TokEntry) : State :=
  let b := t.bundle
  let comm := commOf t.op.instr
  let ranks := commRanks s b comm
  let self := rankOf s cl ranks
  let k := collNo s cl b comm
  let key := collKey b comm k
  let s := modCluster s cl (fun c => { c with colls := tabPut (commKey b comm) (k + 1) c.colls })
  let (fail, total) := match collForm t.op.instr with
    | some (op, f) => (collChecks s cl t op f ranks self, (lyBytes (collSides t f).1.y + 65535) / 65536)
    | none => (firstFail [failIf self.isNone 0x30C 0, failIf (!notifyOk s cl t.op) 0x30E 0], 1)
  match fail with
  | some c =>
    failStart (modColl s key (fun r => { r with failed := some (r.failed.getD (if c.1 = 0x30C then 0x30C else 0x30D)) })) cl slot c
  | none =>
    let s := modColl s key (fun c =>
      { c with sig := if c.sig = [] then collSig t else c.sig, ranks := tabPut (self.getD 0) (cl, slot, t.op.seq) c.ranks,
               failed := if c.sig = [] || c.sig = collSig t then c.failed else some 0x30C })
    widenOp (activate s cl 1 slot total) cl slot (if (commRec s b comm).eth then 3 else 2)

/-- The clusters of this module that take part, with their ranks. -/
def localRanks (s : State) (ranks : List (Nat × Nat)) : List (Nat × Nat) :=
  ranks.zipIdx.filterMap (fun r => (moduleDie s r.1.1).map (fun d => (r.2, d * 12 + r.1.2)))

/-- Whether a rank of this module that had joined has ended early (R353). -/
def rankEnded (s : State) (c : CollRec) (r : Nat) : Bool :=
  match tabFind r c.ranks with
  | none => false
  | some (cl, slot, seq) =>
    !c.finished.contains r && (match getTok s cl slot with
      | none => true
      | some t => t.op.seq != seq || t.state.terminal)

/-- The cause that ends this rank of a collective, if its record or a peer says so (R350, R353). -/
def collCause (s : State) (c : CollRec) (peers : PeerData) : Option Cause :=
  match c.failed with
  | some e => some e
  | none =>
    if !peers.agree then some 0x30C
    else if peers.ended || c.ranks.any (fun r => rankEnded s c r.1) then some 0x30D
    else none

/-- The place where a tree of `n` ranks divides: in halves for a power of two, else where the communicator fixes it (R155, R377). -/
def treeCut (comm n : Nat) : Nat :=
  if n = 2 ^ n.log2 then n / 2 else Config.treeSplit comm n % (n - 1) + 1

/-- A reduction along the communicator's tree, left part first (R155). `f` bounds its height. -/
def treeReduce {α : Type} (comm : Nat) (comb : α → α → α) : Nat → List α → Option α
  | _, [] => none
  | _, [a] => some a
  | 0, a :: _ => some a
  | f + 1, l =>
    let c := treeCut comm l.length
    match treeReduce comm comb f (l.take c), treeReduce comm comb f (l.drop c) with
    | some a, some b => some (comb a b)
    | some a, none => some a
    | none, r => r

/-- One combination of ordered mode: a sum rounded to FP32, or the smaller or larger (R155, R352). DESIGN CHOICE (log entry 183): a sum
that overflows follows INF; R155 names no policy. -/
def orderedComb (op : BitVec 2) (a b : NumF) : NumF :=
  if op = 0 then
    let (c, fl) := (roundNum fp32 rneInf (numAdd a.1 b.1)).get
    (floatDecode fp32 c, a.2 ||| b.2 ||| fl)
  else
    let r := numMinMax (op = 1) a.1 b.1
    (r.1, a.2 ||| b.2 ||| r.2)

/-- The value of exact mode before its last rounding (R156). -/
def exactReduce (l : List ExactNum) : NumF :=
  let both := l.any (fun v => v = .inf true) && l.any (fun v => v = .inf false)
  if l.any ExactNum.isNan || both then (.nan false, flagIf (l.any ExactNum.isSig || both) flagInvalid)
  else match l.find? ExactNum.isInf with
    | some v => (v, flagNone)
    | none =>
      match (l.filterMap leadOf).max? with
      | none => (.zero (l.all ExactNum.neg), flagNone)
      | some emax =>
        let q := emax - 70
        let parts := l.map (fun v => match v with
          | .fin neg m e st => let (n, inx) := roundMag rneInf m e st q; ((if neg then -(n : Int) else n), inx)
          | _ => (0, false))
        let sum : Int := parts.foldl (fun a p => a + p.1) (0 : Int)
        let fl := flagIf (parts.any (fun p => p.2)) flagInexact
        if sum = 0 then (.zero false, fl) else (.fin (decide (sum < 0)) sum.natAbs q false, fl)

/-- One reduced element: the ranks' codes in rank order (R155, R156, R352). -/
def reduceElem (comm : Nat) (f : CollF) (r : Rnd) (codes : List Nat) : Coded :=
  match floatFmt f.efmt.toNat with
  | none => .ok 0 flagNone
  | some ff =>
    let vals := codes.map (floatDecode ff)
    if f.exact then roundNum ff { r with mode := 0 } (exactReduce vals)
    else roundNum ff r ((treeReduce comm (orderedComb f.op) vals.length (vals.map (fun v => (v, flagNone)))).getD (.zero false, flagNone))

/-- A run of reduced elements: `j` is the first element's index in its row (R133). -/
def reduceRun (comm : Nat) (f : CollF) (seed : Word) (rowEls : Nat) :
    Nat → List (List Nat) → Tab (BitVec 32) → Flags → Except Cause (List Nat × Tab (BitVec 32) × Flags)
  | _, [], lanes, fl => .ok ([], lanes, fl)
  | j, c :: cs, lanes, fl =>
    let (st, lanes) := if f.rnd = 2 && !f.exact then privLane seed lanes (j % max 1 rowEls) else (0, lanes)
    match reduceElem comm f ⟨f.rnd, f.ovf, st⟩ c with
    | .trap e => .error e
    | .ok v f2 =>
      match reduceRun comm f seed rowEls (j + 1) cs lanes (fl ||| f2) with
      | .error e => .error e
      | .ok (l, lanes, fl) => .ok (v :: l, lanes, fl)

/-- Elements `i` of every rank's bytes. -/
def columns (sz n : Nat) (srcs : List (List Byte)) : List (List Nat) :=
  (List.range n).map (fun i => srcs.map (fun b => leNat ((b.drop (i * sz)).take sz)))

/-- Bytes [p, p + n) of the destination stream of rank `self`, from every rank's source (R352). DESIGN CHOICE (entry 226): a CBC whose root is
no rank writes nothing and ends DONE. -/
def collBytes (t : TokEntry) (op : CollOp) (f : CollF) (rd : RoundAs) (self p n : Nat) (srcs : List (List Byte)) :
    Except Cause (List Byte × Tab (BitVec 32) × Flags) :=
  let cut (j q m : Nat) : List Byte := ((srcs.getD j []).drop q).take m
  let d := (collSides t f).1
  let total := lyBytes d.y
  let reduce (parts : List (List Byte)) : Except Cause (List Byte × Tab (BitVec 32) × Flags) :=
    let sz := contBytes f.efmt.toNat
    match reduceRun f.comm.toNat { f with rnd := rd.rnd, ovf := rd.ovf } rd.seed (rd.row / sz) (p / sz) (columns sz (n / sz) parts) t.lanes flagNone with
    | .error e => .error e
    | .ok (codes, lanes, fl) => .ok (codes.flatMap (leBytes sz), lanes, fl)
  match op with
  | .ar => reduce (srcs.map (fun b => (b.drop p).take n))
  | .rs => reduce (srcs.map (fun b => (b.drop (self * total + p)).take n))
  | .bc => .ok (cut (opG t.op 3).toNat p n, t.lanes, flagNone)
  | .bar => .ok ([], t.lanes, flagNone)
  | .ag =>
    let q := total / max 1 srcs.length
    .ok ((List.range n).map (fun i => ((srcs.getD ((p + i) / max 1 q) []).getD ((p + i) % max 1 q) 0)), t.lanes, flagNone)
  | .a2a =>
    let q := total / max 1 srcs.length
    .ok ((List.range n).map (fun i => ((srcs.getD ((p + i) / max 1 q) []).getD (self * q + (p + i) % max 1 q) 0)), t.lanes, flagNone)

/-- The source of each rank: as this module's ranks read it, the others as the environment gives it; none while a rank of this module
has not read its own. -/
def rankSources (s : State) (c : CollRec) (ranks : List (Nat × Nat)) (peers : PeerData) : Option (List (List Byte)) :=
  if (localRanks s ranks).all (fun r => (tabFind r.1 c.srcs).isSome) then
    some ((List.range ranks.length).map (fun r => (tabFind r c.srcs).getD (peers.srcs.getD r [])))
  else none

/-- How an operation rounds: by its fields, its SEED and the length of its destination rows (R133). -/
def roundAs (t : TokEntry) : RoundAs :=
  match collForm t.op.instr with
  | some (_, f) => ⟨f.rnd, f.ovf, t.op.seed, lyRowBytes (collSides t f).1.y⟩
  | none => {}

/-- How a collective rounds: every rank receives identical bits (R352), so all round alike. DESIGN CHOICE (entry 218): where the ranks differ
in rounding, policy, SEED or row length, those of one of the ranks hold for all, and which is free. -/
def roundOf (s : State) (key : Nat) (t : TokEntry) : RoundAs × State :=
  match (tabGet {} key s.colls).round with
  | some r => (r, s)
  | none =>
    let given := ((tabGet {} key s.colls).ranks.filterMap (fun r => (getTok s r.2.1 r.2.2.1).map roundAs))
    let (n, s) := takeFresh s
    let r := given.getD ((Config.freeWord n).toNat % max 1 given.length) (roundAs t)
    (r, modColl s key (fun c => { c with round := some r }))

/-- A collective ends early: the other participants of this module end too (R353). -/
def collFault (s : State) (cl slot key : Nat) (c : Cause) (loc : Word) : State :=
  copyFault (modColl s key (fun r => { r with failed := some (r.failed.getD (if c = 0x30C then c else 0x30D)) })) cl slot c loc

/-- A rank has made its last step; the record goes when every rank of this module has. -/
def collFinish (s : State) (key self : Nat) (ranks : List (Nat × Nat)) : State :=
  let s := modColl s key (fun r => { r with finished := r.finished ++ [self] })
  let c := tabGet {} key s.colls
  if (localRanks s ranks).all (fun r => c.finished.contains r.1) then { s with colls := tabDel key s.colls } else s

/-- A step's bytes are written, or wait in the engine's log (R259, R332). -/
def collWrite (s : State) (cl slot key self : Nat) (ranks : List (Nat × Nat)) (t : TokEntry) (d : Side)
    (l : List (Nat × Nat × List Byte)) : State :=
  match writePieces cl 1 slot t (hKind d.h.bits) none l s with
  | .fail s c loc => collFault s cl slot key c loc
  | .hold s rest =>
    modTok (addEngHeld s cl slot t ((rest.head?.map (·.1)).getD 0) kindFull ⟨0x110, false⟩) cl slot (fun t => { t with todo := some rest })
  | .wait s rest => modTok s cl slot (fun t => { t with todo := some rest })
  | .done s =>
    let s := modTok s cl slot (fun t => { t with todo := some [] })
    if opLogged (getCluster s cl) slot then s
    else
      let s := if t.done + 1 = t.total then collFinish s key self ranks else s
      endStep (modTok s cl slot TokEntry.commit) cl slot

/-- A rank's source, read once at its first step: "as though every source were read first" (R352). -/
def collSource (s : State) (cl slot key self : Nat) (reads : Bool) (t : TokEntry) (f : CollF) : EAcc Unit :=
  match tabFind self (tabGet {} key s.colls).srcs with
  | some _ => .ok () s
  | none =>
    let sr := (collSides t f).2
    let r := if reads then readStream s cl slot t sr 0 (lyBytes sr.y) else .ok [] s
    r.bind (fun bs s =>
      let s := countBytes s t.bundle f.buf bs.length
      .ok () (modColl s key (fun c => { c with srcs := tabPut self bs c.srcs })))

/-- One step of a collective: 64 KiB of the rank's destination stream (R353). -/
def collBody (s : State) (cl slot : Nat) (t : TokEntry) (op : CollOp) (f : CollF) (peers : PeerData) : State :=
  let comm := f.comm.toNat
  let ranks := commRanks s t.bundle comm
  let self := (rankOf s cl ranks).getD 0
  let key := collKey t.bundle comm (collNo s cl t.bundle comm - 1)
  let d := (collSides t f).1
  match t.todo with
  | some l =>
    match s.faults.find? (fun r => r.eng = some (cl, slot) && r.refused.isSome) with
    | some r => collFault s cl slot key (r.refused.getD 0) r.va
    | none => if l = [] && opLogged (getCluster s cl) slot then s else collWrite s cl slot key self ranks t d l
  | none =>
    match collCause s (tabGet {} key s.colls) peers with
    | some c => collFault s cl slot key c 0
    | none =>
      match collSource s cl slot key self (readsSource op self (opG t.op 3).toNat) t f with
      | .hold s => s
      | .fail s c loc => collFault s cl slot key c loc
      | .ok _ s =>
        match rankSources s (tabGet {} key s.colls) ranks peers with
        | none => s
        | some srcs =>
          let p := t.done * 65536
          let (rd, s) := roundOf s key t
          match collBytes t op f rd self p (min 65536 (lyBytes d.y - p)) srcs with
          | .error c => collFault s cl slot key c 0
          | .ok (bs, lanes, fl) =>
            let s := modTok s cl slot (fun t => { t with lanes := lanes, stepFl := t.stepFl ||| fl })
            match getTok s cl slot with
            | none => s
            | some t => collWrite s cl slot key self ranks t d (streamWrites d p bs)

/-- A collective that a stop has reached ends at a step boundary; a step held on a full log is abandoned (R353, R499). -/
def collStop (s : State) (cl slot : Nat) (t : TokEntry) (op : CollOp) (f : CollF) (peers : PeerData) (c : Cause) : State :=
  let upon (s : State) : State := opEnd s cl slot .cancelled { cause := c, loc := t.fr.loc }
  let wait := opLogged (getCluster s cl) slot
  if t.todo.isSome then
    (if heldFull s cl slot then (let s := abandonWrites s cl slot; if wait then s else upon s) else collBody s cl slot t op f peers)
  else if wait then s
  else if t.quit then upon s
  else
    let (b, s) := takeBit s
    if b then upon s else abandonHeld (collBody s cl slot t op f peers) cl slot c

/-- COLLECTIVE_STEP (R353). -/
def collStep (s : State) (cl : Nat) (peers : PeerData) : State :=
  match activeOp s cl 1 with
    | none => s
    | some (slot, t) =>
      if !opMoves s cl t then s
      else match collForm t.op.instr with
      | none => s
      | some (op, f) => match t.stop with
        | some c => collStop s cl slot t op f peers c
        | none => collBody s cl slot t op f peers

/-- CBAR_COMPLETE (R355): every rank's matching CBAR has forked; `ok` is false when a peer has ended. -/
def cbarComplete (s : State) (cl : Nat) (ok : Bool) : State :=
  if !enginesRun s cl then s
  else match activeOp s cl 1 with
    | none => s
    | some (slot, t) =>
      match t.op.instr with
      | .cbar f =>
        let ranks := commRanks s t.bundle f.comm.toNat
        let key := collKey t.bundle f.comm.toNat (collNo s cl t.bundle f.comm.toNat - 1)
        let c := tabGet {} key s.colls
        match collCause s c ⟨true, !ok, []⟩ with
        | some e => collFault s cl slot key e 0
        | none =>
          if !(localRanks s ranks).all (fun r => (tabFind r.1 c.ranks).isSome) then s
          else
            let s := collFinish s key ((rankOf s cl ranks).getD 0) ranks
            endStep (modTok s cl slot (fun t => { t with done := 1, total := 1 })) cl slot
      | _ => s

/-! ### Ethernet operations (R356–R358, R435) -/

/-- The key of a partition's endpoint. -/
def epKey (part ep : Nat) : Nat := part * 256 + ep

/-- The endpoint that a kind-3 handle names. -/
def epOf (h : HReg) : Nat := epKey (hPart h.bits) ((hBase h.bits).toNat % 256)

/-- The local side of an Ethernet operation, with the right it needs. -/
def netSide (t : TokEntry) : Option (Side × BitVec 8) :=
  match t.op.instr with
  | .nsend f => some (⟨opH t.op 1, f.hs, (opG t.op 1).toNat, opY t.op 0⟩, rightR)
  | .nrecv f => some (⟨opH t.op 1, f.hd, (opG t.op 1).toNat, opY t.op 0⟩, rightW)
  | .nwrite f => some (⟨opH t.op 1, f.hl, (opG t.op 1).toNat, opY t.op 0⟩, rightR)
  | .nread f => some (⟨opH t.op 1, f.hl, (opG t.op 1).toNat, opY t.op 0⟩, rightW)
  | _ => none

/-- The buffer tag of an Ethernet operation. -/
def netTag : Instr → BitVec 8
  | .nsend f => f.buf
  | .nrecv f => f.buf
  | .nwrite f => f.buf
  | .nread f => f.buf
  | _ => 0

/-- The register of the endpoint handle. -/
def netReg : Instr → BitVec 5
  | .nsend f => f.he
  | .nrecv f => f.he
  | .nwrite f => f.he
  | .nread f => f.he
  | _ => 0

/-- Whether an Ethernet operation writes its local side, which is then a pool region. -/
def netWrites : Instr → Bool
  | .nrecv _ | .nread _ => true
  | _ => false

/-- Whether an instruction sends a message, which has a greatest length (R357). -/
def isSend : Instr → Bool
  | .nsend _ => true
  | _ => false

/-- The start checks of an Ethernet operation (R331, R356, R435). -/
def netChecks (s : State) (cl : Nat) (t : TokEntry) (d : Side) (rights : BitVec 8) : Option (Cause × Word) :=
  let he := opH t.op 0
  let peer := opG t.op 0
  let kl := kindOf d.h
  let (lo, hi) := lyFoot d.y (hBase d.h.bits).toNat d.off
  let any := isRecv t.op.instr && peer = BitVec.allOnes 64
  firstFail
    [ failIf (lyBad d.y kl || lyInner d.y != 0 || (isSend t.op.instr && 2 ^ 32 ≤ lyBytes d.y)) 0x308 0,
      failIf (!notifyOk s cl t.op) 0x30E 0,
      failIf (kindOf he != 3 || (if netWrites t.op.instr then kl != 1 else 1 < kl)) 0x309 0,
      checkHandle s cl t he (netReg t.op.instr) rightX 0 0,
      checkHandle s cl t d.h d.reg rights lo hi,
      failIf (!any && (1024 ≤ peer.toNat || (tabFind peer.toNat (tabGet {} (epOf he) s.endpoints).peers).isNone)) 0x381 0 ]

/-- Whether a receive takes a message (R357). -/
def recvTakes (t : TokEntry) (peer : Nat) (mode : Nat) (tag : Word) : Bool :=
  match t.op.instr with
  | .nrecv f =>
    (opG t.op 0 = BitVec.allOnes 64 || (opG t.op 0).toNat = peer) && (tag ^^^ opG t.op 2) &&& opG t.op 4 = 0 && f.mode.toNat = mode
  | _ => false

/-- A message matched to a receive, which counts the bytes that it takes (R335): it is written in the receive's turn, which then ends DONE,
or with 0x383 when the message is longer than the stream (R357). DESIGN CHOICE (entry 227): the detail keeps the low 22 bits of the length. -/
def fillRecv (s : State) (cl slot : Nat) (t : TokEntry) (bs : List Byte) : State :=
  match netSide t with
  | none => s
  | some (d, _) =>
    let fr : FaultRec := if lyBytes d.y < bs.length then { cause := 0x383, detail := BitVec.ofNat 22 bs.length } else {}
    let part := bs.take (lyBytes d.y)
    let s := countBytes (widenOp s cl slot 3) t.bundle (netTag t.op.instr) part.length
    let s := modTok s cl slot (fun t => { t with state := .running, done := 1, total := 1, fr := fr, todo := some (streamWrites d 0 part) })
    settleRecvs cl (getCluster s cl).toks.length s

/-- Start of NRECV (R357): a message that waits for it is placed at once, else the receive is posted and stays QUEUED. -/
def postRecv (s : State) (cl slot : Nat) (t : TokEntry) : State :=
  let key := epOf (opH t.op 0)
  let e := tabGet {} key s.endpoints
  let s := popHead s cl slot
  match e.waiting.find? (fun m => recvTakes t (m.1 % 1024) (m.1 / 1024) m.2.1) with
  | some m =>
    fillRecv { s with endpoints := tabPut key { e with waiting := e.waiting.erase m } s.endpoints } cl slot t m.2.2
  | none => { s with endpoints := tabPut key { e with posted := e.posted.filter (· != (cl, slot)) ++ [(cl, slot)] } s.endpoints }

/-- Whether the Ethernet port of an endpoint is disabled (R492). -/
def portOff (s : State) (ep : Nat) : Bool := bitsOf s.hub.eth.toNat (4 * (tabGet {} ep s.endpoints).port) 4 = 0

/-- A start that fails: a receive ends in its turn among the receives of its continuation (R400). -/
def failNet (s : State) (cl slot : Nat) (t : TokEntry) (c : Cause × Word) : State :=
  if isRecv t.op.instr then
    let s := modTok (popHead s cl slot) cl slot (fun t => { t with state := .running, fr := { cause := c.1, loc := c.2 } })
    settleRecvs cl (getCluster s cl).toks.length s
  else failStart s cl slot c

/-- Start of an Ethernet operation; over a disabled port nothing is delivered (0x382, R358, R492). -/
def startNet (s : State) (cl slot : Nat) (t : TokEntry) : State :=
  match netSide t with
  | none => s
  | some (d, r) =>
    match netChecks s cl t d r with
    | some c => failNet s cl slot t c
    | none =>
      if portOff s (epOf (opH t.op 0)) then failNet s cl slot t (0x382, 0) else
      if isRecv t.op.instr then postRecv s cl slot t else widenOp (activate s cl t.op.member slot 1) cl slot 3

/-- Whether a packet that reaches an endpoint is taken: its port is enabled, and it passes the authentication of the security sublayer, which
is free; one that fails is discarded and counted, and its sender sends it again (R492). -/
def packetTaken (s : State) (ep : Nat) : Bool × State :=
  if portOff s ep then (false, s)
  else
    let (b, s) := takeBit s
    if b then (false, { s with endpoints := tabMod {} ep (fun e => { e with lost := e.lost + 1 }) s.endpoints }) else (true, s)

/-- MESSAGE_ARRIVAL (R357): a message reaches endpoint `ep` of the partition that owns cluster `cl`; `peer` holds the sender's peer
index and, above 10 bits, the mode. The oldest posted receive that takes it gets it; else it waits. -/
def messageArrival (s : State) (cl ep peer : Nat) (tag : Word) (bytes : List Byte) : State :=
  match clusterPart s cl with
  | none => s
  | some part =>
    let key := epKey part ep
    let (taken, s) := packetTaken s key
    if !taken then s else
    let e := tabGet {} key s.endpoints
    let takes (p : Nat × Nat) : Bool :=
      match getTok s p.1 p.2 with
      | some t => t.state = .queued && t.started && epOf (opH t.op 0) = key && recvTakes t (peer % 1024) (peer / 1024) tag
      | none => false
    match e.posted.find? takes with
    | none => { s with endpoints := tabPut key { e with waiting := e.waiting ++ [(peer, tag, bytes)] } s.endpoints }
    | some p =>
      let s := { s with endpoints := tabPut key { e with posted := e.posted.erase p } s.endpoints }
      match getTok s p.1 p.2 with
      | some t => fillRecv s p.1 p.2 t bytes
      | none => s

/-- The active Ethernet operation of an engine. -/
def activeNet (s : State) (cl eng : Nat) : Option (Nat × TokEntry) :=
  match activeOp s cl eng with
  | some (slot, t) => if (netSide t).isSome then some (slot, t) else none
  | none => none

/-- MESSAGE_ACKNOWLEDGED (R357, R358): the peer has placed the message, or answers a read with `bytes`; `ok` is false on a refusal. The one
step of the operation is then done, also where a stop has been asked for (R404, R499). -/
def messageAck (s : State) (cl eng : Nat) (ok : Bool) (bytes : List Byte) : State :=
  if !enginesRun s cl then s
  else match activeNet s cl eng with
    | none => s
    | some (slot, t) =>
      match netSide t with
      | none => s
      | some (d, _) =>
        let fin (s : State) (n : Nat) : State :=
          endStep (modTok (countBytes s t.bundle (netTag t.op.instr) n) cl slot (fun t => { t with done := 1 })) cl slot
        if !ok then opFault s cl slot 0x384 0
        else if netWrites t.op.instr then
          match placePieces cl (streamWrites d 0 ((bytes ++ List.replicate (lyBytes d.y) 0).take (lyBytes d.y))) s with
          | .ok s => fin s (lyBytes d.y)
          | .error (e, l) => opFault (postBad s e l) cl slot e 0
        else match readStream s cl slot t d 0 (lyBytes d.y) with
          | .hold s => t.stop.elim s (fun c => abandonHeld s cl slot c)
          | .fail s c loc => opFault s cl slot c loc
          | .ok bs s => fin s bs.length

/-- ETHERNET_RETRY_EXHAUSTED (R354, R358, R492): an Ethernet operation, or a collective whose paths cross Ethernet, ends with 0x382. -/
def retryExhausted (s : State) (cl eng : Nat) : State :=
  match activeNet s cl eng with
  | some (slot, _) => opFault s cl slot 0x382 0
  | none =>
    match activeOp s cl eng with
    | none => s
    | some (slot, t) =>
      let coll : Bool := (collForm t.op.instr).isSome || (match t.op.instr with
        | .cbar _ => true
        | _ => false)
      let comm := commOf t.op.instr
      if coll && (commRec s t.bundle comm).eth then collFault s cl slot (collKey t.bundle comm (collNo s cl t.bundle comm - 1)) 0x382 0 else s

/-- The bytes that an incoming access to a registered region reaches, if it passes R429, the region's remote rights and its bounds
(R358, R435). -/
def regionTarget (s : State) (ep region off len : Nat) (wr : Bool) : Option (List Loc) :=
  let e := tabGet {} ep s.endpoints
  match tabFind region e.regions with
  | none => none
  | some (h, rights) =>
    let hr : HReg := ⟨h, 0⟩
    let space := spaceOf (ep / 256) e.tenant
    let need := if wr then rightW else rightR
    if handleCheck s space hr need != 0 || !rights.getLsbD (if wr then 1 else 0) || hExtent h < off + len then none
    else if hKind h = 1 then
      let cl := hSlot h - 0x10
      let pw := (getCluster s cl).poolpw
      let a := (hBase h).toNat + off
      if a + len ≤ scratchLen pw then some ((List.range len).map (fun i => Loc.pool cl (scratchBase pw + a + i))) else none
    else
      let fn := ((s.fns.find? (fun f => f.2.tenant = e.tenant && f.2.part = ep / 256)).map (·.1)).getD 0
      (List.range len).mapM (fun i =>
        match translate s space fn (Vector.replicate 12 none) (if wr then needStore else needLoad) ((hBase h).toNat + off + i) with
        | .ok t => some (.mem t.pa)
        | .error _ => none)

/-- Runs of bytes that follow one another. -/
def locRuns : List Loc → List (Loc × Nat)
  | [] => []
  | l :: rest => match locRuns rest with
    | (m, n) :: t => if m = l.add 1 then (l, n + 1) :: t else (l, 1) :: (m, n) :: t
    | [] => [(l, 1)]

/-- REMOTE_REGION_ACCESS (R358): a peer's NWRITE is applied, or refused with no effect; a read changes nothing. One that would write part of
a line which fails its checks is not performed (R438, R477). -/
def regionAccess (s : State) (ep region off : Nat) (wr : Bool) (bytes : List Byte) (len : Nat) : State :=
  let (taken, s) := packetTaken s ep
  if !taken || !wr then s
  else match regionTarget s ep region off (min len bytes.length) true with
    | none => s
    | some locs =>
      let runs := locRuns locs
      if locs.any (poolHeld s) then s
      else match runs.findSome? (fun r => (writeBad s r.1 r.2).map (fun e => (e, r.1))) with
        | some (e, l) => postBad s e l
        | none => writeRuns s runs bytes

/-- MULTICAST_REWRITE (R301): a new version, or a rewrite that waits for a version to drain. -/
def multicastRewrite (s : State) (grp : Nat) (members : List Nat) : State :=
  { s with groups := tabPut grp ((tabGet {} grp s.groups).rewrite members) s.groups }

/-! ### COPY_START (R331) -/

/-- Whether a CHUNB may start: every copy that its continuation bound to the channel before it is terminal, in whichever queue (R344). -/
def unbindMay (c : Cluster) (t : TokEntry) : Bool :=
  match t.op.instr with
  | .chunb f => !c.toks.any (fun e => e.2.op.cid = t.op.cid && e.2.op.member = t.op.member && e.2.op.seq < t.op.seq &&
      channelOf e.2.op.instr = some f.c.toNat && !e.2.state.terminal)
  | _ => true

/-- Whether a head of a copy engine may start: its engine is free and no earlier operation of its continuation in that queue is still
open (R386, R400); receives may be posted behind receives (R357). -/
def copyMay (s : State) (cl eng : Nat) (t : TokEntry) : Bool :=
  (tabFind eng (getCluster s cl).active).isNone &&
    !(getCluster s cl).toks.any (fun e => e.2.op.cid = t.op.cid && e.2.op.member = eng && e.2.started && !e.2.state.terminal &&
      !(isRecv e.2.op.instr && isRecv t.op.instr)) && unbindMay (getCluster s cl) t

/-- COPY_START: an engine dequeues an operation and runs its start checks (R64, R293, R331, R386). -/
def copyStart (s : State) (cl eng : Nat) : State :=
  if !enginesRun s cl || 2 ≤ eng then s
  else match pickHead s cl eng (fun _ t => copyMay s cl eng t) with
    | none => s
    | some (core, slot, t) =>
      let s := serveHead s cl eng core slot t
      match t.op.instr with
      | .chbind f => startBind s cl slot t f
      | .chrd f => startChrd s cl slot t f
      | .chunb f => startUnbind s cl slot t f
      | .pkset f => activate s cl 0 slot (f.cnt.toNat + 1)
      | .xamo f => startXamo s cl slot t f
      | .car _ | .cag _ | .crs _ | .ca2a _ | .cbc _ | .cbar _ => startColl s cl slot t
      | .nsend _ | .nrecv _ | .nwrite _ | .nread _ => startNet s cl slot t
      | i =>
        match copyView t.op with
        | none => failStart s cl slot (0x001, 0)
        | some v => if isCopyOp i then startCopy s cl slot t v else startTransfer s cl slot t v

/-! ### Instructions and events -/

/-- XST (R347). -/
def execXst (f : XstF) (s : State) : Out := .next (issueLS (.xst f) 1 f.k f.pri f.dt [f.hd, f.hs] [f.yd, f.ys] s)

/-- XLD (R347). -/
def execXld (f : XldF) (s : State) : Out := .next (issueLS (.xld f) 0 f.k f.pri f.dt [f.hd, f.hs] [f.yd, f.ys] s)

/-- XAMO (R349). -/
def execXamo (f : XAmoF) (s : State) : Out := .next (issueLS (.xamo f) 1 f.k f.pri f.dt [f.h] [] s)

/-- CAR (R351). -/
def execCar (f : CollF) (s : State) : Out := .next (issueLS (.car f) 1 f.k f.pri f.dt [f.hd, f.hs] [f.yd, f.ys] s)

/-- CAG (R351). -/
def execCag (f : CollF) (s : State) : Out := .next (issueLS (.cag f) 1 f.k f.pri f.dt [f.hd, f.hs] [f.yd, f.ys] s)

/-- CRS (R351). -/
def execCrs (f : CollF) (s : State) : Out := .next (issueLS (.crs f) 1 f.k f.pri f.dt [f.hd, f.hs] [f.yd, f.ys] s)

/-- CA2A (R351). -/
def execCa2a (f : CollF) (s : State) : Out := .next (issueLS (.ca2a f) 1 f.k f.pri f.dt [f.hd, f.hs] [f.yd, f.ys] s)

/-- CBC (R351). -/
def execCbc (f : CollF) (s : State) : Out := .next (issueLS (.cbc f) 1 f.k f.pri f.dt [f.hd, f.hs] [f.yd, f.ys] s)

/-- CBAR (R355). -/
def execCbar (f : CBarF) (s : State) : Out := .next (issueLS (.cbar f) 1 f.k f.pri f.dt [] [] s)

/-- NSEND (R356). -/
def execNsend (f : NSendF) (s : State) : Out := .next (issueLS (.nsend f) 1 f.k f.pri f.dt [f.he, f.hs] [f.ys] s)

/-- NRECV (R356). -/
def execNrecv (f : NRecvF) (s : State) : Out := .next (issueLS (.nrecv f) 0 f.k f.pri f.dt [f.he, f.hd] [f.yd] s)

/-- NWRITE (R356). -/
def execNwrite (f : NRwF) (s : State) : Out := .next (issueLS (.nwrite f) 1 f.k f.pri f.dt [f.he, f.hl] [f.yl] s)

/-- NREAD (R356). -/
def execNread (f : NRwF) (s : State) : Out := .next (issueLS (.nread f) 0 f.k f.pri f.dt [f.he, f.hl] [f.yl] s)

/-- COPY_START (R331). -/
def execEvCopyStart (cl : Nat) (eng : Nat) (s : State) : Out := .next (copyStart s cl eng)

/-- REMOTE_TRANSFER_STEP (R348). -/
def execEvRemoteTransferStep (cl : Nat) (eng : Nat) (ok : Bool) (s : State) : Out := .next (remoteStep s cl eng ok)

/-- COLLECTIVE_STEP (R353). -/
def execEvCollectiveStep (cl : Nat) (peers : PeerData) (s : State) : Out := .next (collStep s cl peers)

/-- CBAR_COMPLETE (R355). -/
def execEvCbarComplete (cl : Nat) (ok : Bool) (s : State) : Out := .next (cbarComplete s cl ok)

/-- MESSAGE_ARRIVAL (R357). -/
def execEvMessageArrival (cl : Nat) (ep : Nat) (peer : Nat) (tag : BitVec 64) (bytes : Bytes) (s : State) : Out :=
  .next (messageArrival s cl ep peer tag bytes)

/-- REMOTE_REGION_ACCESS (R358). -/
def execEvRemoteRegionAccess (ep : Nat) (region : Nat) (off : Nat) (wr : Bool) (bytes : Bytes) (len : Nat) (s : State) : Out :=
  .next (regionAccess s ep region off wr bytes len)

/-- ETHERNET_RETRY_EXHAUSTED (R358). -/
def execEvEthernetRetryExhausted (cl : Nat) (eng : Nat) (s : State) : Out := .next (retryExhausted s cl eng)

/-- MESSAGE_ACKNOWLEDGED (R357, R358). -/
def execEvMessageAcknowledged (cl : Nat) (eng : Nat) (ok : Bool) (bytes : Bytes) (s : State) : Out :=
  .next (messageAck s cl eng ok bytes)

/-- MULTICAST_REWRITE (R301). -/
def execEvMulticastRewrite (grp : Nat) (members : NatList) (s : State) : Out := .next (multicastRewrite s grp members)

end Sys2Proof.Machine
end

