-- ==== Sys2Proof/Machine/Token.lean ====
section
/-!
DEFINITION. The token instructions (R399–R409): OPWAIT, OPTEST, OPCANCEL, OPDETACH, OPADOPT, OPPRI, OPFAULT and OPREL.
-/

namespace Sys2Proof.Machine

/-- The token that k register `k` of the current context holds. -/
def kTok (s : State) (k : BitVec 4) : Tok := vecGet s.x.k k.toNat 0

/-- The entry that a token names for the current continuation: none when it is stale (R399, R402). -/
def myTok (s : State) (t : Tok) : Option (Nat × TokEntry) := findTok s s.cl t s.x.cont.bundle

/-- A scalar result, and what the instruction does when it is written. -/
def putThen (s : State) (d : BitVec 6) (w : Word) (k : State → State) : Done :=
  match writeDst s.x d w with
  | .ok x => .ok (k { s with x := x }) flagNone
  | .error q => .hold s q

/-- The join of a status that reports a terminal state: an acquire at the operation's scope (R295, R403). -/
def joinTok (s : State) (e : Option (Nat × TokEntry)) : State :=
  match e with
  | some (_, t) => if t.state.terminal then acquire s s.xid t.scope else s
  | none => s

/-- The status word of a token's entry (R402). -/
def statusOf (e : Option (Nat × TokEntry)) : Word := statusWord (e.map (·.2))

/-- Whether an OPWAIT on this entry ends: it is terminal or stale (R403). -/
def waitOver (e : Option (Nat × TokEntry)) : Bool :=
  match e with
  | some (_, t) => t.state.terminal
  | none => true

/-- Issue of a token instruction on the access side: it waits while an earlier matrix operation still owes k register `k`. -/
def tokenOp (i : Instr) (k : BitVec 4) (body : List (Option Src) → State → Done) (s : State) : State :=
  issue i .P (fun caps s => if streamOwesK s.x k then .hold s false else body caps s) s

/-- The access-side instruction in progress, marked as one that has suspended. -/
def suspendedCur (s : State) : Option Entry := s.x.cur.map (fun e => { e with cont := true, prog := 1 })

/-- The token that OPWAIT waits on: after a suspension, the value that the cluster kept (R403). -/
def waitTok (s : State) (k : BitVec 4) : Tok :=
  if (s.x.cur.map Entry.cont).getD false then s.x.cont.wtok.getD (kTok s k) else kTok s k

/-- The effect of OPWAIT (R403). -/
def opWaitBody (f : OpWaitF) (s : State) : Done :=
  let tok := waitTok s f.k
  let e := myTok s tok
  if f.sus && !streamsDone s.x then .hold s false
  else if waitOver e then
    putThen s f.d (statusOf e) (fun s => modX (joinTok s e) (fun x => { x with cont := { x.cont with wtok := none } }))
  else
    let s := if f.sus then leaving s else s
    if f.sus && mayLeave s then
      .left (stepHalt (suspend s { carry s.x ((s.x.cur.map Entry.pc).getD s.x.pc) with cur := suspendedCur s, wtok := some tok } false))
    else .hold s false

/-- OPWAIT (R403). -/
def execOpwait (f : OpWaitF) (s : State) : Out :=
  .next (issueChecked (.opwait f) (fun s => if f.sus then suspendCheck s else none) .P (fun _ s =>
    if streamOwesK s.x f.k then .hold s false else opWaitBody f s) s)

/-- OPTEST (R403). -/
def execOptest (f : OpDF) (s : State) : Out :=
  .next (tokenOp (.optest f) f.k (fun _ s =>
    let e := myTok s (kTok s f.k)
    putThen s f.d (statusOf e) (fun s => joinTok s e)) s)

/-- OPCANCEL (R404). -/
def execOpcancel (f : OpDF) (s : State) : Out :=
  .next (tokenOp (.opcancel f) f.k (fun _ s =>
    let e := myTok s (kTok s f.k)
    putThen s f.d (statusOf e) (fun s => match e with
      | some (slot, _) => stopOp s s.cl slot 0x310 0
      | none => s)) s)

/-- OPDETACH (R405). -/
def execOpdetach (f : OpDF) (s : State) : Out :=
  .next (tokenOp (.opdetach f) f.k (fun _ s =>
    let tok := kTok s f.k
    match myTok s tok with
    | none => .trap s 0x081 0 0
    | some (slot, t) =>
      if t.owner.isSome && t.owner != some s.x.cont.cid then .trap s 0x083 0 0
      else putThen s f.d (tok.setWidth 64) (fun s => modTok s s.cl slot (fun t => { t with owner := none }))) s)

/-- The checks of OPADOPT in their order (R406): a cause, or the slot. -/
def adoptCheck (s : State) (t : Tok) : Except Cause Nat :=
  match getTok s s.cl (tokSlot t) with
  | none => .error 0x081
  | some e =>
    if e.bundle ≠ s.x.cont.bundle then .error 0x082
    else if (getCluster s s.cl).gen (tokSlot t) ≠ tokGen t then .error 0x081
    else if e.owner.isSome && e.owner != some s.x.cont.cid then .error 0x083
    else .ok (tokSlot t)

/-- An entry adopted by continuation `cid`: one without an owner becomes attached, with its released bit cleared (R406). -/
def adoptEntry (cid : Nat) (t : TokEntry) : TokEntry :=
  if t.owner.isNone then { t with owner := some cid, released := false } else t

/-- OPADOPT (R406). -/
def execOpadopt (f : OpAdoptF) (s : State) : Out :=
  .next (tokenOp (.opadopt f) f.k (fun caps s =>
    let tok : Tok := (srcS caps 0).setWidth 16
    match adoptCheck s tok with
    | .error c => .trap s c 0 0
    | .ok slot => .ok (modX (modTok s s.cl slot (adoptEntry s.x.cont.cid)) (fun x => { x with k := vecSet x.k f.k.toNat tok })) flagNone) s)

/-- Whether the current continuation may act on an entry of its job: it owns it, or a node holds it (R407, R408). -/
def mayAct (s : State) (t : TokEntry) : Bool := t.owner.isNone || t.owner = some s.x.cont.cid

/-- OPPRI (R407). -/
def execOppri (f : OpPriF) (s : State) : Out :=
  .next (tokenOp (.oppri f) f.k (fun _ s =>
    match myTok s (kTok s f.k) with
    | none => .ok s flagNone
    | some (slot, t) =>
      if t.state.terminal then .ok s flagNone
      else if mayAct s t then .ok (modTok s s.cl slot (fun t => { t with pri := f.pri })) flagNone
      else .trap s 0x083 0 0) s)

/-- OPREL (R408). -/
def execOprel (f : OpKF) (s : State) : Out :=
  .next (tokenOp (.oprel f) f.k (fun _ s =>
    match myTok s (kTok s f.k) with
    | none => .ok s flagNone
    | some (slot, t) => if mayAct s t then .ok (releaseTok s s.cl slot) flagNone else .trap s 0x083 0 0) s)

/-- The steps of an operation, from what its issue captured (R396). -/
def opSteps (t : TokEntry) : Nat :=
  match mmaForm t.op.instr, collForm t.op.instr, copyView t.op with
  | some _, _, _ => tilesOfDim (shM (opG t.op 2)) * tilesOfDim (shN (opG t.op 2)) * shK (opG t.op 2)
  | _, some (_, f), _ => (lyBytes (collSides t f).1.y + 65535) / 65536
  | _, _, some v => copySteps v
  | _, _, _ =>
    match t.op.instr with
    | .mzero _ | .mdrain _ | .mldacc _ => (tilesOf t.op).2
    | .pkset f => f.cnt.toNat + 1
    | .xamo _ | .cbar _ | .nsend _ | .nrecv _ | .nwrite _ | .nread _ => 1
    | _ => 0

/-- The three words of OPFAULT (R396, R409). -/
def faultWords (e : Option TokEntry) : Word × Word × Word :=
  match e with
  | none => (0, 0, 0)
  | some t => (t.fr.loc, t.fr.detail ++ t.fr.cause ++ t.fr.step, BitVec.ofNat 32 t.done ++ BitVec.ofNat 32 (if t.total = 0 then opSteps t else t.total))

/-- OPFAULT (R409): it waits for earlier producers of its three registers. -/
def execOpfault (f : OpDF) (s : State) : Out :=
  .next (tokenOp (.opfault f) f.k (fun _ s =>
    let d := f.d.toNat
    if s.x.gfull d && s.x.gfull (d + 1) && s.x.gfull (d + 2) then
      let (a, b, c) := faultWords ((myTok s (kTok s f.k)).map (·.2))
      .ok (modX s (fun x => ((x.setG d a).setG (d + 1) b).setG (d + 2) c)) flagNone
    else .hold s false) s)

end Sys2Proof.Machine
end

