-- ==== Sys2Proof/Machine/Task.lean ====
section
/-!
DEFINITION. The task instructions (R410–R418) and BAR (R419).
-/

namespace Sys2Proof.Machine

/-- A release at device scope before an effect: every earlier access of the context has been performed (R271, R413). -/
def releaseDevice (s : State) (k : State → Done) : Done :=
  match fenceBody s 1 none with
  | .ok s _ => k s
  | d => d

/-- Whether a continuation may end or leave: its streams are done, its shoal-log entries drained, its FINCs answered (R411). -/
def mayEnd (s : State) : Bool := streamsDone s.x && mayLeave s

/-- KDONE (R411). -/
def execKdone (f : R0) (s : State) : Out :=
  .next (issue (.kdone f) .P (fun _ s =>
    let s := leaving s
    if mayEnd s then .left (stepHalt (endContinuation s)) else .hold s false) s)

/-- Continuations bound to the region of the current one (R412). -/
def regionUsers (s : State) : Nat :=
  ((liveConts s).filter (fun k => k.bound && k.cluster = s.cl && k.poolbase = s.x.cont.poolbase && k.bundle = s.x.cont.bundle)).length

/-- Scratchpad units of a partition word: sp (R248). -/
def poolSp (pw : BitVec 32) : Nat := (pw.extractLsb' 8 8).toNat

/-- Whether KYIELD.free leaves the continuation bound (R412). -/
def staysBound (s : State) : Bool :=
  ownsEntry s s.cl s.x.cont.cid || 1 < gsizeOf s s.x.cont.bundle s.x.cont.node ||
    (0 < poolSp (s.x.poolpw.setWidth 32) && s.x.cont.bound && regionUsers s ≤ 1)

/-- The effect of KYIELD (R412). -/
def yieldBody (free : Bool) (s : State) : Done :=
  let s := leaving s
  if !mayEnd s then .hold s false
  else
    let bound := ownsEntry s s.cl s.x.cont.cid || (s.x.cont.bound && !free) || (free && staysBound s)
    let k := { carry s.x ((curNext s).setWidth 48) with pending := false, bound := bound, cluster := if bound then s.cl else s.x.cont.cluster }
    let s := releaseLease s s.cl s.x.cont.cid none
    .left (stepHalt (leaveContext (placeReady s s.cl k)))

/-- KYIELD (R412). -/
def execKyield (f : KYieldF) (s : State) : Out :=
  .next (issueChecked (.kyield f) suspendCheck .P (fun _ s => yieldBody f.free s) s)

/-- The continuation that KSPAWN creates (R413). -/
def spawnCont (s : State) (f : KSpawnF) (cid : Nat) (wid : Word) : Cont :=
  let k := s.x.cont
  { cid := cid, bundle := k.bundle, node := k.node, pc := (branchTarget s f.imm).setWidth 48, wid := wid, rend := 0, range := false,
    g1 := s.x.gval 1, g2 := s.x.gval 2, g3 := s.x.gval 3, poolbase := k.poolbase, cluster := s.cl, bound := !f.free,
    pri := if f.inh then k.pri else f.pri, spawned := true }

/-- KSPAWN (R413): the copied registers must hold values that no producer still owes. -/
def execKspawn (f : KSpawnF) (s : State) : Out :=
  .next (issue (.kspawn f) .P (fun caps s =>
    if !([1, 2, 3].all s.x.gfull) then .hold s false
    else releaseDevice s (fun s =>
      if storeFull s s.x.cont.bundle then putG s f.d 1 flagNone
      else putThen s f.d 0 (fun t =>
        let (cid, t) := takeId t
        placeReady t t.cl (spawnCont s f cid (srcS caps 0))))) s)

/-- The status of KRANGE (R414). -/
def rangeStatus (lo hi g : Nat) : Word := if lo = hi then 0 else if hi < lo || lo % g ≠ 0 then 2 else 0

/-- KRANGE (R414). -/
def execKrange (f : KRangeF) (s : State) : Out :=
  .next (issue (.krange f) .P (fun caps s =>
    let lo := (srcS caps 0).toNat
    let hi := (srcS caps 1).toNat
    let k := s.x.cont
    let st := rangeStatus lo hi (gsizeOf s k.bundle k.node)
    releaseDevice s (fun s => putThen s f.d st (fun t =>
      if st = 0 && lo < hi then addPiece t k.bundle k.node lo hi ((branchTarget s f.off).setWidth 48) t.cl else t))) s)

/-- The key of group `grp`'s `n`-th claim: no two pairs share one. -/
def claimKey (grp n : Nat) : Nat := (grp + n) * (grp + n + 1) / 2 + n

/-- What KNEXT gives a continuation of range task `p` (R415): the new identifier, if any, and the state after the claim. -/
def nextClaim (s : State) (k : Cont) (p : Piece) (g : Nat) : Option Nat × State :=
  if g = 1 then
    if p.cur < p.hi then (some p.cur, countExecuted (putPiece s { p with cur := p.cur + 1 }) p.bundle 1) else (none, s)
  else
    let key := claimKey k.grp k.knexts
    let i := k.wid.toNat % g
    match tabFind key p.claims with
    | some base => (if base + i < p.hi then some (base + i) else none, s)
    | none =>
      if p.cur < p.hi then
        let next := min (p.cur + g) p.hi
        (if p.cur + i < p.hi then some (p.cur + i) else none,
          countExecuted (putPiece s { p with cur := next, claims := tabPut key p.cur p.claims }) p.bundle (next - p.cur))
      else (none, s)

/-- KNEXT on a continuation of a range task, its destination already written (R415). -/
def nextStep (d : BitVec 6) (s : State) : State :=
  let k := s.x.cont
  match pieceOf s k with
  | none => s
  | some p =>
    let (w, s) := nextClaim s k p (gsizeOf s k.bundle k.node)
    modX s (fun x =>
      let k := { x.cont with knexts := k.knexts + 1, rend := BitVec.ofNat 64 p.hi }
      match w with
      | some n => { x with cont := { k with wid := BitVec.ofNat 64 n } }.setG d.toNat 1
      | none => { x with cont := k })

/-- KNEXT (R415). -/
def execKnext (f : D1) (s : State) : Out :=
  .next (issue (.knext f) .P (fun _ s => putThen s f.d 0 (fun s => if s.x.cont.range then nextStep f.d s else s)) s)

/-- The value that WIDF gives (R416). -/
def widValue (s : State) (n : Nat) : Word :=
  let k := s.x.cont
  match n with
  | 6 => k.wid
  | 7 => BitVec.ofNat 64 (k.wid.toNat % gsizeOf s k.bundle k.node)
  | n => widField (((nodeOf s k.bundle k.node).map Node.widths).getD []) k.wid n

/-- WIDF (R416). -/
def execWidf (f : WidfF) (s : State) : Out :=
  .next (issue (.widf f) .P (fun _ s => putG s f.d (widValue s f.n.toNat) flagNone) s)

/-- DEPDEC (R417). -/
def execDepdec (f : DepDecF) (s : State) : Out :=
  .next (issue (.depdec f) .P (fun _ s => releaseDevice s (fun s =>
    let b := s.x.cont.bundle
    if 2 ^ nodeCount s b ≤ f.mask.toNat then .trap s 0x089 0 0 else .ok (decMask s b f.mask) flagNone)) s)

/-- NEXTOK (R387, R418). -/
def execNextok (f : R0) (s : State) : Out :=
  .next (issue (.nextok f) .P (fun _ s => .ok (modBundle s s.x.cont.bundle (fun v => { v with nextok := true })) flagNone) s)

/-- Whether the predecessor of a job is still resident (R418). -/
def predResident (s : State) (b : Nat) : Bool :=
  match (tabFind b s.bundles).bind Bundle.pred with
  | some p => (tabFind p s.bundles).any (fun v => !v.retired)
  | none => false

/-- PREVWAIT (R418). -/
def execPrevwait (f : R0) (s : State) : Out :=
  .next (issue (.prevwait f) .P (fun _ s =>
    if predResident s s.x.cont.bundle then .hold s false else .ok (acquire s s.xid 1) flagNone) s)

/-- Whether a continuation synchronises alone: its group is one, or KSPAWN started it (R419). -/
def barAlone (k : Cont) : Bool := k.grp = 0 || k.spawned

/-- Whether every member of the group that has not ended has arrived at barrier `n` (R419). -/
def allArrived (s : State) (grp n : Nat) : Bool := (liveConts s).all (fun k => k.grp != grp || n ≤ k.bars)

/-- The effect of BAR for a member of a group: it arrives as a release at cluster scope, waits for the others, and leaves as an
acquire at cluster scope (R419). -/
def barBody (s : State) : Done :=
  let leave (s : State) : Done :=
    if allArrived s s.x.cont.grp s.x.cont.bars then
      .ok (acquire (modX s (fun x => { x with cont := { x.cont with barsOut := x.cont.bars } })) s.xid 0) flagNone
    else .hold s false
  if s.x.cont.barsOut < s.x.cont.bars then leave s
  else match fenceBody s 0 none with
    | .ok s _ => leave (modX s (fun x => { x with cont := { x.cont with bars := x.cont.bars + 1 } }))
    | d => d

/-- BAR (R419). -/
def execBar (f : R0) (s : State) : Out :=
  .next (issue (.bar f) .P (fun _ s => if barAlone s.x.cont then fenceBody s 0 (some 0) else barBody s) s)

end Sys2Proof.Machine
end

