-- ==== Sys2Proof/Machine/Service.lean ====
section
/-!
DEFINITION. What other agents do to the accesses of contexts and engines: results that land (R159), write-throughs that reach their
homes (R263, R438), the drain of shoal logs (R260, R261), fault service (R256–R258), page requests (R257), invalidations (R262), wakes
of suspended waits (R318), and the traps that time or another agent raises (R176, R398, R457).
-/

namespace Sys2Proof.Machine

/-! ### Results and write-throughs -/

/-- LONG_LATENCY_WRITEBACK of result `i` of context `c` (R159); a divider's results come in issue order (R158), and a halted core's contexts
keep their state (R475). A result that lands ends what a side waits for: the cycles of the deadlock trap count anew (R176). -/
def landResult (s : State) (c i : Nat) : State :=
  if (getCtx s c).run && !(getCore s (ctxCore c)).halt && !((getCtx s c).wbs[i]?).any (dividerOwes s c) then
    modCtx s c (fun x =>
      let y := landNth x i
      if y.wbs.length < x.wbs.length then { y with blockA := false, blockE := false, since := s.tick } else y)
  else s

/-- Write-through `i` of context `c` reaches its home, unless an earlier one to the same bytes has not (R263, R280). -/
def homeStore (s : State) (c i : Nat) : State :=
  let x := getCtx s c
  match x.stores[i]? with
  | none => s
  | some st =>
    if poolHeld s st.loc || (x.stores.take i).any (fun e => overlaps e.loc e.bytes.length st.loc st.bytes.length) then s
    else performStore (modCtx s c (fun x => { x with stores := x.stores.eraseIdx i })) c st

/-! ### Shoal logs (R260, R261) -/

/-- Refuses a shoal-log entry of a control core: its context raises the cause at its next boundary (R261). -/
def refuseShoal (s : State) (k : Nat) (e : Shoal) (cause : Cause) : State :=
  let s := modCore s k (fun c => { c with shoal := c.shoal.map (fun d => if d = e then { d with cause := cause, refused := true } else d) })
  addAsync s e.ctx cause (accDetail true false true) e.va

/-- A drained reduction performed at its home; none while it must wait (R260, R288, R314). -/
def drainReduction (s : State) (k : Nat) (e : Shoal) (t : Target) (op n : Nat) : Option State :=
  let c := e.ctx
  let rel := e.order.getLsbD 1
  let gone (s : State) : State := modCore s k (fun core => { core with shoal := core.shoal.erase e })
  if !amoSupported t.loc op then some (refuseShoal s k e 0x109)
  else
    let sc := widen s c t.loc e.scope
    let remote := match t.loc with
      | .mem pa => isRemote s pa
      | .pool _ _ => false
    let s := if rel || storesOverlap (getCtx s c) t.loc n then drainStores s c else s
    if (rel && (!releaseSent s c t.loc sc || (remote && remotePending (getCtx s c)))) || lineBlocks s c t.loc then none
    else match readBad s t.loc n with
      | some b => some (addAsync (postBad (gone s) b t.loc) c b (accDetail true false true) e.va)
      | none =>
        let (_, s) := amoPerform (gone s) c t.loc op n e.v.toNat e.cmp.toNat
        some (if e.order.getLsbD 0 then acquire s c sc else s)

/-- A log entry whose first `n` bytes have been performed: it leaves the log, or keeps the rest (R270). -/
def restEntry (e : Shoal) (n : Nat) : List Shoal :=
  if e.bytes.length ≤ n then []
  else [{ e with va := e.va + BitVec.ofNat 64 n, bytes := e.bytes.drop n, loc := e.loc.map (fun l => l.add n) }]

/-- The log of a core after the first `n` bytes of an entry. -/
def trimShoal (e : Shoal) (n : Nat) : List Shoal → List Shoal
  | [] => []
  | d :: l => if d = e then restEntry e n ++ l else d :: trimShoal e n l

/-- An entry of a control core's log that translates now performs its access, after the earlier stores of its context that overlap it
(R271), one part of 8 bytes at a time (R270); none while it must wait (R260). DEDUCED (entry 216): an error that a logged access meets at its
home comes after the instruction has retired, so the context raises it at its next boundary. -/
def drainEntry (s : State) (k : Nat) (e : Shoal) (t : Target) : Option State :=
  let c := e.ctx
  let s := dropLogged s c e.va.toNat
  match e.red with
  | some (op, dbl) => drainReduction s k e t op.toNat (if dbl then 8 else 4)
  | none =>
    let rel := e.order.getLsbD 1
    if rel && !releaseSent s c t.loc (widen s c t.loc e.scope) then none
    else
      let n := min 8 e.bytes.length
      let s := if rel || storesOverlap (getCtx s c) t.loc n then drainStores s c else s
      let s := modCore s k (fun core => { core with shoal := trimShoal e n core.shoal })
      let st : PStore := ⟨t.loc, e.bytes.take n, e.va, (locKey t.loc).2 % 64 = 0 && 64 ≤ e.bytes.length⟩
      some (if rel then performRelease s c st else performStore s c st)

/-- SHOAL_DRAIN of entry `i` of core `k`: the first entry of its context, when it is not refused, translates, and nothing holds it.
One that does not translate waits for service. -/
def drainCore (s : State) (k i : Nat) : State :=
  match (getCore s k).shoal[i]? with
  | none => s
  | some e =>
    if e.refused || ((getCore s k).shoal.take i).any (fun d => d.ctx = e.ctx) then s
    else match shoalTarget s e with
      | .error (.early _) => s
      | .error (.trans t) =>
        if t.cause = 0x106 && !t.host then refuseShoal s k e 0x106 else addHeld s e.ctx e.va.toNat 1 t
      | .ok t =>
        if poolHeld s t.loc || netBlocks s e.ctx t.loc e.bytes.length || (watermark s e.ctx t.loc e.bytes.length e.red.isSome true).isSome then s
        else (drainEntry s k e t).getD s

/-- SHOAL_DRAIN of entry `i` of a copy engine's log (R260, R261); a step in progress is completed under a freeze or a checkpoint's hold too
(R466, R476). -/
def drainEngine (s : State) (cl eng i : Nat) : State :=
  let log := engLog (getCluster s cl) eng
  match log[i]? with
  | none => s
  | some e =>
    if (log.take i).any (fun d => d.slot = e.slot) then s
    else match getTok s cl e.slot with
      | none => modEngLog s cl eng (fun l => l.eraseIdx i)
      | some t =>
        if !opMoves s cl t then s
        else match homeParts s t (if e.comb.isSome then needBoth else needStore) e.va.toNat e.bytes.length with
        | .error f =>
          if f.cause = 0x106 && !f.host then copyFault s cl e.slot 0x106 e.va else addEngHeld s cl e.slot t e.va.toNat kindLogged f
        | .ok ps =>
          if partsBlock s cl ps then s
          else match writePiece s cl e.slot ps e.comb 0 e.col e.bytes with
          | .error c => copyFault (postBadAt s t.bundle c) cl e.slot c.1 e.va
          | .ok s => modEngLog (dropLogHeld s cl e.slot) cl eng (fun l => l.eraseIdx i)

/-- The unit of a shoal log: control cores by number, then the load and the store engine of each cluster. -/
def coreCount : Nat := 192

/-- SHOAL_DRAIN of entry `i` of unit `u`. -/
def drainUnit (s : State) (u i : Nat) : State :=
  if u < coreCount then drainCore s u i else drainEngine s ((u - coreCount) / 2) ((u - coreCount) % 2) i

/-! ### Fault service (R256–R258) -/

/-- Whether an operation is a collective, which the other participants learn to have failed. -/
def isCollective : Instr → Bool
  | .car _ | .cag _ | .crs _ | .ca2a _ | .cbc _ => true
  | _ => false

/-- Removes a held record. -/
def dropFault (s : State) (f : Fault1) : State := { s with faults := s.faults.erase f }

/-- Marks a held record as answered with a cause: the access that it holds meets the cause at its next attempt. -/
def markFault (s : State) (f : Fault1) (cause : Cause) : State :=
  { s with faults := s.faults.map (fun g => if g = f then { g with refused := some cause } else g) }

/-- The first entry of a context's log on the page of `a` that has not been refused. -/
def firstLogged (s : State) (c a : Nat) : Option Shoal :=
  (ownShoal s c).find? (fun e => pageOf e.va.toNat = pageOf a && !e.refused)

/-- A fault is refused with a cause: a load or fetch of a context, a front-end access or a step that reads meets it; an entry of a
control core's log raises it (R261); an operation with entries in its engine's log ends FAULTED (R261). -/
def refuseFault (s : State) (f : Fault1) (cause : Cause) : State :=
  match f.ctx, f.eng with
  | some c, _ =>
    if f.kind = 1 then
      match firstLogged s c f.va.toNat with
      | some e => refuseShoal (dropFault s f) (ctxCore c) e cause
      | none => dropFault s f
    else markFault s f cause
  | none, some (cl, slot) =>
    match getTok s cl slot with
    | some t => if f.kind = kindLogged && !isCollective t.op.instr then copyFault s cl slot cause f.va else markFault s f cause
    | none => dropFault s f
  | none, none => markFault s f cause

/-- The page-table entries that the memory processor writes: one at a physical address, or (MODEL) above physical memory the root table
of the fault's address space, which it loads into the walkers (R252, R256). -/
def writePtes (s : State) (space : Nat) (ptes : PteWrites) : State :=
  ptes.foldl (fun s p =>
    if 2 ^ 52 ≤ p.1 then { s with roots := tabPut space p.2.toNat s.roots }
    else { s with mem := memWrite s.mem p.1 (leBytes 16 p.2.toNat), badMem := clearBad s.badMem p.1 16 }) s

/-- The bytes that the page of a virtual address has now: the first and the length; none where nothing is mapped (R252, R256). -/
def pageFrame (s : State) (space va : Nat) : Option (Nat × Nat) :=
  match tabFind space s.roots with
  | none => none
  | some root => match walk s.mem va walkLevels root with
    | .error _ => none
    | .ok l =>
      if pteRange l.pte = 2 then (atsFrame s space va).map (fun f => (f * 16384, 16384)) else some (l.pa / 2 ^ l.k * 2 ^ l.k, 2 ^ l.k)

/-- Whether a write that was sent to one of some frames is not applied yet. -/
def inFlight (s : State) (frames : List (Nat × Nat)) : Bool :=
  s.net.any (fun p => !p.applied && match p.kind with
    | .write pa bs => frames.any (fun f => pa < f.1 + f.2 && f.1 < pa + bs.length)
    | .flag _ _ _ => false)

/-- The lines of some frames leave every L1 data cache (R263). -/
def dropLines (s : State) (frames : List (Nat × Nat)) : State :=
  { s with cores := s.cores.map (fun k => (k.1, { k.2 with
      l1 := k.2.l1.filter (fun e => !frames.any (fun f => f.1 ≤ 64 * e.1 && 64 * e.1 < f.1 + f.2)) })) }

/-- The write-throughs of a context to memory reach their homes, or leave for them. -/
def drainMem (s : State) (c : Nat) : State :=
  let mem (st : PStore) : Bool := match st.loc with
    | .mem _ => true
    | .pool _ _ => false
  let sts := (getCtx s c).stores
  (sts.filter mem).foldl (fun s st => performStore s c st) (modCtx s c (fun x => { x with stores := sts.filter (fun st => !mem st) }))

/-- A change of translations of pages whose frames were `frames` (R262, R263): the write-throughs that have retired reach their homes or leave
for them, it waits for every write that is on its way to the frames, then the entries change, and the lines of the frames are dropped; then
`k` follows. -/
def changePtes (s0 : State) (frames : List (Nat × Nat)) (change k : State → State) : State :=
  let s := (ctxNumbers s0).foldl drainMem s0
  if inFlight s frames then s else k (dropLines (change s) frames)

/-- Service of the fault of ticket `n` maps its page: the entries are written, the access is tried again, and the handler ends (R256,
R262). -/
def mapFault (s : State) (f : Fault1) (n : Nat) (ptes : PteWrites) : State :=
  changePtes s ((pageFrame s f.space f.va.toNat).toList) (fun s => writePtes s f.space ptes) (fun s => endHandler (dropFault s f) 1 n)

/-- The access kind of a record as R480 numbers it: a front-end access counts as the load or the store that it is. -/
def accessKind (k : BitVec 8) : Nat :=
  if k = kindLogged then 3 else if k = kindFront then 0 else if k = kindFrontStore then 1 else k.toNat

/-- The payload of a host-assisted page fault (R480). -/
def faultPayload (f : Fault1) : List Byte :=
  let cl := match f.ctx, f.eng with
    | some c, _ => ctxCluster c
    | none, some e => e.1
    | none, none => 0
  leBytes 8 f.va.toNat ++ leBytes 2 f.cause.toNat ++ leBytes 1 (accessKind f.kind) ++ leBytes 1 0 ++ leBytes 2 cl ++
    leBytes 2 (spaceTenant f.space)

/-- Queues the event of a fault that waits for service; its ticket is kept with the fault (R390, R480). -/
def askService (s : State) (f : Fault1) : State :=
  let (n, s) := takeId s
  { s with
    faults := s.faults.map (fun g => if g = f then { g with seq := some n } else g)
    hub := { s.hub with events := s.hub.events ++ [⟨1, f.fn, memProcSource, f.cause, n, faultPayload f, 0, false⟩] } }

/-- Whether the memory processor may serve a held record: a translation fault that is not the host's and has no answer yet. -/
def mayServe (f : Fault1) : Bool := accessKind f.kind ≤ 3 && f.refused.isNone && !f.hostBacked

/-- FAULT_SERVICE of record `i` (R256): its event is queued; the skerry that takes it in hardware mode maps the page or refuses it with
the original cause; in host-assisted mode the event is posted to the host (R390, R391, R480). -/
def serveFault (s : State) (i : Nat) (ans : ServiceAns) : State :=
  match s.faults[i]? with
  | none => s
  | some f =>
    if !mayServe f then s
    else match f.seq with
      | none => askService s f
      | some n =>
        if !handled s 1 n then (if asked s 1 n then s else askService s f)
        else match ans with
          | .map ptes => mapFault s f n ptes
          | .refuse _ => refuseFault (endHandler s 1 n) f f.cause

/-- TRANSLATION_HOLD_TIMEOUT of record `i` (R258, R261, R499). -/
def holdTimeout (s : State) (i : Nat) : State :=
  match s.faults[i]? with
  | none => s
  | some f =>
    if s.tick - f.since < f.grace || f.refused.isSome then s
    else match f.ctx, f.eng with
      | some _, _ => if f.kind = 1 then s else markFault s f 0x110
      | none, some (cl, slot) =>
        match getTok s cl slot with
        | none => dropFault s f
        | some t =>
          if f.kind = kindLogged then
            match t.stop with
            | some c => opEnd (dropLog s cl slot) cl slot .cancelled { cause := c, loc := t.fr.loc }
            | none => s
          else markFault s f 0x110
      | none, none => markFault s f 0x110

/-! ### Page requests (R257) -/

/-- Requests of one group. -/
def groupRoom : Nat := 32

/-- A fault on a host-backed page that waits to be requested. -/
def wantsPage (f : Fault1) : Bool := f.hostBacked && f.prg.isNone && f.refused.isNone && accessKind f.kind ≤ 3

/-- The key of a fault's page. -/
def faultPage (f : Fault1) : Nat := atsKey f.space f.va.toNat

/-- Page requests that the host has not answered. -/
def outRequests (h : Hub) : Nat := (h.prgs.map (fun g => (g.2.map (·.1)).eraseDups.length)).sum

/-- The group in which a page has been requested and not answered yet. -/
def groupOf (h : Hub) (page : Nat) : Option Nat := (h.prgs.find? (fun g => g.2.any (fun p => p.1 = page))).map (·.1)

/-- A fault that waits for a page joins the request that is out for it (R257). -/
def joinGroup (h : Hub) (f : Fault1) : Fault1 := if wantsPage f then { f with prg := groupOf h (faultPage f) } else f

/-- PAGE_REQUEST_GROUP_SEND: after 2 µs, or at 32 requests, within the host's allowance (R257). Faults on one page share a request, also
one that is out already. -/
def sendGroup (s0 : State) : State :=
  let s := { s0 with faults := s0.faults.map (joinGroup s0.hub) }
  let want := s.faults.filter wantsPage
  let pages := (want.map faultPage).eraseDups
  let due := groupRoom ≤ pages.length || want.any (fun f => 2000 ≤ s.tick - f.since)
  let take := pages.take (min groupRoom (Config.priAllowance - outRequests s.hub))
  if !due || take.isEmpty then s
  else
    let h := { s.hub with prgNext := s.hub.prgNext + 1, prgs := s.hub.prgs ++ [(s.hub.prgNext,
      ((want.map (fun f => (faultPage f, f.fn))).filter (fun p => take.contains p.1)).eraseDups)] }
    { s with faults := s.faults.map (joinGroup h), hub := h }

/-- The answer to one fault of a group: after Success it is tried again, any other response refuses it with 0x106 (R257). -/
def answerPage (ok : Bool) (s : State) (f : Fault1) : State := if ok then dropFault s f else refuseFault s f 0x106

/-- PRI_RESPONSE to group `prg`: code 0 Success, 15 Response Failure, any other Invalid Request (R257). After Success the pages of the
group are translated anew; after Response Failure later faults of the functions that the group asked for are refused. -/
def priAnswer (s : State) (prg code : Nat) : State :=
  let fs := s.faults.filter (fun f => f.prg = some prg)
  let pages := tabGet [] prg s.hub.prgs
  let s := { s with hub := { s.hub with prgs := tabDel prg s.hub.prgs } }
  let s := if code = 0 then pages.foldl (fun s p => atsAgain s p.1) s else s
  let fns := pages.map (·.2) ++ fs.map (·.fn)
  let s := if code = 15 then fns.foldl (fun s fn => modFn s fn (fun v => { v with priDead := true })) s else s
  fs.foldl (answerPage (code = 0)) s

/-- The oldest invalidation of the queue (R262): the entries change and the page is translated anew in every address space, after the writes
that used an old translation; then the completion is reported, and it leaves the queue. -/
def serveInval (s : State) : State :=
  match s.hub.invals with
  | [] => s
  | (va, ptes) :: rest =>
    changePtes s (s.roots.filterMap (fun r => pageFrame s r.1 va))
      (fun s => s.roots.foldl (fun s r => atsAgain s (atsKey r.1 va)) (writePtes s s.x.space ptes))
      (fun s => modHub s (fun h => { h with invals := rest }))

/-- Invalidations that the queue holds (R484). -/
def invalRoom : Nat := 32

/-- ATS_INVALIDATION (R262, R484): the host's invalidation enters the queue, which serves the oldest. The host sends none to a full queue, and
none while nothing runs (R488). -/
def invalidate (s : State) (va : Nat) (ptes : PteWrites) : State :=
  if s.hub.boot != .ready || invalRoom ≤ s.hub.invals.length then s
  else serveInval (modHub s (fun h => { h with invals := h.invals ++ [(va, ptes)] }))

/-! ### Wakes, and traps that time raises -/

/-- Whether what a suspended wait of cluster `cl` watches has been written since its last read: the line at its home or the flag entry.
Host memory is polled (R318, R322). -/
def watchHit (s : State) (cl : Nat) : Watch → Bool
  | .none => true
  | .line l seen => (match l with
      | .mem pa => isHost pa
      | .pool _ _ => false) || tabGet 0 (lineMark l) s.marks != seen
  | .entry e seen => tabGet 0 (flagMark cl e) s.marks != seen

/-- WAITA_WAKE of the suspended continuation `cid`: a WAITA or FWAIT is re-evaluated when it resumes, after a write to what it watches
or at its deadline (R318, R322). -/
def wakeWait (s : State) (cid : Nat) : State :=
  match suspCluster s cid with
  | none => s
  | some cl =>
    match (getCluster s cl).susp.find? (fun k => k.cid = cid) with
    | none => s
    | some k =>
      match k.ws with
      | none => s
      | some w =>
        if !(k.cur.any Entry.cont) && (watchHit s cl w.watch || (w.due ≠ 0 && w.due ≤ s.tick)) then wakeCont s cl cid else s

/-- Cycles after which two blocked streams trap (R176). -/
def deadlockLimit : Nat := 4096

/-- DECOUPLING_DEADLOCK of the current context (R176): an execute side that has passed everything waits for a branch outcome. -/
def deadlock (s : State) : State :=
  if s.x.run && s.x.raised.isNone && !coreStopped s && s.x.blockA && (s.x.blockE || s.x.stream.isEmpty) && deadlockLimit ≤ s.tick - s.x.since then
    raise s { cause := 0x00A, detail := 0, faddr := 0, fpc := s.x.pc, async := true, keep := false }
  else s

/-- TRAP_ENTRY of the current context, once nothing holds it back (R457); a halted core enters no handler (R475). -/
def enterRaised (s : State) : State :=
  match s.x.raised with
  | some r => if s.x.run && !coreStopped s && !trapWaits s then trapEntry s r else s
  | none => s

/-! ### Soft errors, and loads performed early (MODEL turns) -/

/-- Marks the line around a location with the cause that a read of it meets. -/
def markBad (s : State) (l : Loc) (c : Cause) : State :=
  let k := (locKey l).2 / 64
  match l with
  | .mem _ => { s with badMem := tabPut k c s.badMem }
  | .pool cl _ => modCluster s cl (fun v => { v with badPool := tabPut k c v.badPool })

/-- An uncorrectable error or a tag that fails (R437, R477): 0x111 in memory, 0x112 in a pool, 0x210 in either. -/
def upsetLine (s : State) (l : Loc) (c : Cause) : State :=
  let may : Bool := match l with
    | .mem _ => c = 0x111
    | .pool _ _ => c = 0x112
  if may || c = 0x210 then markBad s l c else s

/-- The bytes of a line change without a write: their check value, which is that of the old bytes, tells it unless it is the same (R438). -/
def damageLine (s : State) (l : Loc) (bs : List Byte) : State :=
  let l := lineOf l
  let old := readHome s l 64
  let new := (bs ++ old.drop bs.length).take 64
  let fails : Bool := (readBad s l 64).isNone && crc32c new != crc32c old
  let s := match l with
    | .mem pa => { s with mem := memWrite s.mem pa new }
    | .pool cl off => modCluster s cl (fun c => { c with pool := memWrite c.pool off new })
  if fails then markBad s l 0x211 else s

/-- A later load of the current context is performed before earlier accesses (R271): its value is what its home holds now. -/
def loadEarly (s : State) (l : Loc) (n : Nat) : State :=
  if s.x.run && 0 < n && n ≤ 64 && !storesOverlap s.x l n && (ownShoal s s.xid).isEmpty && !netBlocks s s.xid l n && !foreign s s.cl l &&
      (readBad s l n).isNone then
    modX s (fun x => { x with early := (l, readHome s l n) :: x.early.filter (fun e => !overlaps l n e.1 e.2.length) })
  else s

/-! ### The events -/

/-- LONG_LATENCY_WRITEBACK (R159). -/
def execEvLongLatencyWriteback (c i : Nat) (s : State) : Out := .next (landResult s c i)
/-- WRITE_THROUGH_REACHES_HOME (R438). -/
def execEvWriteThroughReachesHome (c i : Nat) (s : State) : Out := .next (homeStore s c i)
/-- SHOAL_DRAIN (R260). -/
def execEvShoalDrain (u i : Nat) (s : State) : Out := .next (drainUnit s u i)
/-- FAULT_SERVICE (R256). -/
def execEvFaultService (i : Nat) (ans : ServiceAns) (s : State) : Out := .next (serveFault s i ans)
/-- TRANSLATION_HOLD_TIMEOUT (R258). -/
def execEvTranslationHoldTimeout (i : Nat) (s : State) : Out := .next (holdTimeout s i)
/-- PAGE_REQUEST_GROUP_SEND (R257). -/
def execEvPageRequestGroupSend (s : State) : Out := .next (sendGroup s)
/-- PRI_RESPONSE (R257). -/
def execEvPriResponse (prg code : Nat) (s : State) : Out := .next (priAnswer s prg code)
/-- ATS_INVALIDATION (R262). -/
def execEvAtsInvalidation (va : Nat) (ptes : PteWrites) (s : State) : Out := .next (invalidate s va ptes)
/-- WAITA_WAKE (R318). -/
def execEvWaitaWake (c : Nat) (s : State) : Out := .next (wakeWait s c)
/-- DECOUPLING_DEADLOCK (R176). -/
def execEvDecouplingDeadlock (c : Nat) (s : State) : Out := .next (onCtx s c deadlock)
/-- TRAP_ENTRY (R457). -/
def execEvTrapEntry (c : Nat) (s : State) : Out := .next (onCtx s c enterRaised)

end Sys2Proof.Machine
end

