-- ==== Sys2Proof/Machine/Network.lean ====
section
/-!
DEFINITION. Packets between dies and modules (R286–R289, R322, R394, R447): their application at the home, their acknowledgement, the
escape of a blocked flit, and packets that arrive from other modules.
-/

namespace Sys2Proof.Machine

/-- Marks packet `i` of the network with `f`. -/
def modPacket (s : State) (i : Nat) (f : Packet → Packet) : State := { s with net := s.net.modify i f }

/-- Whether a write packet touches a 128-byte line that another one touches. -/
def sameLine (a n b m : Nat) : Bool := a / 128 ≤ (b + m - 1) / 128 && b / 128 ≤ (a + n - 1) / 128

/-- Whether a write of the same source die to a common line, sent before, has not been applied (R286). -/
def lineEarlier (s : State) (p : Packet) : Bool :=
  match p.kind with
  | .write a bs => s.net.any (fun q => q.src = p.src && q.dst = p.dst && q.count < p.count && !q.applied && (match q.kind with
      | .write b cs => sameLine a bs.length b cs.length
      | .flag _ _ _ => false))
  | .flag _ _ _ => false

/-- Whether every write that a packet's causal vector names has been applied at its target (R289). -/
def vecMet (s : State) (p : Packet) : Bool :=
  p.vec.all (fun v => s.net.all (fun q => !(q.src = v.1 && q.dst = p.dst && q.count ≤ v.2 && !q.applied) || q = p))

/-- A write packet performed at its home, and in the line of it that the sender's L1 data cache holds (R263, R286, R438). -/
def applyWrite (s : State) (i : Nat) (p : Packet) (pa : Nat) (bs : List Byte) : State :=
  let s := modPacket s i (fun p => { p with applied := true })
  match writeBad s (.mem pa) bs.length with
  | some e => let s := postBad s e (.mem pa)
              if (getCtx s p.ctx).run && (getCtx s p.ctx).cont.cid = p.cid then addAsync s p.ctx e (accDetail true false false) (BitVec.ofNat 64 pa) else s
  | none => patchL1 (writeHome s (.mem pa) bs) (ctxCore p.ctx) (.mem pa) bs

/-- REMOTE_WRITE_APPLY and RELEASE_PACKET_APPLY of packet `i`, relaxed or release-class (R286, R289). -/
def applyPacket (s : State) (i : Nat) (release : Bool) : State :=
  match s.net[i]? with
  | none => s
  | some p =>
    if p.applied || p.release != release || lineEarlier s p || (release && !vecMet s p) || !routeOpen s (ctxCluster p.ctx) p.dst then s
    else match p.kind with
      | .write pa bs => applyWrite s i p pa bs
      | .flag _ _ _ => s

/-- Changes the context that sent a packet, while it still runs the continuation that sent it. -/
def toIssuer (s : State) (p : Packet) (f : Context → Context) : State :=
  let x := getCtx s p.ctx
  if x.run && x.cont.cid = p.cid then putCtx s p.ctx (f x) else s

/-- FINC_ARRIVAL of packet `i` (R322): the target adds the increment when its cluster runs a node of the same job, else it refuses. A
target on another module answers as it will. -/
def fincArrive (s : State) (i : Nat) : State :=
  match s.net[i]? with
  | none => s
  | some p =>
    if p.applied || p.refused || !vecMet s p || !routeOpen s (ctxCluster p.ctx) p.dst then s
    else match p.kind with
      | .write _ _ => s
      | .flag target e inc =>
        let took (s : State) : State :=
          toIssuer (modPacket s i (fun p => { p with applied := true })) p (fun x => { x with fincs := x.fincs - 1 })
        let not (s : State) : State := modPacket s i (fun p => { p with refused := true })
        match moduleDie s (target / 12) with
        | some d =>
          let cl := d * 12 + target % 12
          if runsJob s cl p.bundle then flagPut (took s) cl e (flagGet s cl e + inc) else not s
        | none =>
          let (b, s) := takeBit s
          if b then took s else not s

/-- Removes the entries that an acknowledgement covers from every pending set (R288). -/
def dropPend (s : State) (p : Packet) : State :=
  let cut (x : Context) : Context := { x with pend := x.pend.filter (fun e => !(e.src = p.src && e.dst = p.dst && e.count = p.count)) }
  { s with x := cut s.x, parked := s.parked.map (fun e => (e.1, cut e.2)) }

/-- FINC_REFUSAL of packet `i`: the issuer raises 0x108 at its next boundary (R322). -/
def fincRefuse (s : State) (i : Nat) : State :=
  match s.net[i]? with
  | none => s
  | some p =>
    if !p.refused then s
    else
      let s := dropPend { s with net := s.net.eraseIdx i } p
      toIssuer s p (fun x => { x with fincs := x.fincs - 1, asyncs := x.asyncs ++ [⟨0x108, 0, 0, x.handler⟩] })

/-- REMOTE_WRITE_ACK of packet `i` (R288). -/
def ackPacket (s : State) (i : Nat) : State :=
  match s.net[i]? with
  | none => s
  | some p => if p.applied then dropPend { s with net := s.net.eraseIdx i } p else s

/-- Entries of the ordering buffer of a Sound for one source die (R289). -/
def orderRoom : Nat := 64

/-- Whether packet `i` waits in the ordering buffer of its target: it is of release class, its vector is not met, and the buffer has room
for it (R289). -/
def buffered (s : State) (i : Nat) (p : Packet) : Bool :=
  let waits (q : Packet) : Bool := q.release && !q.applied && !vecMet s q
  waits p && ((s.net.take i).filter (fun q => q.src = p.src && q.dst = p.dst && waits q)).length < orderRoom

/-- ESCAPE_MOVE of packet `i`: blocked for the deadlock-recovery timer, it moves to the escape channel, and the Sound counts the move;
with FEMODE bit 6 it is also posted. A packet in the ordering buffer is not subject to the timer (R289, R394). -/
def escape (s : State) (i : Nat) : State :=
  match s.net[i]? with
  | none => s
  | some p =>
    if p.applied || p.refused || p.escaped || s.tick - p.since < p.limit || buffered s i p then s
    else
      let d := ctxCluster p.ctx / 12
      let s := modDie (modPacket s i (fun p => { p with escaped := true })) d (fun v => { v with moves := v.moves + 1 })
      if s.hub.femode.getLsbD 6 then
        { s with hub := { s.hub with events := s.hub.events ++ [⟨6, 0, soundSource d, 0, d, [], 0, false⟩] } }
      else s

/-- Whether a packet that names a job key may reach its target: the key is registered, in the table of its strait, and belongs to the
partition of the target cluster or granule (R447). -/
def keyOk (s : State) (strait key : Nat) (part : Option Nat) : Bool :=
  (tabGet {} strait s.straits).keys.contains key && (tabFind key s.jobKeys).any (fun p => part = some p)

/-- FABRIC_PACKET_ARRIVAL: a packet of another module for cluster `cluster` (below 48) or for device memory at `pa`, where it writes
`bytes`. One whose key fails is dropped, counted and posted (R447). Only an open strait carries packets (R490). -/
def arrive (s : State) (strait key cluster pa : Nat) (bytes : Bytes) : State :=
  let v := tabGet {} strait s.straits
  if v.state != .opened then s
  else
    let part := if cluster < 48 then clusterPart s cluster else some (granulePart s pa)
    if keyOk s strait key part then
      if cluster < 48 || bytes = [] || (writeBad s (.mem pa) bytes.length).isSome || isHost pa then s else writeHome s (.mem pa) bytes
    else
      let s := { s with straits := tabPut strait { v with drops := (v.drops + 1) % 2 ^ 48 } s.straits }
      postEvent s 0x380 strait 0 (soundSource (strait / 16)) (leBytes 4 key)

/-- FINC_ARRIVAL (R322). -/
def execEvFincArrival (i : Nat) (s : State) : Out := .next (fincArrive s i)
/-- FINC_REFUSAL (R322). -/
def execEvFincRefusal (i : Nat) (s : State) : Out := .next (fincRefuse s i)
/-- REMOTE_WRITE_APPLY (R286). -/
def execEvRemoteWriteApply (i : Nat) (s : State) : Out := .next (applyPacket s i false)
/-- RELEASE_PACKET_APPLY (R289). -/
def execEvReleasePacketApply (i : Nat) (s : State) : Out := .next (applyPacket s i true)
/-- REMOTE_WRITE_ACK (R288). -/
def execEvRemoteWriteAck (i : Nat) (s : State) : Out := .next (ackPacket s i)
/-- ESCAPE_MOVE (R394). -/
def execEvEscapeMove (i : Nat) (s : State) : Out := .next (escape s i)
/-- FABRIC_PACKET_ARRIVAL (R447). -/
def execEvFabricPacketArrival (strait key cluster pa : Nat) (bytes : Bytes) (s : State) : Out := .next (arrive s strait key cluster pa bytes)

end Sys2Proof.Machine
end

