-- ==== Sys2Proof/Machine/FrontAcc.lean ====
section
/-!
DEFINITION. Accesses that the front end makes in a tenant's address space (R427, R498): translated and checked by R255, held for
service, and performed at their homes.
-/

namespace Sys2Proof.Machine

/-- Who makes a front-end access (MODEL): a queue's parsing, or the start of a continuation or list entry, by its number. -/
structure FeWho where
  start : Bool
  tag   : Nat
  fn    : Nat
  space : Nat
  deriving DecidableEq, Repr

/-- The mark of a front-end record (MODEL). -/
def FeWho.mark (w : FeWho) : Nat := w.tag * 2 + (if w.start then 1 else 0)

/-- How a front-end access ends its attempt. -/
inductive FAcc (α : Type) where
  | ok (v : α) (s : State)
  | hold (s : State)
  | fail (s : State) (c : Cause)

/-- What follows an access. -/
def FAcc.bind {α β : Type} (a : FAcc α) (k : α → State → FAcc β) : FAcc β :=
  match a with
  | .ok v s => k v s
  | .hold s => .hold s
  | .fail s c => .fail s c

/-- Whether a record belongs to a front-end access. -/
def feRecord (w : FeWho) (f : Fault1) : Bool := f.ctx.isNone && f.eng.isNone && f.chan = some w.mark

/-- Drops every record of a front-end agent. -/
def dropFe (s : State) (w : FeWho) : State :=
  if s.faults = [] then s else { s with faults := s.faults.filter (fun f => !feRecord w f) }

/-- A translation for the front end: one that fails is held for service, and a refused one fails with its cause (R498). DESIGN CHOICE (log
entry 186): no context makes the access, and its pattern table is empty (R128). -/
def feTranslate (s : State) (w : FeWho) (need : Need) (va : Nat) : FAcc Trans :=
  if 2 ^ 57 ≤ va then .fail s 0x100
  else match translate s w.space w.fn (Vector.replicate 12 none) need va with
    | .ok tr => .ok tr s
    | .error f =>
      match s.faults.find? (fun r => feRecord w r && pageOf r.va.toNat = pageOf va) with
      | some r => match r.refused with
        | some e => .fail s e
        | none => .hold s
      | none =>
        if f.cause = 0x106 && !f.host then .fail s 0x106
        else .hold { s with faults := s.faults ++ [{ ctx := none, eng := none, va := BitVec.ofNat 64 va, kind := if need.w then kindFrontStore else kindFront, cause := f.cause,
                                                     since := s.tick, refused := none, hostBacked := f.host, prg := none, seq := none,
                                                     chan := some w.mark, grace := 1000 * s.hub.mpctl, fn := w.fn, space := w.space }] }

/-- Reads runs of bytes within pages, in order. -/
def feReadRuns (w : FeWho) : List (Nat × Nat) → List (List Byte) → State → FAcc (List Byte)
  | [], acc, s => .ok acc.reverse.flatten s
  | (a, n) :: rest, acc, s =>
    match feTranslate s w needLoad a with
    | .hold s => .hold s
    | .fail s c => .fail s c
    | .ok tr s =>
      match readBad s (.mem tr.pa) n with
      | some e => .fail (postBad s e (.mem tr.pa)) e
      | none => feReadRuns w rest (readHome s (.mem tr.pa) n :: acc) s

/-- Reads `n` bytes at a virtual address. -/
def feRead (s : State) (w : FeWho) (va n : Nat) : FAcc (List Byte) := feReadRuns w (pageRuns va n) [] s

/-- Where runs of bytes are written, once every one of them may be. -/
def feTargets (w : FeWho) (need : Need) : List (Nat × Nat) → List (Nat × Nat) → State → FAcc (List (Nat × Nat))
  | [], acc, s => .ok acc.reverse s
  | (a, n) :: rest, acc, s =>
    match feTranslate s w need a with
    | .hold s => .hold s
    | .fail s c => .fail s c
    | .ok tr s =>
      match writeBad s (.mem tr.pa) n with
      | some e => .fail (postBad s e (.mem tr.pa)) e
      | none => feTargets w need rest ((tr.pa, n) :: acc) s

/-- Writes bytes to physical runs. -/
def feWriteRuns (s : State) : List (Nat × Nat) → List Byte → State
  | [], _ => s
  | (pa, n) :: rest, bs => feWriteRuns (writeHome s (.mem pa) (bs.take n)) rest (bs.drop n)

/-- Writes bytes at a virtual address: all of them, or none. -/
def feWrite (s : State) (w : FeWho) (va : Nat) (bs : List Byte) : FAcc Unit :=
  (feTargets w needStore (pageRuns va bs.length) [] s).bind (fun l s => .ok () (feWriteRuns s l bs))

end Sys2Proof.Machine
end

