-- ==== Sys2Proof/Machine/Hub.lean ====
section
/-!
DEFINITION. The hub's events (R302, R390, R391, R486): the skerries that take them, their records in the event ring, and requests that
the host answers.
-/

namespace Sys2Proof.Machine

/-! ### Host-assisted functions (R391) -/

/-- Whether a front-end function may act now: its event is queued first; it acts in the handler of the skerry that has taken the event in
hardware mode, or, in host-assisted mode, once the host has answered the request (R390, R391). -/
def assist (s : State) (bit fn lock key : Nat) : Bool × State :=
  if s.hub.answers.contains (bit, key) then (true, modHub s (fun h => { h with answers := h.answers.erase (bit, key) }))
  else if handled s bit key then (true, endHandler s bit key)
  else if asked s bit key then (false, s)
  else
    let (bs, s) := freeBytes 56 s
    (false, modHub s (fun h => { h with events := h.events ++ [⟨bit, fn, lock, 0, key, bs, 0, false⟩] }))

/-- A function whose turn has shown that it must wait: its handler ends, to run again for a new event; the host's answer is kept. -/
def unassist (s : State) (bit key : Nat) : State := if s.hub.answers.contains (bit, key) then s else endHandler s bit key

/-- A front-end function that acts when it may. -/
def assisted (s : State) (bit fn lock key : Nat) (k : State → State) : State :=
  let r := assist s bit fn lock key
  if r.1 then k r.2 else r.2

/-! ### Skerries (R390) -/

/-- The number of skerries. -/
def skerryCount : Nat := 16

/-- Whether a skerry holds an ordering lock. -/
def lockHeld (s : State) (lock : Nat) : Bool := s.hub.skerries.any (fun e => e.2.1.lock = lock)

/-- The mark of a record that only reports an event (R486). -/
def reportBit : Nat := 0xFFFF

/-- Whether an event is posted to the event ring: a report, or a request taken in host-assisted mode (R391, R486). -/
def HubEvent.posts (e : HubEvent) : Bool := e.bit = reportBit || e.host

/-- Records that the event ring holds (R486). -/
def ringEntries (h : Hub) : Nat := 2 ^ (6 + h.evrcfg.toNat % 16)

/-- Whether the event ring takes a record: it is enabled and not full (R486). -/
def ringTakes (h : Hub) : Bool := h.evrcfg.getLsbD 8 && (h.evrwidx - h.evrridx).toNat != ringEntries h

/-- Whether a virtual function is under reset (R478, R479). -/
def underReset (s : State) (fn : Nat) : Bool := (getFn s fn).reset != 0 && (getFn s fn).reset != 7

/-- Whether the device writes nothing on behalf of a function: it is under reset, or in the TDISP state ERROR (R448, R479). -/
def muted (s : State) (fn : Nat) : Bool := underReset s fn || (fn != 0 && (getFn s fn).tdisp = .error)

/-- A write of a function at the host port, which takes none before READY (R485), nor of a function that is reset. -/
def portTakes (s : State) (fn : Nat) (k : State → State) : State := if s.hub.boot = .ready && !muted s fn then k s else s

/-- The 64 bytes of an event's record (R391, R486). -/
def recordBytes (e : HubEvent) (seq : Nat) : List Byte :=
  let head := leBytes 2 e.bit ++ leBytes 2 e.fn ++ leBytes 4 seq
  let body := if e.bit = reportBit then leBytes 2 e.cause.toNat ++ leBytes 2 e.source ++ e.payload else e.payload
  (head ++ body ++ List.replicate 56 0).take 64

/-- A message-signalled interrupt of the physical function. -/
def sendMsix (s : State) (vec entry : Nat) : State := modHub s (fun h => { h with msix := h.msix ++ [(vec, entry)] })

/-! ### The cause table (R451) -/

/-- Entry `i` of the cause table as a queue of function `fn` signals it: it fires, or names another function (0x0A8). -/
def fireEntry (s : State) (fn i : Nat) : Option State :=
  let e := tabGet (0 : Word) i s.hub.causes
  if bitsOf e.toNat 19 7 = fn then
    let e' : Word := BitVec.ofNat 64 (bitsOf (bitsOf e.toNat 32 32 + 1) 0 32 * 2 ^ 32 + bitsOf e.toNat 0 32)
    some (sendMsix (modHub s (fun h => { h with causes := tabPut i e' h.causes })) (bitsOf e.toNat 26 6) i)
  else none

/-- An event of function `fn` may fire a cause-table entry of the function. DESIGN CHOICE (entry 228): which of the entries that have been
written, if any, is free (R451). -/
def fireEvent (s : State) (fn : Nat) : State :=
  let mine := (s.hub.causes.filter (fun e => bitsOf e.2.toNat 19 7 = fn)).map (·.1)
  let (bs, s) := freeBytes 3 s
  match mine[leNat bs % (mine.length + 1)]? with
  | some i => (fireEntry s fn i).getD s
  | none => s

/-! ### The event ring (R486) -/

/-- The skerry that has held an event for the ring longest. -/
def oldestSkerry (s : State) : Option (Nat × HubEvent × Nat) :=
  bestBy (fun e => s.tick - e.2.2) (s.hub.skerries.filter (fun e => e.2.1.posts))

/-- EVENT_RECORD_WRITE: the record of a taken event is written, the write index advances and vector 0 is sent; a request then waits
for its answer. The skerry is idle again and its lock free. While the ring is full or not enabled the record waits (R486). Nothing is
written for a function under reset (R479). A record that reports an event may also fire an entry of the cause table (R451, entry 228). -/
def writeRecord (s : State) : State :=
  match oldestSkerry s with
  | none => s
  | some (sk, e, _) =>
    if muted s e.fn then modHub s (fun h => { h with skerries := tabDel sk h.skerries })
    else if !ringTakes s.hub then s
    else
      let h := s.hub
      let seq := h.evseq % 2 ^ 32
      let s := writeHome s (.mem (h.evrbase.toNat + 64 * (h.evrwidx.toNat % ringEntries h))) (recordBytes e seq)
      let s := modHub s (fun h =>
        { h with evseq := (h.evseq + 1) % 2 ^ 32, evrwidx := h.evrwidx + 1, skerries := tabDel sk h.skerries,
                 posted := if e.bit = reportBit then h.posted else h.posted ++ [(seq, e)] })
      let s := sendMsix s 0 4096
      if e.bit = reportBit then fireEvent s e.fn else s

/-- A queue enters ERROR with a cause; only an ACTIVE queue can (R366, R373). -/
def queueError (s : State) (q : Nat) (cause : Cause) (idx : BitVec 32) : State :=
  modQueue s q (fun v => if v.state = .active then { v with state := .error, cause := cause, ridx := idx } else v)

/-! ### The host's answers (R391, R480, R486) -/

/-- The host's answer to a page fault (R480): 0 retries, 1 refuses with its cause, any other value refuses with 0x106. -/
def answerFault (s : State) (ticket : Nat) (v : Word) : State :=
  match s.faults.find? (fun f => f.seq = some ticket) with
  | none => s
  | some f => if v = 0 then dropFault s f else refuseFault s f (if v = 1 then f.cause else 0x106)

/-- A write of RESSEQ commits RESVAL to the request that it names; one that names no request that waits, or one of a function under reset, is
ignored (R486). -/
def answerRequest (s : State) (v : Word) : State :=
  let seq := v.toNat % 2 ^ 32
  match s.hub.posted.find? (fun e => e.1 = seq) with
  | none => s
  | some (n, e) =>
    if underReset s e.fn then s
    else
      let s := modHub s (fun h => { h with resseq := v, posted := h.posted.erase (n, e) })
      if e.bit = 1 then answerFault s e.source s.hub.resval
      else if e.bit = 6 then s
      else modHub s (fun h => { h with answers := h.answers ++ [(e.bit, e.source)] })

/-- A write of EVRRIDX, ignored when the difference would exceed the ring (R486). -/
def setReadIndex (s : State) (v : Word) : State :=
  let i := v.setWidth 32
  if ringEntries s.hub < (s.hub.evrwidx - i).toNat then s else modHub s (fun h => { h with evrridx := i })

/-- EVENT_RECORD_WRITE (R486). -/
def execEvEventRecordWrite (s : State) : Out := .next (writeRecord s)
/-- RESSEQ (R486). -/
def execEvResseq (v : Word) (s : State) : Out := .next (portTakes s 0 (fun s => answerRequest s v))
/-- EVRRIDX (R486). -/
def execEvEvrridx (v : Word) (s : State) : Out := .next (portTakes s 0 (fun s => setReadIndex s v))

end Sys2Proof.Machine
end

