-- ==== Sys2Proof/Machine/Handle.lean ====
section
/-!
DEFINITION. The handle instructions (R430–R433): HLD, HST, HNARROW, HINFO, HCHK, HDROP and HREQ.
-/

namespace Sys2Proof.Machine

/-- The bytes of a 256-bit register, little-endian. -/
def regBytes (b : BitVec 256) : List Byte := leBytes 32 b.toNat

/-- Writes handle register `r` of the current context. -/
def setH (s : State) (r : BitVec 5) (h : HReg) : State := modX s (fun x => { x with h := vecSet x.h r.toNat h })

/-- Writes layout register `r` of the current context. -/
def setY (s : State) (r : BitVec 5) (b : BitVec 256) : State := modX s (fun x => { x with y := vecSet x.y r.toNat b })

/-- The zero handle as an h register holds it (R428). -/
def zeroHandle : HReg := ⟨0, 0x200⟩

/-- HLD: four parts of 8 bytes (R270, R431); it lands at once. A write of an h register waits for earlier matrix operations, which capture theirs at issue (R428, R431). -/
def execHld (f : HLdF) (s : State) : Out :=
  .next (issue (.hld f) .P (fun caps s =>
    if !f.y && streamOwesH s.x then .hold s false
    else match wideLoadAt s s.xid (srcS caps 0).toNat 32 0 (resolve s s.xid needLoad (srcS caps 0).toNat 32 32) with
      | .hold s => .hold s false
      | .trap s c d fa => .trap s c d fa
      | .ok r s =>
        let b : BitVec 256 := leWord 256 r
        .ok (if f.y then setY s f.reg b else setH s f.reg (loadHandle s s.x.space b)) flagNone) s)

/-- The cause with which HST refuses to store an h register (R431). -/
def storeRefusal (h : HReg) : Cause :=
  if h.status ≠ 0 then h.status else if hRights h.bits &&& rightP = 0 then 0x203 else 0

/-- Whether an address fails one of the checks before translation (R304). -/
def earlyFails (s : State) (a n al : Nat) : Bool :=
  match resolve s s.xid needStore a n al with
  | .error (.early _) => true
  | _ => false

/-- HST (R431). -/
def execHst (f : HLdF) (s : State) : Out :=
  .next (issue (.hst f) .P (fun caps s =>
    let a := (srcS caps 0).toNat
    let h := s.x.hval f.reg.toNat
    let c := storeRefusal h
    if f.y then storeDone (plainStore s s.xid a 32 (regBytes (s.x.yval f.reg.toNat)))
    else if c ≠ 0 && !earlyFails s a 32 32 then .trap s c 0 (handleWhere h f.reg.toNat)
    else storeDone (plainStore s s.xid a 32 (regBytes h.bits))) s)

/-- The base of a narrowed handle: the offset field of a remote tensor takes the offset (R346, R432). -/
def narrowBase (kind : Nat) (base : Word) (o : Nat) : Word :=
  if kind = 2 then BitVec.ofNat 64 (base.toNat / 2 ^ 25 * 2 ^ 25 + (base.toNat + o) % 2 ^ 25) else base + BitVec.ofNat 64 o

/-- The checks of HNARROW in their order: the first failing cause, or 0 (R432). -/
def narrowCheck (s : State) (h : HReg) (o l : Nat) : Cause :=
  let b := h.bits
  let k := hKind b
  if h.status ≠ 0 then h.status
  else if hGen b ≠ slotGen s (spaceOf (hPart b) (hTenant b)) (hSlot b) then 0x201
  else if hRights b &&& rightN = 0 then 0x203
  else if l = 0 || hExtent b < o + l then 0x205
  else if k ≤ 1 && o % 128 ≠ 0 then 0x205
  else if k = 3 && (o ≠ 0 || l ≠ hExtent b) then 0x205
  else 0

/-- The narrowed handle (R432). -/
def narrowed (s : State) (b : BitVec 256) (o l : Nat) (mask : BitVec 8) : BitVec 256 :=
  sealed s (handleBody (hGen b) (hSlot b) (hPart b) (hTenant b) (hKind b) (hRights b &&& mask) l (narrowBase (hKind b) (hBase b) o))

/-- HNARROW (R432). -/
def execHnarrow (f : HNarrowF) (s : State) : Out :=
  .next (issue (.hnarrow f) .P (fun caps s =>
    let h := s.x.hval f.hs.toNat
    let o := (srcS caps 0).toNat
    let l := (srcS caps 1).toNat
    let c := narrowCheck s h o l
    if streamOwesH s.x then .hold s false
    else if c ≠ 0 then .trap s c 0 (handleWhere h f.hs.toNat)
    else .ok (setH s f.hd ⟨narrowed s h.bits o l f.mask, 0⟩) flagNone) s)

/-- The field that HINFO reads (R433). -/
def handleField (h : HReg) (n : Nat) : Word :=
  let b := h.bits
  match n with
  | 0 => hBase b
  | 1 => BitVec.ofNat 64 (hExtent b)
  | 2 => BitVec.ofNat 64 (hKind b * 2 ^ 8 + (hRights b).toNat)
  | 3 => BitVec.ofNat 64 (hPart b * 2 ^ 16 + hTenant b)
  | 4 => BitVec.ofNat 64 (hGen b * 2 ^ 20 + hSlot b)
  | _ => h.status.setWidth 64

/-- HINFO (R433). -/
def execHinfo (f : HInfoF) (s : State) : Out :=
  .next (issue (.hinfo f) .P (fun _ s => putG s f.d (handleField (s.x.hval f.h.toNat) f.n.toNat) flagNone) s)

/-- HCHK (R433). -/
def execHchk (f : HDhaF) (s : State) : Out :=
  .next (issue (.hchk f) .P (fun caps s =>
    putG s f.d ((handleCheck s s.x.space (s.x.hval f.h.toNat) ((srcS caps 0).setWidth 8)).setWidth 64) flagNone) s)

/-- HDROP (R433). -/
def execHdrop (f : HDropF) (s : State) : Out :=
  .next (issue (.hdrop f) .P (fun _ s => if streamOwesH s.x then .hold s false else .ok (setH s f.h zeroHandle) flagNone) s)

/-- The request record of HREQ (R433). -/
def reqOf (bs : List Byte) : MintReq :=
  { slot := leNat ((bs.drop 16).take 4), base := leWord 64 (bs.take 8), extent := leNat ((bs.drop 8).take 6),
    rights := leWord 8 ((bs.drop 14).take 1), kind := leNat ((bs.drop 15).take 1) }

/-- The status of HREQ (R425, R433): 4 while the policy of the function disables it, 5 for a malformed record. -/
def reqStatus (s : State) (bs : List Byte) : Nat :=
  if !(getFn s s.x.fn).hreq then 4
  else if leNat ((bs.drop 20).take 12) ≠ 0 then 5
  else mintStatus s s.x.space s.x.fn (reqOf bs)

/-- HREQ (R433). -/
def execHreq (f : HDhaF) (s : State) : Out :=
  .next (issue (.hreq f) .P (fun caps s =>
    if streamOwesH s.x || !oweReady s.x f.d then .hold s false
    else match wideLoadAt s s.xid (srcS caps 0).toNat 32 0 (resolve s s.xid needLoad (srcS caps 0).toNat 32 32) with
      | .hold s => .hold s false
      | .trap s c d fa => .trap s c d fa
      | .ok r s =>
        let st := reqStatus s r
        let h : HReg := if st = 0 then ⟨mintBits s s.x.space (reqOf r), 0⟩ else zeroHandle
        putThen s f.d (BitVec.ofNat 64 st) (fun s => setH s f.h h)) s)

end Sys2Proof.Machine
end

