-- ==== Sys2Proof/Machine/Pick.lean ====
section
/-!
DEFINITION. The contexts of a control core among which its issue chooses (R385), and their promotion.
-/

namespace Sys2Proof.Machine

/-- The contexts of a core that run a continuation. -/
def coreRuns (s : State) (k : Nat) : List Nat :=
  (s.xid :: s.parked.map (·.1)).filter (fun c => ctxCore c = k && (getCtx s c).run)

/-- Since when a context has been ready on a side without issuing. -/
def readySince (x : Context) (ex : Bool) : Option Nat := if ex then x.readyE else x.readyA

/-- ISSUE_PROMOTION of a context: it has been ready on a side for 1,024 cycles without issuing (R385). -/
def promote (s : State) (c : Nat) (ex : Bool) : State :=
  if (getCtx s c).run && (readySince (getCtx s c) ex).any (fun t => 1024 ≤ s.tick - t) then
    modCtx s c (fun x => if ex then { x with promE := true } else { x with promA := true })
  else s

/-- The best of some contexts by a measure, the first one among equals. -/
def bestCtx (f : Nat → Nat) : List Nat → Option Nat
  | [] => none
  | c :: cs => match bestCtx f cs with
    | none => some c
    | some d => some (if f c < f d then d else c)

end Sys2Proof.Machine
end

