-- ==== Sys2Proof/Machine/Work.lean ====
section
/-!
DEFINITION. How work reaches contexts (R376, R380–R385, R415, R427): the state of a continuation that is loaded, requests for work and
their sources, starts from a range task, list entries of C and S nodes, aging and promotion.
-/

namespace Sys2Proof.Machine

/-! ### What a continuation starts with (R244, R384, R427, R456, R464) -/

/-- WIDHDR of a node (R464). -/
def widHdr (n : Node) : Word :=
  BitVec.ofNat 64 (n.group * 2 ^ 42 + ((List.range 6).map (fun i => n.widths.getD i 0 % 128 * 2 ^ (7 * i))).sum)

/-- A queue's number within its function's window (R446). -/
def localQueue (s : State) (q : Nat) : Nat := ((List.range q).filter (fun p => (queueOwner s p).1 = (queueOwner s q).1)).length

/-- NODEID (R464). -/
def nodeId (s : State) (b n cl : Nat) : Word :=
  BitVec.ofNat 64 (localQueue s (jobQueue s b) * 2 ^ 20 + n * 2 ^ 16 + podDie s (cl / 12))

/-- TENANT (R464). -/
def tenantWord (s : State) (b : Nat) : Word :=
  let (fn, part) := queueOwner s (jobQueue s b)
  BitVec.ofNat 64 (fn * 2 ^ 40 + (tabGet {} part s.parts).podId * 2 ^ 24 + part * 2 ^ 16 + (getFn s fn).tenant)

/-- The scratchpad handle that the front end mints (R250, R427); with no scratchpad, or once the
pool slot is retired, the register holds the zero handle (log entry 235). -/
def poolHandle (s : State) (b cl : Nat) : HReg :=
  let c := getCluster s cl
  let len := scratchLen c.poolpw
  let sp := jobSpace s b
  if len = 0 || slotSpent c then zeroHandle
  else ⟨sealed s (handleBody c.slotGen (poolSlot cl) (spacePart sp) (spaceTenant sp) 1 (rightR ||| rightW ||| rightM ||| rightN) len 0), 0⟩

/-- Entry `i` of a node's handle table as it is loaded into a register; one that cannot be read leaves the zero handle and its cause in
the job's record (R427). -/
def tableHandle (s : State) (w : FeWho) (b : Nat) (htab : Word) (i : Nat) : FAcc HReg :=
  match feRead s w (htab.toNat + 32 * i) 32 with
  | .ok bs s => .ok (loadHandle s w.space (leWord 256 bs)) s
  | .hold s => .hold s
  | .fail s c => .ok zeroHandle (logCause s b c)

/-- The handle table of a node, entries from `i`. -/
def loadTable (w : FeWho) (b : Nat) (htab : Word) : Nat → Nat → List HReg → State → FAcc (List HReg)
  | 0, _, acc, s => .ok acc.reverse s
  | n + 1, i, acc, s => (tableHandle s w b htab i).bind (fun h s => loadTable w b htab n (i + 1) (h :: acc) s)

/-- h0 to h31 at a start (R427). -/
def startHandles (s : State) (w : FeWho) (b n cl : Nat) : FAcc (List HReg) :=
  match nodeOf s b n with
  | none => .ok [poolHandle s b cl] s
  | some v =>
    (loadTable w b v.htab (min v.hcount 31) 0 [] s).bind (fun l s => .ok (poolHandle s b cl :: l) (dropFe s w))

/-- The front-end agent that starts work numbered `tag` for a job. -/
def startWho (s : State) (b tag : Nat) : FeWho := ⟨true, tag, jobFn s b, jobSpace s b⟩

/-- Context `c` loaded with continuation `k` and handles `hs` (R384). -/
def loadContext (s : State) (c : Nat) (k : Cont) (hs : List HReg) : State :=
  let cl := ctxCluster c
  let pw := (getCluster s cl).poolpw
  let old := getCtx s c
  let hdr := ((nodeOf s k.bundle k.node).map widHdr).getD 0
  let x : Context :=
    { run := true
      cont := { k with state := 1, pending := false, cur := none, ws := none, fl := 0, cluster := cl }
      pc := k.pc
      h := Vector.ofFn (fun i : Fin 32 => hs.getD i.val zeroHandle)
      k := vecSet (vecSet (vecSet (vecSet (Vector.replicate 16 0) 0 k.k0) 1 k.k1) 2 k.k2) 3 k.k3
      localw := BitVec.ofNat 64 (0x1000000 + localLen pw / 64)
      clustw := BitVec.ofNat 64 (0x2000000 + scratchLen pw / 64)
      sharedw := BitVec.ofNat 64 (0x40000000 + 12 * 0x80000)
      poolpw := pw.setWidth 64
      widhdr := hdr
      nodeid := nodeId s k.bundle k.node cl
      tenant := tenantWord s k.bundle
      fstat := k.fl.setWidth 64
      cur := k.cur
      ws := k.ws
      pend := old.pend
      since := s.tick }
  let x := ((x.setG 1 k.g1).setG 2 k.g2).setG 3 k.g3
  let s := modCore (putCtx s c x) (ctxCore c) (fun k => { k with l1 := [] })
  acquirePend s c 1

/-! ### Free contexts and ready work (R382) -/

/-- Contexts that a core of a cluster offers (R248). -/
def coreContexts (s : State) (core : Nat) : List Nat :=
  (List.range (min 16 (pwCtx (getCluster s (core / 4)).poolpw))).map (fun i => core * 16 + i)

/-- The free contexts of a core. -/
def freeOf (s : State) (core : Nat) : List Nat := (coreContexts s core).filter (fun c => !(getCtx s c).run)

/-- The free contexts of a core's cluster, those of the core first. -/
def freeOfCluster (s : State) (core : Nat) : List Nat :=
  (List.range 4).flatMap (fun j => freeOf s (core / 4 * 4 + (core % 4 + j) % 4))

/-- Whether a pre-emption holds back new work of a cluster (R466). -/
def noDispatch (s : State) (cl : Nat) : Bool :=
  (getCluster s cl).hold || s.planners.any (fun p => p.2.preempt.any (fun m => m.mask.getLsbD cl))

/-- The best continuation of a list: highest priority, then the one that has waited longest (R382). -/
def bestCont (l : List Cont) : Option Cont := bestBy (fun k => k.pri.toNat) l

/-- Whether a cluster runs the node of a continuation. -/
def fitsCluster (s : State) (cl : Nat) (k : Cont) : Bool := (getCluster s cl).node = some (k.bundle, k.node)

/-- Ready continuations of the cluster's local list, bound ones first (R382 source 1). -/
def localReady (s : State) (cl : Nat) : Option Cont :=
  let l := (getCluster s cl).ready
  match bestCont (l.filter Cont.bound) with
  | some k => some k
  | none => if noDispatch s cl then none else bestCont (l.filter (fun k => !k.bound))

/-- A ready continuation of pool `p` that a cluster may run. -/
def poolReady (s : State) (cl p : Nat) : Option Cont :=
  if noDispatch s cl then none else bestCont ((s.ready.filter (fun e => e.1 = p && fitsCluster s cl e.2)).map (·.2))

/-- Removes a ready continuation from wherever it waits. -/
def takeReady (s : State) (cid : Nat) : State :=
  { s with
    ready := s.ready.filter (fun e => e.2.cid != cid)
    clusters := s.clusters.map (fun e => (e.1, { e.2 with ready := e.2.ready.filter (fun k => k.cid != cid) })) }

/-- Whether a cluster and its die let contexts start. -/
def mayStart (s : State) (cl : Nat) : Bool := !(getDie s (cl / 12)).stopped && !(getCluster s cl).hold && s.hub.boot = .ready

/-- Loads a ready continuation onto a free context; it waits while its handle table is being served (R384, R427). -/
def resumeOn (s : State) (c : Nat) (k : Cont) : State :=
  match startHandles s (startWho s k.bundle k.cid) k.bundle k.node (ctxCluster c) with
  | .ok hs s => loadContext (takeReady s k.cid) c k hs
  | .hold s => s
  | .fail s _ => s

/-! ### Range tasks (R381, R415) -/

/-- Where a range of `g`-groups splits (R381). -/
def splitPoint (cur hi g : Nat) : Nat := (cur + (hi - cur) / 2) / g * g

/-- Whether a range task has identifiers left. -/
def Piece.open (p : Piece) : Bool := p.cur < p.hi

/-- The range task with the most identifiers left; of two, the one of the lower queue and node (R382). -/
def mostLeft (s : State) (l : List Piece) : Option Piece :=
  match bestBy (fun p => p.hi - p.cur) l with
  | none => none
  | some b =>
    let l := l.filter (fun p => p.hi - p.cur = b.hi - b.cur)
    match bestBy (fun p => 2 ^ 20 - (jobQueue s p.bundle * 8 + p.node)) l with
    | some p => some p
    | none => some b

/-- Range tasks of the node that a cluster runs, on the clusters that `sel` selects. -/
def nodePieces (s : State) (cl : Nat) (sel : Nat → Bool) : List Piece :=
  s.pieces.filter (fun p => p.open && (getCluster s cl).node = some (p.bundle, p.node) && sel p.place)

/-- Splits a range task for a requester's cluster: none where it does not split (R381). -/
def splitPiece (s : State) (p : Piece) (cl : Nat) : Option State :=
  let mid := splitPoint p.cur p.hi (gsizeOf s p.bundle p.node)
  if p.cur < mid && mid < p.hi then some (addPiece (putPiece s { p with hi := mid }) p.bundle p.node mid p.hi p.pc cl) else none

/-- The continuation with identifier `wid` that a range task starts (R383, R415). -/
def rangeCont (p : Piece) (v : Node) (cl wid grp cid : Nat) : Cont :=
  { cid := cid, bundle := p.bundle, node := p.node, pc := p.pc, wid := BitVec.ofNat 64 wid, rend := BitVec.ofNat 64 p.hi, range := true,
    cluster := cl, bound := 0 < poolSp v.poolpw, pri := v.pri, piece := p.id, grp := grp }

/-- Loads identifiers `wid`, `wid` + 1, … onto contexts. -/
def loadMembers (p : Piece) (v : Node) (grp : Nat) (hs : List HReg) : List Nat → Nat → State → State
  | [], _, s => s
  | c :: rest, wid, s =>
    let (cid, s) := takeId s
    loadMembers p v grp hs rest (wid + 1) (loadContext s c (rangeCont p v (ctxCluster c) wid grp cid) hs)

/-- Starts the next continuation, or the next group, of a range task of an M, V or X node (R380, R415). -/
def startPiece (s : State) (p : Piece) (v : Node) (core : Nat) : State :=
  let g := v.gsize
  let n := min g (p.hi - p.cur)
  let free := if g = 1 then freeOf s core else freeOfCluster s core
  if free.length < n || n = 0 then s
  else match startHandles s (startWho s p.bundle p.id) p.bundle p.node (core / 4) with
    | .hold s => s
    | .fail s _ => s
    | .ok hs s =>
      let (grp, s) := if g = 1 then (0, s) else takeId s
      let s := countExecuted (putPiece s { p with cur := p.cur + n }) p.bundle n
      loadMembers p v grp hs (free.take n) p.cur s

/-! ### List entries of C and S nodes (R376) -/

/-- The scalar that a g field of a list entry names: g0 reads zero, g1 to g6 the slots. -/
def entryScalar (bs : List Byte) (r : BitVec 6) : Option Word :=
  if r = 0 then some 0 else if r.toNat ≤ 6 then some (leWord 64 ((bs.drop (16 + 8 * (r.toNat - 1))).take 8)) else none

/-- The layout record that a y field of a list entry names. -/
def entryLayout (bs : List Byte) (r : BitVec 3) : Option (BitVec 256) :=
  if r.toNat < 2 then some (leWord 256 ((bs.drop (64 + 32 * r.toNat)).take 32)) else none

/-- The scalars of an instruction's g fields in field order. -/
def listScalars (bs : List Byte) (i : Instr) : Option (List Word) :=
  (sources i).mapM (fun f => match f with
    | .g r _ => entryScalar bs r
    | _ => none)

/-- The handle and layout fields of an instruction that a C or S node may hold, its copy engine chosen by the destination's kind, and
whether the kind of node takes it. -/
def entryFields (kind : BitVec 3) (hs : List HReg) : Instr → Option (Nat × List (BitVec 5) × List (BitVec 3))
  | .cpy f => if kind = 2 then some (if hKind (hs.getD f.hd.toNat zeroHandle).bits = 1 then 0 else 1, [f.hd, f.hs], [f.yd, f.ys]) else none
  | .cpyg f => if kind = 2 then some (0, [f.c.hd, f.c.hs, f.hi], [f.c.yd, f.c.ys]) else none
  | .cpys f => if kind = 2 then some (1, [f.c.hd, f.c.hs, f.hi], [f.c.yd, f.c.ys]) else none
  | .cpyr f => if kind = 2 then some (if hKind (hs.getD f.c.hd.toNat zeroHandle).bits = 1 then 0 else 1, [f.c.hd, f.c.hs], [f.c.yd, f.c.ys]) else none
  | .cfill f => if kind = 2 then some (if hKind (hs.getD f.hd.toNat zeroHandle).bits = 1 then 0 else 1, [f.hd], [f.yd]) else none
  | .mmv f => if kind = 3 then some (2, [f.ha, f.hb], []) else none
  | _ => none

/-- The operation of a list entry, or the cause that ends the entry. DESIGN CHOICE (entry 221): no context issues it, and it samples the SEED
that a continuation starts with, 1 (R132, R376). -/
def entryOp (s : State) (core cid : Nat) (kind : BitVec 3) (hs : List HReg) (bs : List Byte) : Except Cause Op :=
  let ws := (List.range 4).map (fun j => (leWord 32 ((bs.drop (4 * j)).take 4) : IWord))
  match decodeList ws with
  | .error c => .error (if c = 0x001 then c else 0x003)
  | .ok (i, n) =>
    match entryFields kind hs i with
    | none => .error 0x001
    | some (eng, hf, yf) =>
      match listScalars bs i, yf.mapM (entryLayout bs) with
      | some gs, some ys =>
        if (ws.drop n).all (· = 0) then
          .ok { instr := i, ring := ⟨false, false, false, false⟩, member := eng, ctx := core * 16, cid := cid, core := core % 4, gs := gs,
                hs := hf.map (fun r => hs.getD r.toNat zeroHandle), ys := ys, seed := 1, pkbase := 0, since := s.tick, seq := s.nextId }
        else .error 0x003
      | _, _ => .error 0x003

/-- Issues the next list entry of a range task on the cluster's engines with the node as owner, when the queue and the table have room
(R376, R386, R397). -/
def startEntry (s : State) (p : Piece) (v : Node) (core : Nat) : State :=
  let cl := core / 4
  let w := startWho s p.bundle p.id
  let next (s : State) : State := countExecuted (putPiece s { p with cur := p.cur + 1 }) p.bundle 1
  match startHandles s w p.bundle p.node cl with
  | .hold s => s
  | .fail s _ => s
  | .ok hs s =>
    match feRead s w (v.list.toNat + 128 * p.cur) 128 with
    | .hold s => s
    | .fail s c => next (logCause (dropFe s w) p.bundle c)
    | .ok bs s =>
      let (cid, s) := takeId (dropFe s w)
      match entryOp s core cid v.kind hs bs with
      | .error c => next (logCause s p.bundle c)
      | .ok op =>
        let key := engQueue op.member op.core
        let q := tabGet [] key (getCluster s cl).queues
        let e : TokEntry :=
          { state := .queued, pri := v.pri, bundle := p.bundle, node := p.node, owner := none, released := true, held := false, scope := 0, done := 0,
            total := 0, fr := {}, op := op, waited := false, started := false, stop := none, flags := 0, lanes := [], todo := none, quit := false }
        if queueRoom ≤ q.length then s
        else match allocTok s cl e with
          | none => s
          | some (slot, s) =>
            next (modCluster (takeId s).2 cl (fun c => { c with queues := tabPut key (q ++ [slot]) c.queues }))

/-- Starts what comes next of a range task (R376, R415). -/
def startNext (s : State) (p : Piece) (core : Nat) : State :=
  match nodeOf s p.bundle p.node with
  | none => s
  | some v => if v.kind = 2 || v.kind = 3 then startEntry s p v core else startPiece s p v core

/-- What a request for work is served from (R382). -/
inductive WorkSource where
  | cont (k : Cont)
  | start (p : Piece)
  | split (p : Piece)
  deriving DecidableEq, Repr

/-- Whether a range task of a core's cluster can start something now: a group of an M, V or X node needs a free context for each member
(R415). -/
def canStart (s : State) (core : Nat) (p : Piece) : Bool :=
  match nodeOf s p.bundle p.node with
  | none => false
  | some v =>
    v.kind = 2 || v.kind = 3 || min v.gsize (p.hi - p.cur) ≤ (if v.gsize = 1 then freeOf s core else freeOfCluster s core).length

/-- The range task with the most identifiers left of those that a cluster may take a part of and that do split. -/
def splitSource (s : State) (cl : Nat) (sel : Nat → Bool) : Option WorkSource :=
  ((mostLeft s (nodePieces s cl sel)).filter (fun p => (splitPiece s p cl).isSome)).map .split

/-- The first source that yields work for a core with a free context (R382); within one, higher priority first and FIFO order within a
priority. -/
def workSource (s : State) (core : Nat) : Option WorkSource :=
  let cl := core / 4
  if (freeOf s core).isEmpty || !mayStart s cl then none
  else
    ((localReady s cl).map .cont).orElse fun _ =>
    if noDispatch s cl then none
    else
      ((mostLeft s ((nodePieces s cl (fun p => p = cl)).filter (canStart s core))).map .start).orElse fun _ =>
      ((poolReady s cl (cl / 12)).map .cont).orElse fun _ =>
      (splitSource s cl (fun p => p / 12 = cl / 12 && p != cl)).orElse fun _ =>
      ((poolReady s cl centralPool).map .cont).orElse fun _ =>
      splitSource s cl (fun p => p != cl)

/-- Serves a core's request for work from source `w` on its free context `c`. -/
def serveWork (s : State) (core c : Nat) : WorkSource → State
  | .cont k => resumeOn s c k
  | .start p => startNext s p core
  | .split p => (splitPiece s p (core / 4)).getD s

/-- WORK_REQUEST of a core (R382): the first source that yields work. -/
def workRequest (s : State) (core : Nat) : State :=
  match workSource s core, freeOf s core with
  | some w, c :: _ => serveWork s core c w
  | _, _ => s

/-- RANGE_TASK_START of range task `i` by a core of its cluster (R415), where that is the first source of R382 that yields work. -/
def rangeStart (s : State) (i core : Nat) : State :=
  match s.pieces[i]?, workSource s core with
  | some p, some (.start q) => if p = q then startNext s p core else s
  | _, _ => s

/-- CONTINUATION_RESUME of ready continuation `cid` on context `c` (R384), where it is what the core's first source yields (R382). -/
def contResume (s : State) (c cid : Nat) : State :=
  match workSource s (ctxCore c) with
  | some (.cont k) => if k.cid = cid && (freeOf s (ctxCore c)).contains c then resumeOn s c k else s
  | _ => s

/-! ### Aging and promotion (R382, R385) -/

/-- Cycles after which a ready entry moves to the tail of priority 3 (R382). -/
def readyLimit : Nat := 65536

/-- READY_ENTRY_AGING of pool entry `i`, or past the pools of an entry of the clusters' local lists (R382). -/
def ageReady (s : State) (i : Nat) : State :=
  let old (k : Cont) : Bool := readyLimit ≤ s.tick - k.since && k.pri != 3
  match s.ready[i]? with
  | some e => if old e.2 then { s with ready := s.ready.eraseIdx i ++ [(e.1, { e.2 with pri := 3 })] } else s
  | none =>
    match (s.clusters.flatMap (fun c => c.2.ready.map (fun k => (c.1, k))))[i - s.ready.length]? with
    | some (cl, k) =>
      if old k then modCluster s cl (fun c => { c with ready := c.ready.filter (fun j => j.cid != k.cid) ++ [{ k with pri := 3 }] }) else s
    | none => s

/-- ISSUE_PROMOTION (R385). -/
def execEvIssuePromotion (c : Nat) (ex : Bool) (s : State) : Out := .next (promote s c ex)
/-- READY_ENTRY_AGING (R382). -/
def execEvReadyEntryAging (i : Nat) (s : State) : Out := .next (ageReady s i)
/-- WORK_REQUEST (R382). -/
def execEvWorkRequest (core : Nat) (s : State) : Out := .next (workRequest s core)
/-- RANGE_TASK_START (R415). -/
def execEvRangeTaskStart (i core : Nat) (s : State) : Out := .next (rangeStart s i core)
/-- CONTINUATION_RESUME (R384). -/
def execEvContinuationResume (c cid : Nat) (s : State) : Out := .next (contResume s c cid)

end Sys2Proof.Machine
end

