-- ==== Sys2Proof/Machine/Queue.lean ====
section
/-!
DEFINITION. Hardware queues (R364–R368, R392): the launch register, the commands of QCTL, destruction, and the end of a destroyed
queue's continuations.
-/

namespace Sys2Proof.Machine

/-! ### Registers of a queue -/

/-- Words of a queue's ring (R365). -/
def Queue.ringWords (q : Queue) : Nat := 2 ^ (10 + q.qcfg.toNat % 16)

/-- The address of ring word `w` (R367). -/
def Queue.wordAddr (q : Queue) (w : Nat) : Nat := q.qbase.toNat + 4 * (w % q.ringWords)

/-- The agents that make a queue's accesses: its parser, its launch, its SIGNALs and TIMESTAMPs, its completion records (R498). -/
inductive FePart where
  | parse | launch | act | record
  deriving DecidableEq, Repr

/-- The number of an agent of a queue. -/
def FePart.num : FePart → Nat
  | .parse => 0
  | .launch => 1
  | .act => 2
  | .record => 3

/-- A queue's agent, in the address space of the owning tenant (R498). -/
def queueWho (s : State) (q : Nat) (p : FePart) : FeWho := ⟨false, 4 * q + p.num, (queueOwner s q).1, queueSpace s q⟩

/-- Whether an access of a queue's agent is being served or has been refused. -/
def heldPart (s : State) (q : Nat) (p : FePart) : Bool := s.faults.any (feRecord (queueWho s q p))

/-- Drops what every agent of a queue waits for. -/
def dropQueueFe (s : State) (q : Nat) : State :=
  [FePart.parse, .launch, .act, .record].foldl (fun s p => dropFe s (queueWho s q p)) s

/-- The bundles of a queue that have not retired. -/
def residents (s : State) (q : Nat) : List (Nat × Bundle) := s.bundles.filter (fun b => b.2.queue = q && !b.2.retired)

/-- Indexes and base values as ENABLE and RESET set them (R366, R371); SIGNALs and TIMESTAMPs of earlier bundles stay. -/
def Queue.restart (q : Queue) : Queue :=
  { q with widx := 0, ridx := 0, bases := [], inl := [], gang := none, gangLate := false, clean := false, hold := none, launch := none,
           resetting := false, stopped := false, state := .active, cause := 0 }

/-- A launch that is not resident is dropped, and with it what waits for it (R366, R392). -/
def Queue.dropLaunch (q : Queue) : Queue :=
  match q.launch with
  | none => { q with hold := none }
  | some l => { q with launch := none, hold := none, acts := q.acts.filter (fun a => a.no < l.no) }

/-! ### Vacancy (R471) -/

/-- The planner window of a partition. -/
def getPlanner (s : State) (part : Nat) : Planner := tabGet {} part s.planners

/-- Changes the planner window of a partition. -/
def modPlanner (s : State) (part : Nat) (f : Planner → Planner) : State := { s with planners := tabMod {} part f s.planners }

/-- The queues of a partition, by number (R446). -/
def partQueues (s : State) (part : Nat) : List Nat := (s.qmap.filter (fun e => e.2.2 = part)).map (·.1)

/-- Whether a queue is DISABLED with nothing resident or halted for an image, and no cluster that its tenant has left waits for its
scrub (R471). -/
def queueVacant (s : State) (q : Nat) : Bool :=
  let (fn, part) := queueOwner s q
  (getQueue s q).state = .disabled && (residents s q).isEmpty &&
    !(getPlanner s part).saved.any (fun v => jobQueue s v.x.cont.bundle = q) &&
    !s.clusters.any (fun c => c.2.node.isNone && c.2.owner = some ((getFn s fn).tenant, part))

/-- Whether a partition is vacant: its queues are DISABLED and its clusters scrubbed (R471). -/
def partVacant (s : State) (part : Nat) : Bool :=
  (partQueues s part).all (queueVacant s) && s.clusters.all (fun c => !(tabGet {} part s.parts).clusters.getLsbD c.1 || c.2.owner.isNone)

/-- The planner's entry of a queue that is vacant keeps the figures of the pass in which its decision was formed (R481). -/
def QPlan.rest (v : QPlan) : QPlan :=
  match v.formed with
  | none => { v with state := 2 }
  | some (d, r, c) => { v with state := 2, dirty := d, remaining := r, cost := c }

/-- Notes the queues of an eviction that have become vacant, and the tick at which the partition has (R471, R481). -/
def noteVacancy (s : State) (part : Nat) : State :=
  let p := getPlanner s part
  if p.evict.isNone || p.vacant then s
  else
    let qs := (partQueues s part).filter (queueVacant s)
    let s := modPlanner s part (fun p => { p with plans := qs.foldl (fun l q => tabMod {} q QPlan.rest l) p.plans })
    if partVacant s part then
      modPlanner s part (fun p => { p with vacant := true, vtick := (podTick s).toNat })
    else s

/-- A queue whose dispatched bundles have all retired ends its destroy or its reset (R366, R392). -/
def settleQueue (s : State) (q : Nat) : State :=
  if (residents s q).isEmpty then
    noteVacancy (modQueue s q (fun v =>
      if v.state = .draining then { v with state := .disabled, armed := false }
      else if v.resetting then v.restart else v)) (queueOwner s q).2
  else s

/-! ### LAUNCHR (R367–R369) -/

/-- The check byte of an announcement (R367). -/
def launchCheck (bs : List Byte) : Byte := ((bs.take 6 ++ bs.drop 8).foldl (· + ·) (0 : Byte))

/-- The inline copy that a store to LAUNCHR carries, when it is used (R369). -/
def inlineCopy (bs : List Byte) (whole : Bool) : Option (List (BitVec 32)) :=
  let ilen := leNat ((bs.drop 4).take 2)
  let ws := (List.range ilen).map (fun i => (leWord 32 ((bs.drop (8 + 4 * i)).take 4) : BitVec 32))
  if whole && bs.length = 64 && bs.getD 6 0 = launchCheck bs && bs.getD 7 0 = 0 && 1 ≤ ilen && ilen ≤ 14 &&
    bitsOf (ws.headD 0).toNat 8 8 = ilen then some ws else none

/-- A store of `bs` to LAUNCHR of queue `q`, `whole` when it arrived as one aligned write of 64 bytes (R368, R369). -/
def launchStore (s : State) (q : Nat) (bs : List Byte) (whole : Bool) : State :=
  let v := getQueue s q
  if v.state != .active || bs.length < 4 then s
  else
    let widx : BitVec 32 := leWord 32 (bs.take 4)
    if widx = v.widx then s
    else if (widx - v.widx).msb || v.ringWords < (widx - v.ridx).toNat then queueError s q 0x0A2 v.ridx
    else modQueue s q (fun v =>
      { v with widx := widx, inl := match inlineCopy bs whole with
          | some ws => tabPut v.widx.toNat ws v.inl
          | none => v.inl })

/-! ### Commands (R366) -/

/-- Whether a function may have an enabled queue: the physical function, or a virtual function in RUN (R366, R448). -/
def fnRuns (s : State) (fn : Nat) : Bool := fn = 0 || (getFn s fn).tdisp = .run

/-- QCTL 1 (R366). -/
def enableQueue (s : State) (q : Nat) : State :=
  let v := getQueue s q
  if v.state != .disabled then s
  else
    let size := v.qcfg.toNat % 16
    if v.qbase.toNat % (4 * v.ringWords) = 0 && size != 15 && v.qcfg.toNat / 16 = 0 && fnRuns s (queueOwner s q).1 then
      modQueue s q (fun v => { v.restart with late := false })
    else modQueue s q (fun v => { v with cause := 0x0A2 })

/-- QCTL 2 (R366): parsing stops, and the reset completes once the dispatched bundles have retired. -/
def resetQueue (s : State) (q : Nat) : State :=
  let v := getQueue s q
  if v.state = .active || v.state = .error then
    let s := dropFe (dropFe s (queueWho s q .parse)) (queueWho s q .launch)
    settleQueue (modQueue s q (fun v => { v.dropLaunch with resetting := true })) q
  else s

/-- The remainders of a job's range tasks are dropped: they count as exhausted (R392). -/
def dropRemainders (s : State) (b : Nat) : State :=
  { s with pieces := s.pieces.map (fun p => if p.bundle = b then { p with hi := p.cur } else p) }

/-- A node that has not been dispatched counts as retired and decrements no successor (R392); it is never dispatched, and its clusters are free. -/
def dropNodes (s : State) (b : Nat) : State :=
  let ns := ((tabFind b s.bundles).elim [] Bundle.nodes).zipIdx
  ns.foldl (fun s n =>
    if n.1.ready || n.1.retired then s
    else
      let s := modNode s b n.2 (fun v => { v with ready := true, retired := true })
      n.1.clusters.foldl (fun s cl => modCluster s cl (fun c => { c with node := none })) s) s

/-- What a destroy does to a resident bundle (R392). -/
def destroyBundle (s : State) (b : Nat) : State :=
  modBundle (dropNodes (dropRemainders s b) b) b (fun v => { v with destroyed := true })

/-- QCTL 3 (R366, R392). -/
def destroyQueue (s : State) (q : Nat) : State :=
  let v := getQueue s q
  if v.state = .active || v.state = .error then
    let s := dropFe (dropFe s (queueWho s q .parse)) (queueWho s q .launch)
    let s := modQueue s q (fun v => { v.dropLaunch with resetting := false, state := .draining })
    settleQueue ((residents s q).foldl (fun s b => destroyBundle s b.1) s) q
  else s

/-- QCTL 4: as DESTROY, with the deadline in QDEADLINE (R366, R392). -/
def destroyDeadline (s : State) (q : Nat) : State :=
  let v := getQueue s q
  if v.state = .disabled then s
  else settleQueue (modQueue (destroyQueue s q) q (fun v => { v with armed := v.state = .draining })) q

/-! ### Killing continuations (R392, R466 step 3) -/

/-- A continuation that runs on context `c` is killed without saving: 0x0B1 is logged, and an identifier that it ran for a range task no
longer counts as executed. -/
def killCtx (s : State) (c : Nat) : State :=
  let x := getCtx s c
  if !x.run then s
  else
    let b := x.cont.bundle
    let s := logCause (onCtx s c endContinuation) b 0x0B1
    modBundle s b (fun v => { v with executed := v.executed - (if x.cont.range then 1 else 0) })

/-- A continuation that is suspended or ready on cluster `cl`, or waits in a pool, is killed. -/
def killStored (s : State) (cl : Nat) (k : Cont) : State :=
  let s := { s with
    ready := s.ready.filter (fun e => e.2.cid != k.cid)
    clusters := s.clusters.map (fun e => (e.1, { e.2 with ready := e.2.ready.filter (fun j => j.cid != k.cid),
                                                          susp := e.2.susp.filter (fun j => j.cid != k.cid) })) }
  let s := releaseLease (releaseOwned s cl k.cid) cl k.cid none
  modBundle (logCause s k.bundle 0x0B1) k.bundle (fun v => { v with executed := v.executed - (if k.range then 1 else 0) })

/-- A continuation whose context is halted for an image is reset without saving. -/
def killSaved (s : State) (part : Nat) (v : Saved) : State :=
  let k := v.x.cont
  let s := modPlanner s part (fun p => { p with saved := p.saved.filter (fun w => w != v) })
  let s := releaseLease (releaseOwned s (ctxCluster v.ctx) k.cid) (ctxCluster v.ctx) k.cid none
  modBundle (logCause s k.bundle 0x0B1) k.bundle (fun b => { b with executed := b.executed - (if k.range then 1 else 0) })

/-- Every continuation that `sel` selects is killed, also those that are halted for an image. -/
def killConts (s : State) (sel : Cont → Bool) : State :=
  let s := ((ctxNumbers s).filter (fun c => (getCtx s c).run && sel (getCtx s c).cont)).foldl killCtx s
  let s := (((storedConts s).filter sel)).foldl (fun s k => killStored s k.cluster k) s
  (s.planners.flatMap (fun p => (p.2.saved.filter (fun v => sel v.x.cont)).map (fun v => (p.1, v)))).foldl (fun s e => killSaved s e.1 e.2) s

/-- What an image holds of jobs that end here is lost: their nodes hold nothing back any more, and the image is no image of them. -/
def dropImaged (s : State) (js : List Nat) : State :=
  let part (b : Nat × Bundle) : Bool := js.contains b.1 && b.2.nodes.any Node.held
  let gone := (s.bundles.filter part).map (·.1)
  { s with
    images := s.images.filter (fun m => !m.bundles.any (fun b => gone.contains b.1))
    bundles := s.bundles.map (fun b => (b.1, if js.contains b.1 then
      { b.2 with discarded := true, nodes := b.2.nodes.map (fun n => { n with held := false }) } else b.2)) }

/-- The clusters of the module. -/
def clusterCount : Nat := 48

/-- Every operation that `sel` selects is asked to stop with a cause (R499). -/
def stopOps (s : State) (sel : Nat → TokEntry → Bool) (cause : Cause) : State :=
  (s.clusters.flatMap (fun c => (c.2.toks.filter (fun t => sel c.1 t.2 && !t.2.state.terminal)).map (fun t => (c.1, t.1)))).foldl
    (fun s p => stopOp s p.1 p.2 cause 0) s

/-- DESTROY_DEADLINE_EXPIRY: at the deadline tick every continuation of the queue is killed and its operations are cancelled (R392). What
a pre-emption has saved of the queue's work is lost too. -/
def deadlineExpiry (s : State) (q : Nat) : State :=
  let v := getQueue s q
  if v.state = .draining && v.armed && v.deadline.toNat ≤ podTick s then
    let bs := (residents s q).map (·.1)
    let s := modQueue s q (fun v => { v with armed := false })
    let s := killConts (dropImaged s bs) (fun k => bs.contains k.bundle)
    stopOps s (fun _ t => bs.contains t.bundle) 0x310
  else s

/-- LAUNCHR (R367–R369). -/
def execEvLaunchr (q : Nat) (bytes : Bytes) (whole : Bool) (s : State) : Out :=
  .next (portTakes s (queueOwner s q).1 (fun s => launchStore s q bytes whole))
/-- ENABLE (R366). -/
def execEvEnable (q : Nat) (s : State) : Out := .next (portTakes s (queueOwner s q).1 (fun s => enableQueue s q))
/-- RESET (R366). -/
def execEvReset (q : Nat) (s : State) : Out := .next (portTakes s (queueOwner s q).1 (fun s => resetQueue s q))
/-- DESTROY (R366, R392). -/
def execEvDestroy (q : Nat) (s : State) : Out := .next (portTakes s (queueOwner s q).1 (fun s => destroyQueue s q))
/-- DESTROY WITH DEADLINE (R366, R392). -/
def execEvDestroyWithDeadline (q : Nat) (s : State) : Out := .next (portTakes s (queueOwner s q).1 (fun s => destroyDeadline s q))
/-- DESTROY_DEADLINE_EXPIRY (R392). -/
def execEvDestroyDeadlineExpiry (q : Nat) (s : State) : Out := .next (deadlineExpiry s q)

end Sys2Proof.Machine
end

