-- ==== Sys2Proof/Machine/Packet.lean ====
section
/-!
DEFINITION. Packets of a hardware queue (R369–R373, R387–R389, R498): parsing, delta coding, and the effect of each type.
-/

namespace Sys2Proof.Machine

/-- Words of a ring, as the front end handles them. -/
abbrev RWord := BitVec 32

/-- The words of each field of a packet type (R372); none for a type that does not exist. -/
def fieldSizes : Nat → Option (List Nat)
  | 0 => some []
  | 1 => some [2, 1, 2]
  | 2 => some (List.replicate 16 4)
  | 3 => some [2, 2, 1]
  | 4 => some [2]
  | 5 => some [2, 1, 2, 2, 2, 1, 1]
  | 6 => some [2]
  | 7 => some []
  | _ => none

/-- The words that the present fields of a mask take. -/
def maskWords : List Nat → Nat → Nat
  | [], _ => 0
  | n :: ns, mask => (if mask % 2 = 1 then n else 0) + maskWords ns (mask / 2)

/-- Field values after delta coding: a present field from the packet, an absent one from the base values (R371). -/
def deltaFields : List Nat → Nat → List RWord → List RWord → List RWord
  | [], _, _, _ => []
  | n :: ns, mask, ws, base =>
    let old := (base ++ List.replicate n 0).take n
    if mask % 2 = 1 then (ws ++ List.replicate n 0).take n ++ deltaFields ns (mask / 2) (ws.drop n) (base.drop n)
    else old ++ deltaFields ns (mask / 2) ws (base.drop n)

/-- The packet at the head of a queue, the reason why it does not parse, or that parsing holds. -/
inductive Head where
  | wait (s : State)
  | bad (s : State) (c : Cause)
  | ok (s : State) (typ len mask : Nat) (ws : List RWord)

/-- Words of a packet from word `k`, from its inline copy or from the ring (R369). -/
def packetWords (s : State) (q : Nat) (k n : Nat) : FAcc (List RWord) :=
  let v := getQueue s q
  match tabFind v.ridx.toNat v.inl with
  | some ws => .ok ((ws.drop k).take n) s
  | none =>
    (feRead s (queueWho s q .parse) (v.wordAddr (v.ridx.toNat + k)) (4 * n)).bind (fun bs s =>
      .ok ((List.range n).map (fun i => leWord 32 ((bs.drop (4 * i)).take 4))) s)

/-- The head of a queue by its header word (R370, R372, R373). -/
def headOf (s : State) (q : Nat) (h : RWord) : Head :=
  let v := getQueue s q
  let typ := h.toNat % 256
  let mask := h.toNat / 2 ^ 16
  let off := v.ridx.toNat % v.ringWords
  let given := if bitsOf h.toNat 8 8 = 0 then 256 else bitsOf h.toNat 8 8
  let covered (n : Nat) : Bool := n ≤ (v.widx - v.ridx).toNat
  match fieldSizes typ with
  | none => .bad s 0x0A4
  | some sizes =>
    if typ = 0 then
      let len := if off = 0 then 1 else v.ringWords - off
      if mask != 0 then .bad s 0x0A3 else if covered len then .ok s 0 len 0 [] else .wait s
    else if v.ringWords < off + given then .bad s 0x0A0
    else if !covered given then .wait s
    else if 2 ^ sizes.length ≤ mask || given != 1 + maskWords sizes mask then .bad s 0x0A3
    else match packetWords s q 1 (given - 1) with
      | .hold s => .wait s
      | .fail s c => .bad s c
      | .ok ws s => .ok s typ given mask ws

/-- Whether a queue's parser moves: the queue is ACTIVE and not being reset, nothing of it is being served (R498), no FENCE holds it, and
words are left. -/
def mayParse (s : State) (q : Nat) : Bool :=
  let v := getQueue s q
  v.state = .active && !v.resetting && !v.stopped && v.hold.isNone && v.ridx != v.widx && s.hub.boot = .ready &&
    !muted s (queueOwner s q).1 && !([FePart.launch, .act, .record].any (heldPart s q))

/-- The packet at the head of a queue that may parse. -/
def headPacket (s : State) (q : Nat) : Head :=
  if !mayParse s q then .wait s
  else match packetWords s q 0 1 with
    | .hold s => .wait s
    | .fail s c => .bad s c
    | .ok ws s => headOf s q (ws.headD 0)

/-- A queue enters ERROR while it parses (R373, R498). -/
def parseError (s : State) (q : Nat) (c : Cause) : State := queueError (dropQueueFe s q) q c (getQueue s q).ridx

/-- Passes `len` words (R373). -/
def passWords (s : State) (q len : Nat) : State :=
  modQueue (dropFe s (queueWho s q .parse)) q (fun v =>
    { v with ridx := v.ridx + BitVec.ofNat 32 len,
             inl := v.inl.filter (fun e => len ≤ (BitVec.ofNat 32 e.1 - v.ridx).toNat) })

/-- The effect of the packet at the head of queue `q` when its type is `ty`: `act` gives the error that it meets, that it holds, or the
state with the packet's effect and the values of its fields; the packet is then passed and the values become the type's base. A handler
that finds no packet to parse ends (R390). -/
def parsePacket (s0 : State) (q ty : Nat) (act : State → List RWord → Except (Option Cause) State) : State :=
  match headPacket s0 q with
  | .wait s => unassist s 0 q
  | .bad s c => parseError s q c
  | .ok s' typ len mask ws =>
    if typ != ty then s0
    else assisted s' 0 (queueOwner s0 q).1 q q (fun s =>
      let vals := deltaFields ((fieldSizes ty).getD []) mask ws (tabGet [] ty (getQueue s q).bases)
      match act s vals with
      | .error none => unassist s0 0 q
      | .error (some c) => parseError s q c
      | .ok s => modQueue (passWords s q len) q (fun v => { v with bases := tabPut ty vals v.bases }))

/-- A field of two words. -/
def word2 (ws : List RWord) (i : Nat) : Word := BitVec.ofNat 64 ((ws.getD i 0).toNat + 2 ^ 32 * (ws.getD (i + 1) 0).toNat)

/-! ### LAUNCH and INDIRECT -/

/-- Clusters of a partition on this module. -/
def partClusters (s : State) (part : Nat) : List Nat :=
  (List.range clusterCount).filter (fun cl => (tabGet {} part s.parts).clusters.getLsbD cl)

/-- What is wrong with the fields of a LAUNCH or INDIRECT (R372, R374, R447). -/
def launchCause (s : State) (q : Nat) (ws : List RWord) : Option Cause :=
  let part := (queueOwner s q).2
  let w1 := (ws.getD 2 0).toNat
  let nc := w1 % 16
  if (word2 ws 0).toNat % 512 != 0 || (word2 ws 3).toNat % 64 != 0 || nc = 0 || 8 < nc || bitsOf w1 4 12 != 0 then some 0x0A5
  else if tabFind (w1 / 2 ^ 16) s.jobKeys != some part then some 0x0A9
  else if (partClusters s part).length < nc then some 0x0A5
  else none

/-- The launch that the fields name; the pending GANG holds it, or has come too late (R389). -/
def newLaunch (v : Queue) (no : Nat) (ws : List RWord) (wait : Option CountSpec) : PLaunch :=
  { idx := v.ridx, no := no, addr := word2 ws 0, nodes := (ws.getD 2 0).toNat % 16, key := (ws.getD 2 0).extractLsb' 16 16,
    recAddr := word2 ws 3, gang := v.gang, late := v.gangLate, clean := v.clean, wait := wait, count := none }

/-- Takes a launch (R374, R387): the next one may start early unless a FENCE or SIGNAL comes first. -/
def takeLaunch (s : State) (q : Nat) (ws : List RWord) (wait : Option CountSpec) : State :=
  let (no, s) := takeId s
  modQueue s q (fun v => { v with launch := some (newLaunch v no ws wait), gang := none, gangLate := false, clean := true })

/-- Whether a LAUNCH may be parsed: no launch waits, and no bundle of the queue is resident but one that permits the next (R378, R387). -/
def launchRoom (s : State) (q : Nat) : Bool :=
  (getQueue s q).launch.isNone &&
    match residents s q with
    | [] => true
    | [b] => b.2.nextok && (getQueue s q).clean
    | _ => false

/-- LAUNCH (R372). -/
def launchPacket (s : State) (q : Nat) : State :=
  parsePacket s q 1 (fun s ws =>
    match launchCause s q ws with
    | some c => .error (some c)
    | none => if launchRoom s q then .ok (takeLaunch s q ws none) else .error none)

/-- INDIRECT (R372, R388). -/
def indirectPacket (s : State) (q : Nat) : State :=
  parsePacket s q 5 (fun s ws =>
    let c : CountSpec := ⟨word2 ws 5, word2 ws 7, (ws.getD 9 0).toNat, (ws.getD 10 0).toNat⟩
    if c.count.toNat % 4 != 0 || c.ctr.toNat % 4 != 0 || 5 < c.cond then .error (some 0x0A3)
    else match launchCause s q ws with
      | some e => .error (some e)
      | none =>
        if (getQueue s q).launch.isNone && (residents s q).length ≤ 1 then .ok (takeLaunch s q ws (some c)) else .error none)

/-- GANG (R389): it holds the next launch until its tick, or marks it late when the tick has passed; a later GANG replaces it. -/
def gangPacket (s : State) (q : Nat) : State :=
  parsePacket s q 4 (fun s ws =>
    let t := word2 ws 0
    let late := t.toNat < (podTick s).toNat
    .ok (modQueue s q (fun v => { v with gang := if late then none else some t, gangLate := late })))

/-- GANG_TICK_REACHED: the launch that the GANG holds may start (R389). -/
def gangTick (s : State) (q : Nat) : State :=
  match (getQueue s q).launch with
  | some l =>
    if l.gang.any (fun t => t.toNat ≤ (podTick s).toNat) then modQueue s q (fun v => { v with launch := some { l with gang := none } }) else s
  | none => s

/-- A failed access of a queue's launch: the queue enters ERROR at the launch's packet, which is not dispatched (R373, R498). -/
def launchError (s : State) (q : Nat) (c : Cause) : State :=
  match (getQueue s q).launch with
  | none => s
  | some l => modQueue (queueError (dropQueueFe s q) q c l.idx) q (fun v => { v.dropLaunch with hold := v.hold })

/-- A counter that the front end reads with acquire at system scope, and whether it meets its condition (R295, R317). -/
def counterMet (s : State) (w : FeWho) (a : Word) (cond v : Nat) : FAcc Bool :=
  (feRead s w a.toNat 4).bind (fun bs s => .ok (waitMet cond 32 (leNat bs) v 0 true) s)

/-- The count of an INDIRECT is read (R388). -/
def readCount (s : State) (q : Nat) (l : PLaunch) (c : CountSpec) : State :=
  let w := queueWho s q .launch
  match feRead s w c.count.toNat 4 with
  | .hold s => s
  | .fail s e => launchError s q e
  | .ok bs s => modQueue (dropFe s w) q (fun v => { v with launch := some { l with wait := none, count := some (leNat bs) } })

/-- INDIRECT_DISPATCH: with no counter once the predecessor has retired, with a counter once it meets its condition (R388). -/
def indirectDispatch (s : State) (q : Nat) : State :=
  let v := getQueue s q
  match v.launch with
  | none => s
  | some l => match l.wait with
    | none => s
    | some c =>
      if v.state != .active || v.resetting || l.gang.isSome then s
      else if c.ctr = 0 then (if (residents s q).isEmpty then readCount s q l c else s)
      else if 1 < (residents s q).length then s
      else match counterMet s (queueWho s q .launch) c.ctr c.cond c.value with
        | .hold s => s
        | .fail s e => launchError s q e
        | .ok ok s' => if ok then readCount s' q l c else s

/-! ### FENCE -/

/-- A present counter of a FENCE: address, condition, value. -/
def fenceCounters : Nat → Nat → List RWord → List (Word × Nat × Nat)
  | 0, _, _ => []
  | n + 1, mask, ws =>
    if mask % 2 = 1 then (word2 ws 0, (ws.getD 2 0).toNat, (ws.getD 3 0).toNat) :: fenceCounters n (mask / 2) (ws.drop 4)
    else fenceCounters n (mask / 2) ws

/-- FENCE: parsing waits for its counters from now on (R372). It keeps no base values (R371). -/
def fencePacket (s : State) (q : Nat) : State :=
  match headPacket s q with
  | .wait s => unassist s 0 q
  | .bad s c => parseError s q c
  | .ok s' typ len mask ws =>
    if typ != 2 then s
    else assisted s' 0 (queueOwner s q).1 q q (fun s =>
      let cs := fenceCounters 16 mask ws
      if cs.any (fun c => c.1.toNat % 4 != 0 || 5 < c.2.1) then parseError s q 0x0A3
      else modQueue s q (fun v => { v with hold := some (cs, len) }))

/-- Whether every counter of a list meets its condition. -/
def countersMet (w : FeWho) : List (Word × Nat × Nat) → State → FAcc Bool
  | [], s => .ok true s
  | (a, c, v) :: rest, s => (counterMet s w a c v).bind (fun ok s => if ok then countersMet w rest s else .ok false s)

/-- FENCE_COUNTERS_MET: every present counter meets its condition, and the FENCE is passed (R295, R372). -/
def fenceMet (s : State) (q : Nat) : State :=
  let v := getQueue s q
  match v.hold with
  | none => s
  | some (cs, len) =>
    if v.state != .active || v.resetting then s
    else match countersMet (queueWho s q .parse) cs s with
      | .hold s => s
      | .fail s c => modQueue (parseError s q c) q (fun v => { v with hold := none })
      | .ok ok s' => if ok then modQueue (passWords s' q len) q (fun v => { v with hold := none, clean := false }) else s

/-! ### SIGNAL and TIMESTAMP -/

/-- A SIGNAL or TIMESTAMP joins those that wait for earlier bundles (R372). -/
def takeAct (s : State) (q : Nat) (addr value : Word) (op : Option Nat) : State :=
  let (no, s) := takeId s
  modQueue s q (fun v => { v with acts := v.acts ++ [⟨v.ridx, no, addr, value, op⟩] })

/-- SIGNAL (R372, R387). -/
def signalPacket (s : State) (q : Nat) : State :=
  parsePacket s q 3 (fun s ws =>
    if (word2 ws 0).toNat % 8 != 0 || 2 < (ws.getD 4 0).toNat then .error (some 0x0A3)
    else .ok (modQueue (takeAct s q (word2 ws 0) (word2 ws 2) (some (ws.getD 4 0).toNat)) q (fun v => { v with clean := false })))

/-- TIMESTAMP (R372). -/
def timestampPacket (s : State) (q : Nat) : State :=
  parsePacket s q 6 (fun s ws =>
    if (word2 ws 0).toNat % 8 != 0 then .error (some 0x0A3) else .ok (takeAct s q (word2 ws 0) 0 none))

/-- The oldest SIGNAL or TIMESTAMP of a queue, when every bundle parsed before it has retired and its function is not under reset
(R372, R379, R479). -/
def dueAct (s : State) (q : Nat) : Option PAct :=
  let v := getQueue s q
  match v.acts with
  | [] => none
  | a :: _ =>
    if (residents s q).any (fun b => b.2.seq < a.no) || v.launch.any (fun l => l.no < a.no) || muted s (queueOwner s q).1 then none
    else some a

/-- The oldest SIGNAL or TIMESTAMP is done with. -/
def dropAct (s : State) (q : Nat) : State :=
  modQueue (dropFe s (queueWho s q .act)) q (fun v => { v with acts := v.acts.tail })

/-- What follows an access for a SIGNAL or TIMESTAMP (R498). -/
def actDone (q : Nat) (a : PAct) (r : FAcc Unit) : State :=
  match r with
  | .hold s => s
  | .ok _ s => dropAct s q
  | .fail s c => queueError (dropAct s q) q c a.idx

/-- An addition to the 8 bytes at an address, in one step at their home. -/
def feAdd (s : State) (w : FeWho) (a : Nat) (v : Word) : FAcc Unit :=
  (feTargets w needBoth [(a, 8)] [] s).bind (fun l s =>
    .ok () (l.foldl (fun s p => writeHome s (.mem p.1) (leBytes 8 (leNat (readHome s (.mem p.1) 8) + v.toNat))) s))

/-- SIGNAL_PERFORM (R372, R451). -/
def signalPerform (s : State) (q : Nat) : State :=
  match dueAct s q with
  | none => s
  | some a =>
    let fn := (queueOwner s q).1
    let w := queueWho s q .act
    match a.op with
    | none => s
    | some 0 => actDone q a (feWrite s w a.addr.toNat (wordBytes 8 a.value))
    | some 1 => actDone q a (feAdd s w a.addr.toNat a.value)
    | some _ =>
      assisted s 2 fn q q (fun s =>
        match fireEntry s fn (a.value.toNat % 4096) with
        | some s => dropAct s q
        | none => queueError (dropAct s q) q 0x0A8 a.idx)

/-- TIMESTAMP_WRITE (R372). -/
def timestampWrite (s : State) (q : Nat) : State :=
  match dueAct s q with
  | none => s
  | some a => match a.op with
    | some _ => s
    | none => actDone q a (feWrite s (queueWho s q .act) a.addr.toNat (wordBytes 8 (podTick s)))

/-! ### Refused accesses -/

/-- The cause with which an access of a queue's agent has been refused. -/
def refusedPart (s : State) (q : Nat) (p : FePart) (cause : Cause) : Bool :=
  s.faults.any (fun f => feRecord (queueWho s q p) f && f.refused = some cause)

/-- FRONT_END_ACCESS_FAULT: an access of a queue has been refused with a cause; the queue enters ERROR (R498). -/
def accessRefused (s : State) (q : Nat) (cause : Cause) : State :=
  if refusedPart s q .parse cause then modQueue (parseError s q cause) q (fun v => { v with hold := none })
  else if refusedPart s q .launch cause then launchError s q cause
  else if refusedPart s q .act cause then
    match (getQueue s q).acts with
    | a :: _ => queueError (dropAct s q) q cause a.idx
    | [] => s
  else s

/-- PAD (R372). -/
def execEvPad (q : Nat) (s : State) : Out := .next (parsePacket s q 0 (fun s _ => .ok s))
/-- LAUNCH (R372). -/
def execEvLaunch (q : Nat) (s : State) : Out := .next (launchPacket s q)
/-- FENCE (R372). -/
def execEvFencePacket (q : Nat) (s : State) : Out := .next (fencePacket s q)
/-- FENCE_COUNTERS_MET (R295). -/
def execEvFenceCountersMet (q : Nat) (s : State) : Out := .next (fenceMet s q)
/-- SIGNAL (R372). -/
def execEvSignal (q : Nat) (s : State) : Out := .next (signalPacket s q)
/-- SIGNAL_PERFORM (R379). -/
def execEvSignalPerform (q : Nat) (s : State) : Out := .next (signalPerform s q)
/-- GANG (R389). -/
def execEvGang (q : Nat) (s : State) : Out := .next (gangPacket s q)
/-- GANG_TICK_REACHED (R389). -/
def execEvGangTickReached (q : Nat) (s : State) : Out := .next (gangTick s q)
/-- INDIRECT (R388). -/
def execEvIndirect (q : Nat) (s : State) : Out := .next (indirectPacket s q)
/-- INDIRECT_DISPATCH (R388). -/
def execEvIndirectDispatch (q : Nat) (s : State) : Out := .next (indirectDispatch s q)
/-- TIMESTAMP (R372). -/
def execEvTimestamp (q : Nat) (s : State) : Out := .next (timestampPacket s q)
/-- TIMESTAMP_WRITE (R379). -/
def execEvTimestampWrite (q : Nat) (s : State) : Out := .next (timestampWrite s q)
/-- NOP (R372). -/
def execEvNopPacket (q : Nat) (s : State) : Out := .next (parsePacket s q 7 (fun s _ => .ok s))
/-- FRONT_END_ACCESS_FAULT (R498). -/
def execEvFrontEndAccessFault (q : Nat) (cause : Cause) (s : State) : Out := .next (accessRefused s q cause)

end Sys2Proof.Machine
end

