-- ==== Sys2Proof/Machine/Launch.lean ====
section
/-!
DEFINITION. Bundles on the module (R374–R379, R384, R387, R388): node records and their checks, residency, readiness of X nodes, and the
retirement of nodes and bundles.
-/

namespace Sys2Proof.Machine

/-! ### Node records (R249, R375, R377, R380) -/

/-- The node that a 64-byte record describes. -/
def recordNode (r : List Byte) : Node :=
  let u (o n : Nat) : Nat := leNat ((r.drop o).take n)
  { kind := BitVec.ofNat 3 (u 0 1), group := bitsOf (u 1 1) 4 3, pri := BitVec.ofNat 2 (u 1 1), succ := BitVec.ofNat 8 (u 3 1),
    poolpw := BitVec.ofNat 32 (u 4 4), pc := BitVec.ofNat 48 (u 8 8), pcend := BitVec.ofNat 48 (u 56 8),
    lo := BitVec.ofNat 64 (u 16 8), hi := BitVec.ofNat 64 (u 24 8), widths := (List.range 6).map (fun j => u (32 + j) 1),
    hcount := u 38 1, htab := BitVec.ofNat 64 (u 40 8), list := BitVec.ofNat 64 (u 48 8), deps := u 2 1,
    ready := false, retired := false, held := false, clusters := [] }

/-- Whether a kind of node runs a program: M, V and X (R375–R377). -/
def kindRuns (k : Nat) : Bool := k = 0 || k = 1 || k = 4

/-- Whether the fields of record `i` of `nc` are those of R375. -/
def recordFields (r : List Byte) (i nc : Nat) : Bool :=
  let u (o n : Nat) : Nat := leNat ((r.drop o).take n)
  let kind := u 0 1
  kind ≤ 4 && bitsOf (u 1 1) 7 1 = 0 && bitsOf (u 1 1) 2 2 = 0 && u 3 1 < 2 ^ nc && bitsOf (u 3 1) i 1 = 0 && u 8 8 < 2 ^ 48 &&
    u 16 8 ≤ u 24 8 && ((List.range 6).map (fun j => u (32 + j) 1)).sum ≤ 64 && u 38 1 ≤ 31 && u 39 1 = 0 && u 40 8 % 32 = 0 &&
    (if kindRuns kind then u 48 8 = 0 && u 56 8 < 2 ^ 48 && u 8 8 < u 56 8 else u 48 8 % 128 = 0 && u 56 8 = 0)

/-- The cause that refuses record `i` of `nc` (R249, R375, R377, R380). -/
def recordCause (r : List Byte) (i nc : Nat) : Option Cause :=
  let v := recordNode r
  if !recordFields r i nc then some 0x0A5
  else if !pwValid v.poolpw.toNat || (v.kind = 0 && pwAcc v.poolpw = 0) || (v.kind = 4 && pwAcc v.poolpw != 0) then some 0x0A1
  else if v.group = 7 || v.lo.toNat % v.gsize != 0 || 4 * pwCtx v.poolpw < v.gsize then some 0x0A6
  else none

/-- The nodes of a bundle's records, or the cause of the first one that is refused. -/
def recordNodes (nc : Nat) : Nat → Nat → List Byte → Except Cause (List Node)
  | 0, _, _ => .ok []
  | n + 1, i, bs =>
    match recordCause (bs.take 64) i nc with
    | some c => .error c
    | none => match recordNodes nc n (i + 1) (bs.drop 64) with
      | .error c => .error c
      | .ok l => .ok (recordNode (bs.take 64) :: l)

/-- An INDIRECT's node 0 has hi := lo + count (R372). -/
def countNodes : Option Nat → List Node → List Node
  | some c, v :: l => { v with hi := v.lo + BitVec.ofNat 64 c } :: l
  | _, l => l

/-! ### Residency (R374, R387) -/

/-- Whether a cluster can take a node of a tenant and partition: it runs none, it holds nothing of another tenant or partition that has
not been scrubbed (R445), no node has been pre-empted off it since its last scrub (R444), and no pre-emption holds it. -/
def clusterFree (s : State) (cl tenant part : Nat) : Bool :=
  let c := getCluster s cl
  c.node.isNone && !c.switch && c.owner.all (fun o => o = (tenant, part)) && !noDispatch s cl && mayStart s cl

/-- Whether a choice of clusters, as pairs of a node and a cluster, gives each of `nc` nodes at least one (R374). -/
def placesOk (s : State) (tenant part nc : Nat) (places : NatPairs) : Bool :=
  let cls := places.map (·.2)
  places.all (fun p => p.1 < nc && (partClusters s part).contains p.2 && clusterFree s p.2 tenant part) &&
    cls.eraseDups.length = cls.length && (List.range nc).all (fun n => places.any (fun p => p.1 = n))

/-- Whether a launch waits only for room. -/
def PLaunch.free (l : PLaunch) : Bool := l.gang.isNone && l.wait.isNone

/-- Whether a launch is the first of its partition in the order of parsing (R374). -/
def firstLaunch (s : State) (q : Nat) (l : PLaunch) : Bool :=
  !s.queues.any (fun v => v.1 != q && (queueOwner s v.1).2 = (queueOwner s q).2 && v.2.state = .active &&
    v.2.launch.any (fun k => k.free && k.no < l.no))

/-- A cluster is reserved for node `n` of job `b`; the caches of its cores are invalidated (R63, R263). -/
def placeNode (b : Nat) (nodes : List Node) (tenant part : Nat) (s : State) (p : Nat × Nat) : State :=
  let s := (List.range 4).foldl (fun s i => modCore s (4 * p.2 + i) (fun k => { k with l1 := [], ic := [] })) s
  modCluster s p.2 (fun c => { c with node := some (b, p.1), poolpw := (nodes[p.1]?).elim 0 Node.poolpw, owner := some (tenant, part) })

/-- The communicators of job `b` that job setup writes; each has 2 to 2^24 participants, and those from 4,088 on are
left to X nodes (R350, R377). -/
def setupComms (s : State) (b : Nat) : State :=
  let (n, s) := takeFresh s
  let given := (Config.jobComms n).filter (fun c => c.1 < 4088 && 2 ≤ c.2.1.length && c.2.1.length ≤ 2 ^ 24)
  { s with comms := given.foldl (fun l c => tabPut (b * 4096 + c.1) { ranks := c.2.1, eth := c.2.2 } l) s.comms }

/-- The bundle of a launch with its nodes becomes resident, and its ready nodes are dispatched (R374, R378). -/
def makeResident (s : State) (q : Nat) (l : PLaunch) (nodes : List Node) (places : NatPairs) : State :=
  let (fn, part) := queueOwner s q
  let tenant := (getFn s fn).tenant
  let (b, s) := takeId s
  let nodes := (countNodes l.count nodes).zipIdx.map (fun v =>
    { v.1 with clusters := (places.filter (fun p => p.1 = v.2)).map (·.2) })
  let pred := ((residents s q).getLast?).map (·.1)
  let v : Bundle :=
    { queue := q, addr := l.addr, recAddr := l.recAddr, key := l.key, nodes := nodes, resident := podTick s, nextok := false, pred := pred,
      late := l.late, logged := false, cause := 0, executed := 0, flags := 0, destroyed := false, discarded := false, counters := [],
      retired := false, seq := l.no }
  let s := setupComms { s with bundles := s.bundles ++ [(b, v)] } b
  let s := places.foldl (placeNode b nodes tenant part) s
  let s := modQueue s q (fun v => { v with launch := none, late := v.late || l.late })
  (List.range nodes.length).foldl (fun s n => readyIfZero s b n) s

/-- The key of a queue's dispatch among host-assisted requests (R391). -/
def dispatchKey (q : Nat) : Nat := 2 ^ 20 + q

/-- Whether a launch of a queue may become resident as soon as clusters are free for it; `early` when a predecessor is still resident after
NEXTOK (R374, R387, R388). -/
def launchMay (s : State) (q : Nat) (l : PLaunch) (early : Bool) : Bool :=
  let v := getQueue s q
  let rs := residents s q
  v.state = .active && !v.resetting && !v.stopped && !muted s (queueOwner s q).1 && s.hub.boot = .ready && l.free && firstLaunch s q l &&
    (if early then (match rs with
        | [b] => b.2.nextok && l.clean && l.count.isNone
        | _ => false)
      else rs.isEmpty || (l.count.isSome && rs.length ≤ 1))

/-- The launch of a queue becomes resident on chosen clusters; `early` when a predecessor is still resident after NEXTOK (R387). -/
def startLaunch (s0 : State) (q : Nat) (places : NatPairs) (early : Bool) : State :=
  match (getQueue s0 q).launch with
  | none => s0
  | some l =>
    let (fn, part) := queueOwner s0 q
    if !launchMay s0 q l early || !placesOk s0 (getFn s0 fn).tenant part l.nodes places then s0
    else assisted s0 0 fn q (dispatchKey q) (fun s =>
      match feRead s (queueWho s q .launch) l.addr.toNat (64 * l.nodes) with
      | .hold s => s
      | .fail s c => launchError s q c
      | .ok bs s =>
        match recordNodes l.nodes l.nodes 0 bs with
        | .error c => launchError s q c
        | .ok nodes => makeResident (dropFe s (queueWho s q .launch)) q l nodes places)

/-- Adds a participant to a list in ascending order of pod die and then cluster, unless it is there (R377). -/
def addRank (r : Nat × Nat) : List (Nat × Nat) → List (Nat × Nat)
  | [] => [r]
  | p :: l => if r = p then p :: l else if r.1 < p.1 || (r.1 = p.1 && r.2 < p.2) then r :: p :: l else p :: addRank r l

/-- X_NODE_READY: the counters of node `n` and of its partners on the job's other modules are zero; the front end writes communicator
4,095 − n, and the node is dispatched (R377). `partners` are the clusters of the partners as pod die and cluster of the die. -/
def xReady (s : State) (b n : Nat) (partners : NatPairs) : State :=
  match nodeOf s b n with
  | none => s
  | some v =>
    if !v.isX || v.deps != 0 || v.ready then s
    else
      let own := v.clusters.map (fun cl => (podDie s (cl / 12), cl % 12))
      let ranks := (own ++ partners).foldr addRank []
      dispatchNode { s with comms := tabPut (b * 4096 + (4095 - n)) { ranks := ranks } s.comms } b n

/-! ### Retirement (R379, R384) -/

/-- Whether a node's work has ended: its range is exhausted, its continuations have ended, also those halted for an image, its operations are
terminal (R379). -/
def nodeDone (s : State) (b n : Nat) : Bool :=
  let mine (x y : Nat) : Bool := x = b && y = n
  !s.pieces.any (fun p => mine p.bundle p.node && p.open) && !(liveConts s).any (fun k => mine k.bundle k.node) &&
    !s.planners.any (fun p => p.2.saved.any (fun v => mine v.x.cont.bundle v.x.cont.node)) &&
    !s.clusters.any (fun c => c.2.toks.any (fun t => mine t.2.bundle t.2.node && !t.2.state.terminal))

/-- NODE_RETIRE: its clusters are free, and its successors' counters are decremented (R378, R379). -/
def nodeRetire (s : State) (b n : Nat) : State :=
  match nodeOf s b n with
  | none => s
  | some v =>
    if !v.ready || v.retired || v.held || !nodeDone s b n then s
    else
      let s := modNode s b n (fun v => { v with retired := true })
      let s := { s with pieces := s.pieces.filter (fun p => !(p.bundle = b && p.node = n)) }
      let s := v.clusters.foldl (fun s cl => modCluster s cl (fun c => { c with node := none })) s
      decMask s b v.succ

/-- The completion record of a job (R265, R384); a discarded job is not marked done, as the records of the eviction program show. -/
def completionRecord (s : State) (v : Bundle) : List Byte :=
  let flag (b : Bool) (n : Nat) : Nat := if b then n else 0
  let status := flag (!v.discarded) 1 + flag v.late 2 + flag v.logged 4 + flag v.destroyed 8 + flag v.discarded 16
  let declared := (v.nodes.map (fun n => n.hi - n.lo)).foldl (· + ·) 0
  leBytes 4 status ++ leBytes 4 v.cause.toNat ++ wordBytes 8 declared ++ leBytes 8 v.executed ++ leBytes 8 v.flags.toNat ++
    wordBytes 8 v.resident ++ wordBytes 8 (podTick s) ++ List.replicate 16 0 ++
    (List.range 256).flatMap (fun t => leBytes 6 (tabGet 0 t v.counters) ++ leBytes 6 (tabGet 0 t v.stalls))

/-- The entries that a bundle's nodes hold are released (R482). -/
def releaseHeld (s : State) (b : Nat) : State :=
  (s.clusters.flatMap (fun c => (c.2.toks.filter (fun t => t.2.bundle = b && t.2.owner.isNone)).map (fun t => (c.1, t.1)))).foldl
    (fun s p => settleTok (modTok s p.1 p.2 (fun t => { t with held := false, released := true })) p.1 p.2) s

/-- A bundle leaves the module: its communicators go with it, and its queue may end a reset or a destroy (R366, R379, R392). -/
def removeBundle (s : State) (b q : Nat) : State :=
  let s := releaseHeld s b
  settleQueue { dropFe s (queueWho s q .record) with
    bundles := tabDel b s.bundles, comms := s.comms.filter (fun e => e.1 / 4096 != b), colls := s.colls.filter (fun e => e.1 / 2 ^ 44 != b) } q

/-- BUNDLE_RETIRE: every node has retired and every write of the job has been applied (R303, R379). A record that cannot be written puts
the queue into ERROR, and the bundle retires all the same (R498); nothing is written for a function under reset (R479). -/
def bundleRetire (s : State) (b : Nat) : State :=
  match tabFind b s.bundles with
  | none => s
  | some v =>
    if !v.nodes.all Node.retired || s.net.any (fun p => p.bundle = b && !p.applied && !p.refused) then s
    else if muted s (jobFn s b) then removeBundle s b v.queue
    else
      match feWrite s (queueWho s v.queue .record) v.recAddr.toNat (completionRecord s v) with
      | .hold s => s
      | .ok _ s => removeBundle s b v.queue
      | .fail s c => removeBundle (queueError s v.queue c (getQueue s v.queue).ridx) b v.queue

/-- BUNDLE_RESIDENT (R374). -/
def execEvBundleResident (q : Nat) (places : NatPairs) (s : State) : Out := .next (startLaunch s q places false)
/-- EARLY_START (R387). -/
def execEvEarlyStart (q : Nat) (places : NatPairs) (s : State) : Out := .next (startLaunch s q places true)
/-- X_NODE_READY (R377). -/
def execEvXNodeReady (b n : Nat) (partners : NatPairs) (s : State) : Out := .next (xReady s b n partners)
/-- NODE_RETIRE (R379). -/
def execEvNodeRetire (b n : Nat) (s : State) : Out := .next (nodeRetire s b n)
/-- BUNDLE_RETIRE (R379). -/
def execEvBundleRetire (b : Nat) (s : State) : Out := .next (bundleRetire s b)

end Sys2Proof.Machine
end

