-- ==== Sys2Proof/Machine/Mailbox.lean ====
section
/-!
DEFINITION. The authority mailbox (R426): allocation slots, minting for drivers, revocation (R436), key rotation (R440–R443), endpoint
tables (R435), and the scrub of a cluster (R444, R445).
-/

namespace Sys2Proof.Machine

/-- The mailbox of a function. -/
def getAuth (s : State) (fn : Nat) : Auth := tabGet {} fn s.auths

/-- Changes the mailbox of a function. -/
def modAuth (s : State) (fn : Nat) (f : Auth → Auth) : State := { s with auths := tabMod {} fn f s.auths }

/-- `n` bytes of a command from byte `o`, as a number. -/
def cmdNat (cmd : List Byte) (o n : Nat) : Nat := leNat ((cmd.drop o).take n)

/-- Whether every byte of a command that no field names is zero. -/
def zeroBut (cmd : List Byte) (fields : List (Nat × Nat)) : Bool :=
  (List.range 64).all (fun i => fields.any (fun f => f.1 ≤ i && i < f.1 + f.2) || cmd.getD i 0 = 0)

/-- The fields of each command (R426), by its code. -/
def authFields : Nat → List (Nat × Nat)
  | 1 => [(8, 18)]
  | 2 => [(8, 4), (16, 24)]
  | 3 => [(8, 4)]
  | 4 => [(8, 4)]
  | 5 => [(8, 2)]
  | 6 => [(8, 3), (12, 2), (16, 48)]
  | _ => []

/-- The function whose guest a tenant is. -/
def tenantFn (s : State) (tenant : Nat) : Option Nat :=
  match s.fns.find? (fun f => f.2.tenant = tenant) with
  | some f => some f.1
  | none => if (getFn s 0).tenant = tenant then some 0 else none

/-- The function for whose tenant a command acts: the physical function names any tenant, a virtual function its own (R426). -/
def cmdFn (s : State) (fn : Nat) (cmd : List Byte) : Option Nat := if fn = 0 then tenantFn s (cmdNat cmd 2 2) else some fn

/-- A command ends with a status; only ALLOC returns a slot. -/
def authStatus (s : State) (fn : Nat) (st : Nat) : State :=
  modAuth s fn (fun a => { a with busy := false, status := BitVec.ofNat 8 st, slotNo := 0, gen := 0 })

/-! ### Slots -/

/-- Changes an allocation slot of an address space. -/
def modSlot (s : State) (space slot : Nat) (f : Slot → Slot) : State := { s with slots := tabMod {} (slotKey space slot) f s.slots }

/-- The slots that serve ALLOC (R427). -/
def firstSlot : Nat := 0x40

/-- A free slot of an address space. -/
def freeSlot (s : State) (space : Nat) : Option Nat :=
  ((List.range (s.slots.length + 1)).map (· + firstSlot)).find? (fun k =>
    let v := tabGet {} (slotKey space k) s.slots
    k < 2 ^ 20 && !v.live && !v.revoking && !v.retired)

/-- Whether the arguments of ALLOC are those of an allocation that handles can name (R346, R422). -/
def allocArgsOk (base len kind : Nat) : Bool :=
  len != 0 && kind ≤ 3 && (if kind = 0 then base + len ≤ 2 ^ 57 else base + len ≤ 2 ^ 64)

/-- ALLOC (R426). How much memory is free is the memory processor's: status 4 is then free. -/
def allocCmd (s : State) (fn tf : Nat) (cmd : List Byte) : State :=
  let space := fnSpace s tf (getFn s tf).part
  let base := cmdNat cmd 8 8
  let len := cmdNat cmd 16 8
  if !allocArgsOk base len (cmdNat cmd 25 1) then authStatus s fn 5
  else match freeSlot s space with
    | none => authStatus s fn 4
    | some k =>
      let (short, s) := takeBit s
      if short then authStatus s fn 4
      else
        let s := modSlot s space k (fun v =>
          { v with live := true, base := BitVec.ofNat 64 base, len := len, rights := cmd.getD 24 0, kind := cmd.getD 25 0 })
        modAuth s fn (fun a => { a with busy := false, status := 0, slotNo := k, gen := slotGen s space k })

/-- The request of MINT (R426). -/
def mintReq (cmd : List Byte) : MintReq :=
  { slot := cmdNat cmd 8 4, base := leWord 64 ((cmd.drop 16).take 8), extent := cmdNat cmd 24 6, rights := cmd.getD 30 0,
    kind := cmdNat cmd 31 1 }

/-- The agent that writes a minted handle to a tenant's memory. -/
def mintWho (s : State) (fn tf : Nat) : FeWho := ⟨false, 2 ^ 32 + fn, tf, fnSpace s tf (getFn s tf).part⟩

/-- MINT (R425, R426). The command stays busy while the destination is being
served; a destination that cannot be written is out of range. -/
def mintCmd (s : State) (fn tf : Nat) (cmd : List Byte) : State :=
  let space := fnSpace s tf (getFn s tf).part
  let dst := cmdNat cmd 32 8
  let w := mintWho s fn tf
  if dst % 32 != 0 then authStatus s fn 5
  else match mintStatus s space tf (mintReq cmd) with
    | 0 =>
      match feWrite s w dst (leBytes 32 (mintBits s space (mintReq cmd)).toNat) with
      | .hold s => modAuth s fn (fun a => { a with busy := true })
      | .fail s _ => authStatus (dropFe s w) fn 5
      | .ok _ s => authStatus (dropFe s w) fn 0
    | st => authStatus s fn st

/-! ### Revocation (R436) -/

/-- REVOKE and FREE: accepted when no revocation of the function is in progress and the slot is a live one of the tenant. -/
def revokeCmd (s : State) (fn tf : Nat) (cmd : List Byte) (freeing : Bool) : State :=
  let space := fnSpace s tf (getFn s tf).part
  let slot := cmdNat cmd 8 4
  let v := tabGet {} (slotKey space slot) s.slots
  let a := getAuth s fn
  if 2 ^ 20 ≤ slot then authStatus s fn 5
  else if a.phase = 1 || a.phase = 2 then authStatus s fn 8
  else if slot < firstSlot || !v.live || v.revoking then authStatus s fn 2
  else
    let s := modSlot s space slot (fun v => { v with revoking := true })
    modAuth (authStatus s fn 0) fn (fun a =>
      { a with phase := 1, space := space, revSlot := slot, oldGen := v.gen, freeing := freeing, swept := false, remaining := 0 })

/-- Whether an operation of an address space captured a handle of the revoked slot with the old generation. -/
def captured (s : State) (a : Auth) (t : TokEntry) : Bool :=
  jobSpace s t.bundle = a.space && t.op.hs.any (fun h => hSlot h.bits = a.revSlot && hGen h.bits = a.oldGen)

/-- The captured operations that are not terminal. -/
def capturedOpen (s : State) (a : Auth) : Nat :=
  (s.clusters.flatMap (fun c => c.2.toks.filter (fun t => captured s a t.2 && !t.2.state.terminal))).length

/-- Reports the operations of a sweep that are not terminal. -/
def noteRemaining (s : State) (fn : Nat) : State := modAuth s fn (fun a => { a with remaining := capturedOpen s a })

/-- The location of the fault record of a swept operation: the first captured handle of the slot (R396, R429). -/
def sweptWhere (a : Auth) (o : Op) : Word :=
  match (o.hs.zip o.hregs).find? (fun h => hSlot h.1.bits = a.revSlot && hGen h.1.bits = a.oldGen) with
  | some h => handleWhere h.1 h.2
  | none => 0

/-- Every operation that captured a handle of the slot is asked to stop with 0x311 (R436, R499). -/
def sweepOps (s : State) (a : Auth) : State :=
  (s.clusters.flatMap (fun c => (c.2.toks.filter (fun t => captured s a t.2 && !t.2.state.terminal)).map (fun t => (c.1, t.1, sweptWhere a t.2.op)))).foldl
    (fun s p => stopOp s p.1 p.2.1 0x311 p.2.2) s

/-- The sweep stops every operation that captured a handle of the slot (R436 phase 2); it may be host-assisted (R391). -/
def sweep (s : State) (fn : Nat) : State :=
  assisted s 4 fn sweepSource fn (fun s =>
    let a := getAuth s fn
    noteRemaining (modAuth (sweepOps s a) fn (fun a => { a with swept := true })) fn)

/-- REVOCATION_TABLES_DONE: every die has acknowledged the slot's new generation, and the sweep begins (R427, R436). -/
def tablesDone (s : State) (fn : Nat) : State :=
  let a := getAuth s fn
  if a.phase != 1 then s
  else
    let s := modSlot s a.space a.revSlot (fun v => if v.gen + 1 < 2 ^ 20 then { v with gen := v.gen + 1 } else { v with retired := true, gen := v.gen + 1 })
    sweep (modAuth s fn (fun a => { a with phase := 2 })) fn

/-- The pages of an allocation, from a virtual address, are written zero (R436). Pages that are not mapped have no memory. -/
def zeroPages (space fn : Nat) : List (Nat × Nat) → State → State
  | [], s => s
  | (a, n) :: rest, s =>
    match translate s space fn (Vector.replicate 12 none) ⟨false, false, false⟩ a with
    | .error _ => zeroPages space fn rest s
    | .ok tr => zeroPages space fn rest { s with mem := memClear s.mem tr.pa n, badMem := clearBad s.badMem tr.pa n }

/-- A freed slot's memory is zeroed, and the slot may be taken again (R426, R436). -/
def freeMemory (s : State) (fn : Nat) (a : Auth) : State :=
  let v := tabGet {} (slotKey a.space a.revSlot) s.slots
  let s := if v.kind = 0 then zeroPages a.space fn (pageRuns v.base.toNat v.len) s else s
  modSlot s a.space a.revSlot (fun v => { v with live := false, base := 0, len := 0, rights := 0, kind := 0 })

/-- REVOCATION_COMPLETE: no captured operation is left (R436 phase 3). -/
def revocationDone (s : State) (fn : Nat) : State :=
  let a := getAuth s fn
  if a.phase != 2 then s
  else if !a.swept then sweep s fn
  else if capturedOpen s a != 0 then noteRemaining s fn
  else
    let s := if a.freeing then freeMemory s fn a else s
    let s := modSlot s a.space a.revSlot (fun v => { v with revoking := false })
    modAuth s fn (fun a => { a with phase := 3, remaining := 0 })

/-! ### Key rotation (R439–R443) -/

/-- Changes a key domain. -/
def modDomain (s : State) (kd : Nat) (f : KeyDomain → KeyDomain) : State := { s with domains := tabMod {} kd f s.domains }

/-- ROTATE (R440): the domain is one of the tenant's and active. -/
def rotateCmd (s : State) (fn tf : Nat) (cmd : List Byte) : State :=
  let kd := cmdNat cmd 8 2
  let d := tabGet {} kd s.domains
  if 4096 ≤ kd then authStatus s fn 5
  else if fn != 0 && (d.state = 0 || d.owner != (getFn s tf).tenant) then authStatus s fn 6
  else if d.state != 1 then authStatus s fn 7
  else authStatus (modDomain s kd (fun d => { d with state := 2, marks := [] })) fn 0

/-- Lines of a stack, and of a granule. -/
def stackLines : Nat := 2 ^ 30
def granuleLines : Nat := 2 ^ 18

/-- The first line from `m` that lies in a granule of the domain; the end of the stack when there is none (R440). -/
def nextLine (kd g0 : Nat) : Nat → Nat → Nat
  | 0, _ => stackLines
  | n + 1, m =>
    if stackLines ≤ m then stackLines
    else if Config.domainOwns kd (g0 + m / granuleLines) then m
    else nextLine kd g0 n ((m / granuleLines + 1) * granuleLines)

/-- The physical address of the first byte of module stack `stack` (R251). -/
def stackBase (s : State) (stack : Nat) : Nat := podDie s (stack / 4) * 2 ^ 38 + stack % 4 * 2 ^ 36

/-- A rotation whose marks have all reached the end of their stacks ends (R443). -/
def settleRotation (s : State) (kd : Nat) : State :=
  modDomain s kd (fun d =>
    if d.state = 2 && (List.range 16).all (fun k => stackLines ≤ tabGet 0 k d.marks) then
      { d with state := 1, version := (d.version + 1) % 256 } else d)

/-- ROTATION_WALKER_STEP: a walker passes one line, which keeps its data; a line whose tag fails stays so, and is posted (R440–R442).
Re-encryption may be host-assisted (R391). -/
def walkerStep (s : State) (kd stack : Nat) : State :=
  let d := tabGet {} kd s.domains
  if d.state != 2 || 16 ≤ stack || stackLines ≤ tabGet 0 stack d.marks then s
  else assisted s 5 0 (stackSource stack) (kd * 16 + stack) (fun s =>
    let g0 := stackBase s stack / 2 ^ 24
    let t := nextLine kd g0 4097 (tabGet 0 stack d.marks)
    let s := if t < stackLines && tabFind (stackBase s stack / 64 + t) s.badMem = some 0x210 then
        postEvent s 0x210 stack 0 (stackSource stack) (leBytes 8 (stackBase s stack + 64 * t)) else s
    let m := if t < stackLines then nextLine kd g0 4097 (t + 1) else stackLines
    settleRotation (modDomain s kd (fun d => { d with marks := tabPut stack m d.marks })) kd)

/-! ### Endpoint tables (R435) -/

/-- EPSET (R426, R435). The physical function's entry gives an endpoint to the tenant it names; a virtual function names endpoints of its
own tenant. A region's handle is of kind 0 or 1. DESIGN CHOICE (entry 237): the Ethernet port that an endpoint is bound to is fixed by the
configuration, free. -/
def epsetCmd (s : State) (fn tf : Nat) (cmd : List Byte) : State :=
  let f := getFn s tf
  let ep := cmdNat cmd 8 2
  let table := cmdNat cmd 10 1
  let idx := cmdNat cmd 12 2
  let key := f.part * 256 + ep
  let e := tabGet { port := Config.endpointPort key % 4 } key s.endpoints
  if 256 ≤ ep || 2 ≤ table || (if table = 0 then 1024 else 256) ≤ idx || (table = 1 && (cmdNat cmd 49 15 != 0 || 4 ≤ cmdNat cmd 48 1 ||
      1 < hKind (leWord 256 ((cmd.drop 16).take 32)))) then
    authStatus s fn 5
  else if fn != 0 && ((tabFind key s.endpoints).isNone || e.tenant != f.tenant) then authStatus s fn 6
  else
    let e := { e with tenant := f.tenant }
    let e := if table = 0 then { e with peers := tabPut idx (leWord 384 (cmd.drop 16)) e.peers }
      else { e with regions := tabPut idx (leWord 256 ((cmd.drop 16).take 32), cmd.getD 48 0) e.regions }
    authStatus { s with endpoints := tabPut key e s.endpoints } fn 0

/-! ### Commands -/

/-- A command block that is taken (R426). Nothing is done for a virtual function that is not in RUN (R448); DESIGN CHOICE (entry 236): every
command then returns 1. -/
def takeCmd (s : State) (fn : Nat) (cmd : List Byte) : State :=
  let code := cmdNat cmd 0 1
  if code = 0 || 6 < code || cmdNat cmd 1 1 != 0 || (fn != 0 && cmdNat cmd 2 2 != 0) || !zeroBut cmd ((0, 4) :: authFields code) then
    authStatus s fn 5
  else match cmdFn s fn cmd with
    | none => authStatus s fn (if 2 ≤ code && code ≤ 4 then 2 else 6)
    | some tf =>
      if !fnRuns s tf then authStatus s fn 1
      else if code = 1 then allocCmd s fn tf cmd
      else if code = 2 then mintCmd s fn tf cmd
      else if code = 3 then revokeCmd s fn tf cmd false
      else if code = 4 then revokeCmd s fn tf cmd true
      else if code = 5 then rotateCmd s fn tf cmd
      else epsetCmd s fn tf cmd

/-- A driver's store of a command of a given code to a mailbox (R426). While a command is busy the store is ignored, and the busy command
is tried again. Before READY the port takes no write (R485), and a function under reset has none taken. -/
def authCommand (s : State) (fn code : Nat) (cmd : Bytes) : State :=
  if s.hub.boot != .ready || muted s fn then s
  else if (getAuth s fn).busy then takeCmd s fn (getAuth s fn).cmd
  else
    let cmd := (BitVec.ofNat 8 code :: cmd.drop 1 ++ List.replicate 64 0).take 64
    takeCmd (modAuth s fn (fun a => { a with mail := cmd, cmd := cmd })) fn cmd

/-! ### Scrub (R444, R445) -/

/-- The contexts of a cluster. -/
def clusterCtxs (s : State) (cl : Nat) : List Nat := (ctxNumbers s).filter (fun c => ctxCluster c = cl)

/-- Whether nothing of the outgoing work is left on a cluster: no node, continuation, operation that is not terminal, or shoal entry. -/
def clusterIdle (s : State) (cl : Nat) : Bool :=
  let c := getCluster s cl
  c.node.isNone && c.susp.isEmpty && c.ready.isEmpty && c.logL.isEmpty && c.logS.isEmpty &&
    !c.toks.any (fun t => !t.2.state.terminal) && !(clusterCtxs s cl).any (fun c => (getCtx s c).run) &&
    !((List.range 4).any (fun k => !(getCore s (cl * 4 + k)).shoal.isEmpty))

/-- Frees every entry of a cluster's token table. -/
def freeAllToks (s : State) (cl : Nat) : State := ((getCluster s cl).toks.map (·.1)).foldl (fun s slot => freeTok s cl slot) s

/-- The scrub of a cluster (R445). POOLPW, which the rule does not name, stays (log entry 233); the pool slot retires past its last
generation (R427). -/
def scrub (s : State) (cl : Nat) : State :=
  let s := freeAllToks s cl
  let s := (clusterCtxs s cl).foldl (fun s c => modCtx s c freeContext) s
  let s := (List.range 4).foldl (fun s k => modCore s (cl * 4 + k) (fun c => { c with l1 := [], ic := [], shoal := [] })) s
  let s := (getCluster s cl).chans.foldl (fun s e => unbind s cl e.1) s
  modCluster s cl (fun c =>
    { c with pool := [], badPool := [], tiles := [], dirty := [], used := [], flags := [], lease := {}, hold := false, queues := [], active := [], logL := [], logS := [],
             epoch := c.epoch + 1, slotGen := min (c.slotGen + 1) (2 ^ 20), switch := false, notes := [], owner := none, node := none, susp := [], ready := [] })

/-- Whether a cluster that holds what is left of the work of tenant and partition `o` is to be switched (R444): work of another tenant or
partition waits for it, a node has been pre-empted off it, the outgoing tenant has no enabled queue there any more, or the partition is being
evicted. -/
def switchDue (s : State) (cl : Nat) (o : Nat × Nat) : Bool :=
  let who (q : Nat) : Nat × Nat := ((getFn s (queueOwner s q).1).tenant, (queueOwner s q).2)
  (getCluster s cl).switch || s.queues.any (fun q => q.2.launch.any PLaunch.free && who q.1 != o && (partClusters s (who q.1).2).contains cl) ||
    s.qmap.all (fun e => who e.1 != o || (getQueue s e.1).state = .disabled) || (getPlanner s o.2).evict.isSome

/-- CONTEXT_SWITCH_SCRUB: the cluster holds what is left of outgoing work, which has ended, and is to be switched (R444). -/
def switchScrub (s : State) (cl : Nat) : State :=
  match (getCluster s cl).owner with
  | some o => if clusterIdle s cl && switchDue s cl o then noteVacancy (scrub s cl) o.2 else s
  | none => s

/-- ALLOC (R426). -/
def execEvAlloc (fn : Nat) (cmd : Bytes) (s : State) : Out := .next (authCommand s fn 1 cmd)
/-- MINT (R426). -/
def execEvMint (fn : Nat) (cmd : Bytes) (s : State) : Out := .next (authCommand s fn 2 cmd)
/-- REVOKE (R426). -/
def execEvRevoke (fn : Nat) (cmd : Bytes) (s : State) : Out := .next (authCommand s fn 3 cmd)
/-- FREE (R426). -/
def execEvFree (fn : Nat) (cmd : Bytes) (s : State) : Out := .next (authCommand s fn 4 cmd)
/-- ROTATE (R426). -/
def execEvRotate (fn : Nat) (cmd : Bytes) (s : State) : Out := .next (authCommand s fn 5 cmd)
/-- EPSET (R426). -/
def execEvEpset (fn : Nat) (cmd : Bytes) (s : State) : Out := .next (authCommand s fn 6 cmd)
/-- REVOCATION_TABLES_DONE (R436). -/
def execEvRevocationTablesDone (fn : Nat) (s : State) : Out := .next (tablesDone s fn)
/-- REVOCATION_COMPLETE (R436). -/
def execEvRevocationComplete (fn : Nat) (s : State) : Out := .next (revocationDone s fn)
/-- ROTATION_WALKER_STEP (R440). -/
def execEvRotationWalkerStep (kd stack : Nat) (s : State) : Out := .next (walkerStep s kd stack)
/-- CONTEXT_SWITCH_SCRUB (R445). -/
def execEvContextSwitchScrub (cl : Nat) (s : State) : Out := .next (switchScrub s cl)

end Sys2Proof.Machine
end

