-- ==== Sys2Proof/Machine/Image.lean ====
section
/-!
DEFINITION. Checkpoint images (R472, R482, R483): what an image of a queue holds, and the bytes that it is laid out in.
-/

namespace Sys2Proof.Machine

/-! ### What a queue's work occupies -/

/-- The bundles of a queue that are resident. -/
def queueJobs (s : State) (q : Nat) : List Nat := (residents s q).map (·.1)

/-- The clusters that run the nodes of a queue. -/
def queueClusters (s : State) (q : Nat) : List Nat :=
  (s.clusters.filter (fun c => c.2.node.any (fun n => (queueJobs s q).contains n.1))).map (·.1)

/-- Dirty granules of a pool: those of 4 KiB that have been written since the last scrub (R469). -/
def dirtyGranules (c : Cluster) : Nat := c.dirty.length

/-- Accumulator tiles in use: those that have been written since the last scrub (R469). -/
def usedTiles (c : Cluster) : Nat := c.used.length

/-! ### Records -/

/-- The first `n` of some bytes, zeros after their end. -/
def padTo (n : Nat) (bs : List Byte) : List Byte := (bs ++ List.replicate n 0).take n

/-- 2ⁿ where a flag is set. -/
def flagBit (b : Bool) (n : Nat) : Nat := if b then 2 ^ n else 0

/-- A continuation record (R383). -/
def contRecord (k : Cont) : List Byte :=
  leBytes 8 (k.pc.toNat + flagBit k.range 48 + flagBit k.pending 49) ++ [k.wid, k.rend, k.g1, k.g2, k.g3].flatMap (wordBytes 8) ++
    [k.k0, k.k1, k.k2, k.k3].flatMap (fun t => leBytes 2 t.toNat) ++
    leBytes 8 (k.state.toNat + 8 * k.pri.toNat + flagBit k.bound 5 + (if k.bound then 64 * (k.cluster % 64) else 0) + 2 ^ 16 * k.poolbase.toNat)

/-- The number of a state of an operation (R482). -/
def OpState.num : OpState → Nat
  | .queued => 0
  | .running => 1
  | .done => 2
  | .faulted => 3
  | .cancelled => 4

/-- The 16 bytes of a fault record (R396). -/
def FaultRec.bytes (f : FaultRec) : List Byte :=
  wordBytes 8 f.loc ++ leBytes 4 f.step.toNat ++ leBytes 4 (f.cause.toNat + 1024 * f.detail.toNat)

/-- The record of a token entry, after the 8 bytes of its slot (R482). `cids` are the continuations of the cluster's frames, in order. -/
def tokRecord (c : Cluster) (cids : List Nat) (e : Nat × TokEntry) : List Byte :=
  let (slot, t) := e
  let owner := (t.owner.bind (fun o => cids.findIdx? (· = o))).getD 0xFFFF
  leBytes 8 slot ++ padTo 320 (leBytes 2 (c.tok slot).toNat ++ leBytes 1 t.state.num ++
    leBytes 1 (flagBit t.held 7 + flagBit t.released 6 + t.pri.toNat) ++ leBytes 2 owner ++ leBytes 1 t.scope.toNat ++ [0] ++
    leBytes 4 t.done ++ leBytes 4 t.total ++ t.fr.bytes ++ padTo 16 ((encode t.op.instr).flatMap (fun w => leBytes 4 w.toNat)) ++
    padTo 64 (t.op.gs.flatMap (wordBytes 8)) ++ padTo 96 (t.op.hs.flatMap (fun h => leBytes 32 h.bits.toNat)) ++
    padTo 64 (t.op.ys.flatMap (fun y => leBytes 32 y.toNat)))

/-- The record of an entry of a copy engine's log (R472): engine 0 is the load engine. -/
def logRecord (c : Cluster) (eng : Nat) (e : CShoal) : List Byte :=
  let o := e.va.toNat % 64
  let units := (List.range 4).foldl (fun m u => m + flagBit (o < 16 * u + 16 && 16 * u < o + e.bytes.length) u) 0
  let (kind, op, dfmt) := match e.comb with
    | none => (0, 0, 0)
    | some (op, rnd, ovf, dfmt) => (1, op.toNat + 4 * rnd.toNat + 16 * ovf.toNat, dfmt.toNat)
  leBytes 8 (e.va.toNat - o) ++ leBytes 1 units ++ [0] ++ leBytes 1 kind ++ leBytes 1 op ++
    leBytes 1 (((tabFind e.slot c.toks).map (fun t => t.scope.toNat)).getD 0) ++ [0] ++
    leBytes 2 (if e.refused then e.cause.toNat else 0) ++ leBytes 2 (c.tok e.slot).toNat ++ leBytes 1 eng ++ leBytes 1 dfmt ++
    List.replicate 12 0 ++ padTo 64 (List.replicate o 0 ++ e.bytes)

/-- The record of a bound channel (R472): `conts` are the continuations of the image's kind-1 section, in order. -/
def chanRecord (cids conts : List Nat) (e : Nat × Chan) : List Byte :=
  let (key, ch) := e
  let owner := match cids.findIdx? (· = ch.owner) with
    | some i => i
    | none => 0x8000 + (conts.findIdx? (· = ch.owner)).getD 0
  leBytes 1 (key / 8) ++ leBytes 1 (key % 8) ++ leBytes 1 (flagBit ch.broken 0) ++ [0] ++ leBytes 4 (chanW ch) ++ leBytes 4 ch.len ++
    List.replicate 4 0 ++ leBytes 8 ch.lo ++ leBytes 2 owner ++ List.replicate 6 0

/-- The record of a range piece, or of the range of a node that has not been dispatched (R472, R483). -/
def rangeRecord (cur hi cl node deps : Nat) : List Byte :=
  leBytes 8 cur ++ leBytes 8 hi ++ leBytes 2 cl ++ leBytes 2 node ++ leBytes 1 deps ++ List.replicate 11 0

/-- The 256 entries of a job's buffer counters (R265). -/
def counterBytes (v : Bundle) : List Byte :=
  (List.range 256).flatMap (fun t => leBytes 6 (tabGet 0 t v.counters) ++ leBytes 6 (tabGet 0 t v.stalls))

/-! ### The image -/

/-- A section: kind, module cluster and bytes. -/
abbrev Section := Nat × Nat × List Byte

/-- The continuations of the kind-1 section, in order. -/
def imageConts (m : Image) : List Cont := m.ready ++ m.clusters.flatMap (fun c => c.2.susp ++ c.2.ready)

/-- The halted contexts of a cluster, in context order. -/
def framesOf (m : Image) (cl : Nat) : List Saved := m.saved.filter (fun v => ctxCluster v.ctx = cl)

/-- The range records of an image: its pieces, and the nodes that have not been dispatched with their dependence counters. -/
def rangeRecords (m : Image) : List Byte :=
  let deps (b n : Nat) : Nat := ((tabFind b m.bundles).bind (fun v => v.nodes[n]?)).elim 0 Node.deps
  m.pieces.flatMap (fun p => rangeRecord p.cur p.hi p.place p.node (deps p.bundle p.node)) ++
    m.bundles.flatMap (fun b => b.2.nodes.zipIdx.flatMap (fun n =>
      if n.1.ready || n.1.retired then [] else rangeRecord n.1.lo.toNat n.1.hi.toNat (n.1.clusters.headD 0) n.2 n.1.deps))

/-- The sections of an image in order of kind and cluster; a section with nothing in it is left out, as the image of the eviction program
shows. DESIGN CHOICE (log entry 231): the order, and cluster 0 for what belongs to no cluster. -/
def sections (m : Image) : List Section :=
  let conts := imageConts m
  let cids (cl : Nat) : List Nat := (framesOf m cl).map (fun v => v.x.cont.cid)
  let each (k : Nat) (f : Nat → Cluster → List Byte) : List Section := m.clusters.map (fun c => (k, c.1, f c.1 c.2))
  let all : List Section := [(1, 0, conts.flatMap contRecord)] ++ each 2 (fun cl _ => (framesOf m cl).flatMap Saved.frame) ++
    each 3 (fun _ c => c.dirty.flatMap (fun g => leBytes 8 (4096 * g) ++ memRead c.pool (4096 * g) 4096)) ++
    each 4 (fun _ c => c.used.flatMap (fun t => leBytes 8 t ++ memRead c.tiles (65536 * t) 65536)) ++
    each 5 (fun _ c => (List.range 256).flatMap (fun i => leBytes 4 (tabGet (0 : BitVec 32) i c.flags).toNat)) ++
    each 6 (fun cl c => c.toks.flatMap (tokRecord c (cids cl))) ++
    each 7 (fun _ c => c.logL.flatMap (logRecord c 0) ++ c.logS.flatMap (logRecord c 1)) ++
    [(8, 0, rangeRecords m)] ++ m.bundles.map (fun (b : Nat × Bundle) => (9, 0, counterBytes b.2)) ++
    each 10 (fun cl c => c.chans.flatMap (chanRecord (cids cl) (conts.map Cont.cid)))
  all.filter (fun v => !v.2.2.isEmpty)

/-- The section table, for sections that begin at byte `o` (R472). -/
def sectionTable (o : Nat) : List Section → List Byte
  | [] => []
  | (k, cl, bs) :: l => leBytes 2 k ++ leBytes 2 cl ++ leBytes 4 o ++ leBytes 8 bs.length ++ sectionTable (o + bs.length) l

/-- The 60 bytes of a header before its CRC (R472). -/
def imageHead (s : State) (m : Image) (count len : Nat) : List Byte :=
  leBytes 4 0x4B435A49 ++ leBytes 2 1 ++ leBytes 2 0 ++ leBytes 2 m.queue ++ leBytes 2 (tabGet {} m.part s.parts).podId ++ leBytes 2 m.tenant ++
    leBytes 1 m.clusters.length ++ [0] ++ leBytes 4 ((m.clusters.head?).elim 0 (fun c => c.2.poolpw.toNat)) ++ leBytes 4 0 ++
    leBytes 4 m.q.ridx.toNat ++ leBytes 4 count ++ leBytes 8 len ++ leBytes 8 (podTick s).toNat ++ leBytes 8 64 ++ leBytes 4 0

/-- The bytes of an image: header, section table and sections (R472, R482, R483). -/
def imagePlain (s : State) (m : Image) : List Byte :=
  let secs := sections m
  let start := 64 + 16 * secs.length
  let body := secs.flatMap (fun v => v.2.2)
  let head := imageHead s m secs.length (start + body.length)
  head ++ leBytes 4 (crc32c head).toNat ++ sectionTable start secs ++ body

/-- The bytes of an image with one tag of 16 bytes for each 4 KiB of it (R472, R483). -/
def bufferLen (n : Nat) : Nat := n + 16 * ((n + 4095) / 4096)

/-- An image as its buffer holds it: encrypted, and its tags after it. `key` are the bytes of the key stream and of the tags (R472). -/
def sealImage (plain key : List Byte) : List Byte := plain.zipWith (· ^^^ ·) key ++ key.drop plain.length

/-- Ownership as an image records it: an operation whose owner is not halted with it goes to its node, which holds it (R482). -/
def saveOwner (saved : List Saved) (t : TokEntry) : TokEntry :=
  if t.owner.any (fun o => saved.any (fun v => v.x.cont.cid = o)) then t else { t with owner := none, held := true }

/-- The contents of a queue's image for some clusters. -/
def imageOf (s : State) (part q : Nat) (cls : List Nat) : Image :=
  let js := queueJobs s q
  let saved := (getPlanner s part).saved.filter (fun v => cls.contains (ctxCluster v.ctx) && js.contains v.x.cont.bundle)
  { bytes := [], plain := [], queue := q, part := part, tenant := (getFn s (queueOwner s q).1).tenant, q := getQueue s q,
    bundles := residents s q, pieces := s.pieces.filter (fun p => js.contains p.bundle && cls.contains p.place),
    ready := (s.ready.filter (fun e => js.contains e.2.bundle)).map (·.2),
    clusters := cls.map (fun cl => (cl, let c := getCluster s cl
      { c with toks := c.toks.map (fun t => (t.1, saveOwner saved t.2)) })), saved := saved }

end Sys2Proof.Machine
end

