-- ==== Sys2Proof/Machine/Recovery.lean ====
section
/-!
DEFINITION. Pre-emption, eviction and restore (R466–R473, R481).
-/

namespace Sys2Proof.Machine

/-! ### What a queue's work occupies -/

/-- The contexts of some clusters that run a continuation. -/
def runningOn (s : State) (cls : List Nat) : List Nat :=
  (ctxNumbers s).filter (fun c => cls.contains (ctxCluster c) && (getCtx s c).run)

/-- Whether some clusters hold no running continuation and no operation that is not terminal (R466). -/
def quietOn (s : State) (cls : List Nat) : Bool :=
  (runningOn s cls).isEmpty && !cls.any (fun cl => (getCluster s cl).toks.any (fun t => !t.2.state.terminal))

/-- Dirty bytes of a cluster (R469). -/
def clusterDirty (s : State) (cl : Nat) : Nat :=
  let c := getCluster s cl
  4096 * dirtyGranules c + 65536 * usedTiles c + 61952 * (runningOn s [cl]).length + 64 * c.toks.length +
    320 * ((List.range 4).map (fun k => (getCore s (cl * 4 + k)).shoal.length)).sum + 96 * (c.logL.length + c.logS.length) + 1024

/-- Dirty bytes of a queue (R469). -/
def queueDirty (s : State) (q : Nat) : Nat := ((queueClusters s q).map (clusterDirty s)).sum

/-- Work identifiers of a job that have not been dispatched (R469). -/
def undispatched (s : State) (b : Nat) (v : Bundle) : Nat :=
  (v.nodes.map (fun n => if n.ready || n.retired then 0 else n.hi.toNat - n.lo.toNat)).sum +
    ((s.pieces.filter (fun p => p.bundle = b)).map (fun p => p.hi - p.cur)).sum

/-- The identifiers of a job that live continuations hold for range tasks. -/
def heldIds (s : State) (b : Nat) : Nat :=
  ((liveConts s ++ s.planners.flatMap (fun p => p.2.saved.map (fun v => v.x.cont))).filter (fun k => k.bundle = b && k.range)).length

/-- The bytes that one remaining step of an operation counts for, at 1,024 bytes to the nanosecond: 8 ns for a matrix step, its block
for a copy step (R469). -/
def stepBytes (t : TokEntry) : Nat := if isMatrixOp t.op.instr then 8192 else lyBlock (t.op.ys.headD 0)

/-- The remaining time of a queue in ns; none while it is unknown (R469). -/
def queueRemaining (s : State) (q : Nat) : Option Nat :=
  let ops := s.clusters.flatMap (fun c => (c.2.toks.filter (fun t => (queueJobs s q).contains t.2.bundle && !t.2.state.terminal)).map (·.2))
  let work := (ops.map (fun t => (t.total - t.done) * stepBytes t)).sum / 1024
  let times := (residents s q).map (fun e =>
    let r := undispatched s e.1 e.2
    let done := e.2.executed - heldIds s e.1
    if r = 0 then some 0 else if done = 0 then none else some (r * ((podTick s).toNat - e.2.resident.toNat) / done))
  if times.all Option.isSome then some ((times.map (fun t => t.getD 0)).sum + work) else none

/-! ### Halting contexts for an image (R466 step 2) -/

/-- The frame of the current context as a trap with 0x0B0 writes it, and the context with its results landed (R457 steps 2 to 4). A wait
that is in progress is kept for the frame's reload (R317). -/
def haltFrame (s : State) : State × List Byte :=
  let s := drainStores s s.xid
  let (x, taken) := untake { s.x with wbs := [] } s.x.wbs
  let x := landAll { x with wbs := [] } x.wbs
  let refusal := x.asyncs.any (fun a => a.cause = 0x108)
  let x := { x with asyncs := x.asyncs.filter (fun a => a.cause != 0x108) }
  let epc : Word := x.pc.setWidth 64
  let cause : Word := 0x800000B0
  let fb := frameBytes x cause epc epc 0 (replayEntries x taken false) (ownShoal s s.xid) refusal
  ({ s with x := { x with cause := cause, epc := epc, wsOld := if x.handler then x.wsOld else x.ws } }, fb)

/-- Context `c` is halted: its frame is kept for the image, and the context is free. -/
def haltCtx (part : Nat) (s : State) (c : Nat) : State :=
  let (s1, fb) := haltFrame (selectCtx s c)
  let x := s1.x
  let places := windowPlaces (ownShoal s1 c)
  let s1 := modCore s1 (ctxCore c) (fun k => { k with shoal := k.shoal.filter (fun e => e.ctx != c) })
  let s1 := { s1 with x := freeContext x, faults := s1.faults.filter (fun f => f.ctx != some c) }
  modPlanner (selectCtx s1 s.xid) part (fun p => { p with saved := p.saved ++ [⟨c, x, fb, places⟩] })

/-- The control cores of a cluster are halted as one gang, once no increment that they sent is outstanding (R457, R467). -/
def haltCluster (part : Nat) (s : State) (cl : Nat) : State :=
  let cs := runningOn s [cl]
  if cs.any (fun c => (getCtx s c).fincs != 0) then s else cs.foldl (haltCtx part) s

/-- Step 2 of the ladder on some clusters: nothing new starts, engines stop at their next step, contexts are halted. -/
def graceOn (s : State) (part : Nat) (cls : List Nat) : State :=
  let s := cls.foldl (fun s cl => modCluster s cl (fun c => { c with hold := true })) s
  cls.foldl (haltCluster part) s

/-! ### Kill (R466 step 3) -/

/-- Every continuation of a queue is killed, its operations are asked to stop with a cause, and nothing more of it starts; its jobs count as
discarded (R392, R466, R470). Its clusters are to be scrubbed before they run anything else (R444). -/
def killQueue (s : State) (q : Nat) (cause : Cause) : State :=
  let js := queueJobs s q
  let s := (queueClusters s q).foldl (fun s cl => modCluster s cl (fun c => { c with hold := false, switch := true })) s
  let s := dropImaged (js.foldl (fun s b => dropNodes (dropRemainders s b) b) s) js
  let s := killConts s (fun k => js.contains k.bundle)
  stopOps s (fun _ t => js.contains t.bundle) cause

/-- A queue parses nothing more, and becomes DISABLED once its bundles have retired (R470). -/
def drainQueue (s : State) (q : Nat) : State :=
  settleQueue (modQueue s q (fun v =>
    if v.state = .disabled then v else { v.dropLaunch with state := .draining, resetting := false, stopped := false })) q

/-! ### The planner's decisions (R470) -/

/-- Sets a queue's entry. -/
def modPlan (s : State) (part q : Nat) (f : QPlan → QPlan) : State :=
  modPlanner s part (fun p => { p with plans := tabMod {} q f p.plans })

/-- Decision run. -/
def decideRun (s : State) (part q : Nat) : State :=
  drainQueue (modPlan s part q (fun v => { v with decision := 1, state := 1 })) q

/-- Decision checkpoint: step 2 of the ladder begins at once, and the kill timer counts from now (R466, R470). -/
def decideCheckpoint (s : State) (part q : Nat) : State :=
  let s := modPlan s part q (fun v => { v with decision := 2, state := 1, asked := (podTick s).toNat })
  graceOn (modQueue s q (fun v => { v.dropLaunch with stopped := true, resetting := false })) part (queueClusters s q)

/-- Decision discard: step 3 of the ladder at once. -/
def decideDiscard (s : State) (part q : Nat) : State :=
  let s := modPlan s part q (fun v => { v with decision := 3, state := 3 })
  drainQueue (killQueue s q 0x312) q

/-- The figures of a queue at a bandwidth of `bw` MB/s (R469, R471). -/
def figures (s : State) (bw q : Nat) (v : QPlan) : QPlan :=
  let d := queueDirty s q
  { v with dirty := d, remaining := queueRemaining s q, cost := d * 1000 / bw }

/-- Queues in ascending order of cost, ties by number (R470). -/
def insertByCost (e : Nat × QPlan) : List (Nat × QPlan) → List (Nat × QPlan)
  | [] => [e]
  | h :: l => if e.2.dirty < h.2.dirty || (e.2.dirty = h.2.dirty && e.1 < h.1) then e :: h :: l else h :: insertByCost e l

/-- The decisions of one pass: `first` is the pass at posting, `l` is L. `a` accumulates time, as the bytes that take it at `bw` MB/s, and `i`
image bytes in parts of 1/256, so that both are exact (R6, R470). -/
def decideAll (part bw : Nat) (first : Bool) (l : Int) (len : Nat) : List (Nat × QPlan) → Nat → Nat → State → Nat × State
  | [], a, _, s => (a, s)
  | (q, v) :: rest, a, i, s =>
    let s := modPlan s part q (fun o => { o with dirty := v.dirty, remaining := v.remaining, cost := v.cost,
                                                 formed := if v.decision = 0 then some (v.dirty, v.remaining, v.cost) else o.formed })
    if (v.decision = 1 || first) && v.remaining.any (fun r => (r : Int) ≤ l) then
      decideAll part bw first l len rest a i (if v.decision = 1 then s else decideRun s part q)
    else if (((a + v.dirty) * 1000 : Nat) : Int) ≤ l * bw && i + v.dirty * 257 ≤ len * 256 then
      decideAll part bw first l len rest (a + v.dirty) (i + v.dirty * 257) (decideCheckpoint s part q)
    else decideAll part bw first l len rest a i (decideDiscard s part q)

/-- The length of the image that a queue's work has now. -/
def remainingBytes (s : State) (part q : Nat) : Nat := (imagePlain s (imageOf s part q (queueClusters s q))).length

/-- One decision pass (R470, R481). An image is written in one step of the model, so a checkpointing queue has its whole image either
remaining or written. DESIGN CHOICE (log entry 232): A is reported rounded down. -/
def decisionPass (s : State) (part : Nat) (e : Evict) (first : Bool) : State :=
  let now := (podTick s).toNat
  let sv : Int := (e.deadline : Int) - now - e.bound
  let lv : Int := sv * 205 / 256
  let p := getPlanner s part
  let entry (q : Nat) : QPlan := tabGet {} q p.plans
  let qs := partQueues s part
  let ck := qs.filter (fun q => (entry q).decision = 2 && (entry q).state = 1)
  let left := (ck.map (remainingBytes s part)).sum
  let cand := (qs.filter (fun q => (entry q).decision ≤ 1 && (entry q).state != 2)).map (fun q => (q, figures s e.bw q (entry q)))
  let (a, s) := decideAll part e.bw first lv e.len (cand.foldr insertByCost []) left ((left + e.used) * 256) s
  let s := modPlanner s part (fun p => { p with lastS := sv, lastL := lv, lastA := a * 1000 / e.bw, passAt := now, due := now + 100000 })
  noteVacancy s part

/-- PLANNER_PASS: at posting and every 100 µs after it, until the partition is vacant; the planner may be host-assisted (R391, R470,
R481). -/
def plannerPass (s : State) (part : Nat) : State :=
  let p := getPlanner s part
  match p.evict with
  | none => s
  | some e =>
    if p.vacant || (podTick s).toNat < p.due then s
    else assisted s 3 0 (plannerSource part) part (fun s => decisionPass s part e (p.passAt < e.since))

/-! ### Planner commands (R466, R468, R481) -/

/-- A planner command ends with a status. -/
def planStatus (s : State) (part st : Nat) : State := modPlanner s part (fun p => { p with status := BitVec.ofNat 8 st })

/-- Whether the image buffer of a command is a range of physical addresses that begins on a 4 KiB boundary (R481). -/
def bufferOk (cmd : List Byte) : Bool := cmdNat cmd 32 8 < 2 ^ 52 && cmdNat cmd 32 8 % 4096 = 0

/-- EVICT (R468). -/
def evictCmd (s : State) (part : Nat) (cmd : List Byte) : State :=
  let p := getPlanner s part
  let now := (podTick s).toNat
  let d := cmdNat cmd 8 8
  let k := if cmdNat cmd 24 8 = 0 then 200000 else cmdNat cmd 24 8
  if d < now + 2000000 then planStatus s part 1
  else if p.evict.isSome && !p.vacant then planStatus s part 2
  else if (tabGet {} part s.parts).state != 2 then planStatus s part 3
  else if k < 50000 then planStatus s part 4
  else
    let e : Evict := { deadline := d, bw := if cmdNat cmd 16 8 = 0 then p.ckbw else cmdNat cmd 16 8, bound := k, base := cmdNat cmd 32 8,
                       len := cmdNat cmd 40 8, used := 0, since := now, grace := p.grace, kill := p.kill }
    let s := modPlanner (planStatus s part 0) part (fun p =>
      { p with evict := some e, vacant := false, vtick := 0, due := now, passAt := 0, plans := [] })
    plannerPass (noteVacancy s part) part

/-- PREEMPT of clusters of the partition (R466): step 1 begins. Only one pre-emption of a partition is in progress at a time. -/
def preemptCmd (s : State) (part : Nat) (cmd : List Byte) : State :=
  let p := getPlanner s part
  let mask : BitVec 48 := BitVec.ofNat 48 (cmdNat cmd 8 8) &&& (tabGet {} part s.parts).clusters
  if 2 ^ 48 ≤ cmdNat cmd 8 8 then planStatus s part 5
  else if p.preempt.isSome then planStatus s part 2
  else
    let v : Preempt := { mask := mask, base := cmdNat cmd 32 8, len := cmdNat cmd 40 8, used := 0, since := s.tick, grace := p.grace,
                         kill := p.kill, stage := 1 }
    let s := modPlanner (planStatus s part 0) part (fun p => { p with preempt := some v })
    (partQueues s part).foldl (fun s q =>
      if (queueClusters s q).any (fun cl => mask.getLsbD cl) then modQueue s q (fun v => { v with stopped := true }) else s) s

/-! ### Writing checkpoint images (R472) -/

/-- The clusters of a queue that a pre-emption covers. -/
def covered (s : State) (mask : BitVec 48) (q : Nat) : List Nat := (queueClusters s q).filter (fun cl => mask.getLsbD cl)

/-- Whether a node's work lies wholly in an image of some clusters. -/
def nodeTaken (cls : List Nat) (n : Node) : Bool := n.retired || n.clusters.all cls.contains

/-- A queue's work leaves the clusters that an image has saved; they are scrubbed (R466). A bundle that is wholly saved leaves the
module, and what is saved of another is held. -/
def takeWork (s : State) (part q : Nat) (m : Image) : State :=
  let cls := m.clusters.map (·.1)
  let js := queueJobs s q
  let whole := (residents s q).filter (fun b => b.2.nodes.all (nodeTaken cls))
  let gone := whole.map (·.1)
  let s := modPlanner s part (fun p => { p with saved := p.saved.filter (fun v => !m.saved.contains v) })
  let s := { s with
    pieces := s.pieces.filter (fun p => !m.pieces.contains p)
    ready := s.ready.filter (fun e => !js.contains e.2.bundle)
    bundles := (s.bundles.filter (fun b => !gone.contains b.1)).map (fun b =>
      (b.1, if js.contains b.1 then { b.2 with nodes := b.2.nodes.map (fun n =>
        if n.clusters.any cls.contains then { n with held := true, clusters := n.clusters.filter (fun c => !cls.contains c) } else n) }
        else b.2)) }
  cls.foldl scrub s

/-- Writes the image of a queue into a buffer of `len` bytes at `base` of which `used` are taken: the state and the bytes it takes; none
when it outgrows the buffer (R466, R470). What is written is ciphertext. -/
def writeImage (s : State) (part q : Nat) (cls : List Nat) (base len used : Nat) : Option (State × Nat) :=
  let m := imageOf s part q cls
  let plain := imagePlain s m
  let n := bufferLen plain.length
  if len < used + n then none
  else
    let (key, s) := freeBytes n s
    let m := { m with plain := plain, bytes := sealImage plain key }
    let s := writeHome s (.mem (base + used)) m.bytes
    some (takeWork { s with images := m :: s.images } part q m, n)

/-- Whether a packet of a context on some clusters, a write or an increment, is neither applied nor refused: a checkpoint's departures are
releases too, and the flag file is saved after the increments in flight (R274, R467). -/
def stillWrites (s : State) (cls : List Nat) : Bool :=
  s.net.any (fun p => cls.contains (ctxCluster p.ctx) && !p.applied && !p.refused)

/-- Whether a queue's image can be written: its contexts on the clusters are halted, their remote writes applied, and its operations at step
boundaries (R274, R467, R482). A matched receive that waits its turn is in no step. -/
def imageReady (s : State) (cls : List Nat) : Bool :=
  (runningOn s cls).isEmpty && !stillWrites s cls && !cls.any (fun cl => (getCluster s cl).toks.any (fun t => inStep t.2))

/-- A pre-emption whose clusters hold no work any more is over. -/
def settlePreempt (s : State) (part : Nat) : State :=
  match (getPlanner s part).preempt with
  | none => s
  | some v =>
    if (partQueues s part).all (fun q => (covered s v.mask q).isEmpty) then modPlanner s part (fun p => { p with preempt := none }) else s

/-- CHECKPOINT_WRITE of a queue's image for a pre-emption: after step 2, or when step 1 ended early (R466). -/
def preemptWrite (s : State) (part q : Nat) (v : Preempt) : State :=
  let cls := covered s v.mask q
  if cls = [] || !(v.stage = 2 || quietOn s cls) || !imageReady s cls then s
  else
    let s := match writeImage s part q cls v.base v.len v.used with
      | none => killQueue s q 0x312
      | some (s, n) => modPlanner s part (fun p => { p with preempt := some { v with used := v.used + n } })
    settlePreempt s part

/-- CHECKPOINT_WRITE of a queue that an eviction checkpoints (R470): the queue is then DISABLED. -/
def evictWrite (s : State) (part q : Nat) (e : Evict) : State :=
  let cls := queueClusters s q
  if !imageReady s cls then s
  else match writeImage s part q cls e.base e.len e.used with
    | none => noteVacancy (decideDiscard s part q) part
    | some (s, n) =>
      let s := modPlanner s part (fun p => { p with evict := some { e with used := e.used + n } })
      noteVacancy (modQueue s q (fun v => { v with state := .disabled, stopped := false, launch := none, hold := none, acts := [] })) part

/-- CHECKPOINT_WRITE (R472). -/
def checkpointWrite (s : State) (part q : Nat) : State :=
  let p := getPlanner s part
  let plan := tabGet {} q p.plans
  match p.preempt, p.evict with
  | some v, _ => preemptWrite s part q v
  | none, some e => if plan.decision = 2 && plan.state = 1 && (queueOwner s q).2 = part then evictWrite s part q e else s
  | none, none => s

/-! ### Timers of the ladder (R466, R471) -/

/-- The clusters of a partition's queues that an eviction checkpoints. -/
def checkpointing (s : State) (part : Nat) : List Nat :=
  (partQueues s part).filter (fun q => let v := tabGet {} q (getPlanner s part).plans; v.decision = 2 && v.state = 1)

/-- GRACE_TIMER_EXPIRY: every context of the pre-empted clusters, and of the queues that are checkpointed, that runs is halted for an
image, at once or when nothing holds it back any more (R466 step 2). -/
def graceExpiry (s : State) (part : Nat) : State :=
  let s := (checkpointing s part).foldl (fun s q => graceOn s part (queueClusters s q)) s
  match (getPlanner s part).preempt with
  | none => s
  | some v =>
    if v.stage = 1 && s.tick < v.since + v.grace then s
    else
      let s := modPlanner s part (fun p => { p with preempt := some { v with stage := 2 } })
      graceOn s part ((partQueues s part).flatMap (covered s v.mask))

/-- KILL_TIMER_EXPIRY: a queue with a context that is still not halted is killed, and its work counts as discarded (R466 step 3). -/
def killExpiry (s : State) (part : Nat) : State :=
  let p := getPlanner s part
  let s := match p.evict with
    | none => s
    | some e =>
      (checkpointing s part).foldl (fun s q =>
        if (podTick s).toNat < (tabGet {} q (getPlanner s part).plans).asked + e.kill || (runningOn s (queueClusters s q)).isEmpty then s
        else decideDiscard s part q) s
  match p.preempt with
  | none => s
  | some v =>
    if s.tick < v.since + v.kill then s
    else
      let s := (partQueues s part).foldl (fun s q => if (runningOn s (covered s v.mask q)).isEmpty then s else killQueue s q 0x312) s
      settlePreempt s part

/-- EVICTION_KILL_TIME: at D − K every queue of the partition that is not vacant is killed; what was saved of an unfinished image is
lost (R471). -/
def evictionKill (s : State) (part : Nat) : State :=
  match (getPlanner s part).evict with
  | none => s
  | some e =>
    if (getPlanner s part).vacant || (podTick s).toNat + e.bound < e.deadline then s
    else
      let s := ((partQueues s part).filter (fun q => !queueVacant s q)).foldl (fun s q =>
        drainQueue (killQueue (modPlan s part q (fun v => { v with state := 3 })) q 0x312) q) s
      noteVacancy s part

/-! ### Restore (R473) -/

/-- The new number of an image's cluster. -/
def newCluster (map : List (Nat × Nat)) (cl : Nat) : Nat := ((map.find? (fun p => p.1 = cl)).map (·.2)).getD cl

/-- A handle of the image's pool slot is minted again onto the new cluster's pool slot, with the same range and rights (R473). -/
def remint (s : State) (old gen new : Nat) (h : HReg) : HReg :=
  let b := h.bits
  if hKind b = 1 && hSlot b = poolSlot old && hGen b = gen && h.status = 0 && !slotSpent (getCluster s new) then
    ⟨sealed s (handleBody (getCluster s new).slotGen (poolSlot new) (hPart b) (hTenant b) 1 (hRights b) (hExtent b) (hBase b)), 0⟩
  else h

/-- The number of a context on its new cluster. -/
def newCtx (map : List (Nat × Nat)) (c : Nat) : Nat := newCluster map (ctxCluster c) * 64 + c % 64

/-- A cluster's state is loaded, each token entry at its own slot (R473). -/
def loadCluster (map : List (Nat × Nat)) (m : Image) (s : State) (e : Nat × Cluster) : State :=
  let new := newCluster map e.1
  let move (k : Cont) : Cont := { k with cluster := new }
  let now := getCluster s new
  let toks := e.2.toks.map (fun t => (t.1, { t.2 with op := { t.2.op with
    ctx := newCtx map t.2.op.ctx, hs := t.2.op.hs.map (remint s e.1 e.2.slotGen new) } }))
  modCluster s new (fun _ => { e.2 with
    toks := toks, susp := e.2.susp.map move, ready := e.2.ready.map move, slotGen := now.slotGen, epoch := now.epoch, badPool := [],
    freeze := now.freeze, ack := now.ack, notes := now.notes, switch := false, hold := false, owner := some (m.tenant, m.part) })

/-- A place on the new cluster. -/
def newPlace (map : List (Nat × Nat)) (l : Loc) : Loc :=
  match l with
  | .mem _ => l
  | .pool cl off => .pool (newCluster map cl) off

/-- A halted context resumes as by ERET from its frame (R462, R473), in the mode that it was halted in: what the frame of a handler does not
hold is as it was, and a wait that was in progress counts on from its issue (R317). -/
def loadSaved (map : List (Nat × Nat)) (m : Image) (s : State) (v : Saved) : State :=
  let old := ctxCluster v.ctx
  let new := newCluster map old
  let c := newCtx map v.ctx
  let gen := ((m.clusters.find? (fun e => e.1 = old)).map (fun e => e.2.slotGen)).getD 0
  let moved (l : List (Word × Loc)) : List (Word × Loc) := l.map (fun p => (p.1, newPlace map p.2))
  let x0 := { v.x with places := moved v.places, got := [], early := [] }
  let x0 := if v.x.handler then { x0 with wsOld := v.x.ws, lateFl := 0, lateSigs := [] } else x0
  let s := modCtx s c (fun _ => { x0 with cont := { v.x.cont with cluster := new }, nodeid := nodeId s v.x.cont.bundle v.x.cont.node new,
                                           wbs := [], stores := [], since := s.tick })
  onCtx s c (fun s =>
    let s := returnFromTrap s v.frame
    modX s (fun x =>
      let x := { x with h := x.h.map (remint s old gen new) }
      if v.x.handler then { x with handler := true, wsOld := v.x.wsOld, lateFl := v.x.lateFl, lateSigs := v.x.lateSigs, places := moved v.x.places }
      else x))

/-- A bundle returns with its nodes on their new clusters; what the module still held of it takes them back. -/
def loadBundle (map : List (Nat × Nat)) (s : State) (e : Nat × Bundle) : State :=
  let moved (n : Node) : List Nat := (n.clusters.filter (fun c => map.any (fun p => p.1 = c))).map (newCluster map)
  match tabFind e.1 s.bundles with
  | none => { s with bundles := s.bundles ++ [(e.1, { e.2 with nodes := e.2.nodes.map (fun n => { n with held := false, clusters := moved n }) })] }
  | some _ =>
    modBundle s e.1 (fun v => { v with nodes := (v.nodes.zip e.2.nodes).map (fun p => { p.1 with held := false, clusters := p.1.clusters ++ moved p.2 }) })

/-- The queue parses again from the saved read index (R473). -/
def reloadQueue (s : State) (m : Image) : State :=
  modQueue s m.queue (fun v => if v.state = .active then { v with stopped := false } else { m.q with state := .active, stopped := false })

/-- The image whose bytes lie in a buffer, as its tags and header show (R472, R473). -/
def findImage (s : State) (base len : Nat) : Option Image :=
  s.images.find? (fun m => m.plain.length = len && memRead s.mem base m.bytes.length = m.bytes)

/-- Whether a cluster may take a cluster of an image (R473): it is scrubbed and of the partition, and has the image's POOLPW. DESIGN CHOICE (log
entry 233): a scrub keeps POOLPW (R445 does not name it), and a cluster that has had none takes the image's. -/
def takesImage (s : State) (part : Nat) (m : Image) (cl : Nat) : Bool :=
  let c := getCluster s cl
  (tabGet {} part s.parts).clusters.getLsbD cl && c.owner.isNone && c.node.isNone && !c.switch &&
    (c.poolpw = 0 || (m.clusters.head?).any (fun d => d.2.poolpw = c.poolpw))

/-- Whether the work of an image is still on the module: a bundle of it that is resident waits for none of it. DESIGN CHOICE (log entry 234): it
is not restored beside itself. -/
def imageLive (s : State) (m : Image) : Bool :=
  m.bundles.any (fun b => (tabFind b.1 s.bundles).any (fun v => !v.nodes.any Node.held))

/-- RESTORE (R473): the targets are scrubbed clusters of the image's partition, as many as the image has and with its POOLPW. The image stays where it is. -/
def restoreCmd (s : State) (part : Nat) (cmd : List Byte) : State :=
  let targets := (List.range clusterCount).filter (fun cl => (BitVec.ofNat 48 (cmdNat cmd 8 8)).getLsbD cl)
  match findImage s (cmdNat cmd 32 8) (cmdNat cmd 40 8) with
  | none => planStatus s part 1
  | some m =>
    if 2 ^ 48 ≤ cmdNat cmd 8 8 || m.part != part || targets.length != m.clusters.length || !targets.all (takesImage s part m) || imageLive s m ||
      (getFn s (queueOwner s m.queue).1).tenant != m.tenant then planStatus s part 1
    else
      let map := (m.clusters.map (·.1)).zip targets
      let s := m.bundles.foldl (loadBundle map) s
      let s := m.clusters.foldl (loadCluster map m) s
      let s := { s with pieces := s.pieces ++ m.pieces.map (fun p => { p with place := newCluster map p.place }) }
      let s := m.saved.foldl (loadSaved map m) s
      let s := m.ready.foldl (fun s k => placePool s ((targets.find? (fun cl => fitsCluster s cl k)).getD 0) k [centralPool]) s
      planStatus (reloadQueue s m) part 0

/-! ### Commands -/

/-- The fields of each planner command (R481). -/
def planFields : Nat → List (Nat × Nat)
  | 1 => [(0, 1), (8, 8), (32, 16)]
  | 2 => [(0, 1), (8, 40)]
  | _ => [(0, 1), (8, 8), (32, 16)]

/-- A planner command that is taken: malformed ones return status 5 and change nothing (R481). -/
def takePlan (s : State) (part : Nat) (cmd : List Byte) : State :=
  let code := cmdNat cmd 0 1
  if code = 0 || 3 < code || !zeroBut cmd (planFields code) || !bufferOk cmd then planStatus s part 5
  else if code = 1 then preemptCmd s part cmd
  else if code = 2 then evictCmd s part cmd
  else restoreCmd s part cmd

/-- The physical function's store of a command of a given code to a planner window (R481, R485). -/
def planCommand (s : State) (part code : Nat) (cmd : Bytes) : State :=
  if s.hub.boot != .ready then s
  else
    let cmd := (BitVec.ofNat 8 code :: cmd.drop 1 ++ List.replicate 64 0).take 64
    takePlan (modPlanner s part (fun p => { p with cmd := cmd })) part cmd

/-- PREEMPT (R466). -/
def execEvPreempt (part : Nat) (cmd : Bytes) (s : State) : Out := .next (planCommand s part 1 cmd)
/-- EVICT (R468). -/
def execEvEvict (part : Nat) (cmd : Bytes) (s : State) : Out := .next (planCommand s part 2 cmd)
/-- RESTORE (R473). -/
def execEvRestore (part : Nat) (cmd : Bytes) (s : State) : Out := .next (planCommand s part 3 cmd)
/-- GRACE_TIMER_EXPIRY (R466). -/
def execEvGraceTimerExpiry (part : Nat) (s : State) : Out := .next (graceExpiry s part)
/-- KILL_TIMER_EXPIRY (R466). -/
def execEvKillTimerExpiry (part : Nat) (s : State) : Out := .next (killExpiry s part)
/-- CHECKPOINT_WRITE (R472). -/
def execEvCheckpointWrite (part q : Nat) (s : State) : Out := .next (checkpointWrite s part q)
/-- PLANNER_PASS (R470). -/
def execEvPlannerPass (part : Nat) (s : State) : Out := .next (plannerPass s part)
/-- EVICTION_KILL_TIME (R471). -/
def execEvEvictionKillTime (part : Nat) (s : State) : Out := .next (evictionKill s part)

end Sys2Proof.Machine
end

