-- ==== Sys2Proof/Machine/Platform.lean ====
section
/-!
DEFINITION. What the physical function does with functions and partitions: the function-level reset (R474, R478, R479), the TDISP states
(R448), the partition table (R446), and job keys (R447).
-/

namespace Sys2Proof.Machine

/-! ### Function-level reset (R474, R478, R479) -/

/-- The number of virtual functions. -/
def vfCount : Nat := 64

/-- Whether a number names a virtual function. -/
def isVf (vf : Nat) : Bool := 1 ≤ vf && vf ≤ vfCount

/-- The queues of a function (R446). -/
def fnQueues (s : State) (fn : Nat) : List Nat := (s.qmap.filter (fun e => e.2.1 = fn)).map (·.1)

/-- The resident bundles of a function. -/
def fnJobs (s : State) (fn : Nat) : List Nat := (fnQueues s fn).flatMap (queueJobs s)

/-- The contexts that run a function's continuations. -/
def fnContexts (s : State) (fn : Nat) : List Nat :=
  (ctxNumbers s).filter (fun c => (getCtx s c).run && (fnJobs s fn).contains (getCtx s c).cont.bundle)

/-- The operations of a function that are not terminal. -/
def fnOps (s : State) (fn : Nat) : Nat :=
  (s.clusters.flatMap (fun c => c.2.toks.filter (fun t => (fnJobs s fn).contains t.2.bundle && !t.2.state.terminal))).length

/-- A queue of a function that is reset parses nothing more, and what it had parsed is dropped (R474 step 1). -/
def silenceQueue (s : State) (q : Nat) : State :=
  modQueue (dropQueueFe s q) q (fun v => { v.dropLaunch with acts := [], gang := none, resetting := false, stopped := false })

/-- The work of a queue is discarded: nothing of it starts again (R474 step 2). -/
def discardQueue (s : State) (q : Nat) : State :=
  let s := (queueClusters s q).foldl (fun s cl => modCluster s cl (fun c => { c with hold := false })) s
  let js := queueJobs s q
  dropImaged (js.foldl destroyBundle s) js

/-- Steps 1 and 2 of R474: the queues stop, the contexts are killed, and the operations are asked to stop with 0x313. -/
def flrStop (s : State) (fn : Nat) : State :=
  let s := (fnQueues s fn).foldl silenceQueue s
  let s := (fnQueues s fn).foldl discardQueue s
  let js := fnJobs s fn
  let s := killConts s (fun k => js.contains k.bundle)
  stopOps s (fun _ t => js.contains t.bundle) 0x313

/-- A reset of a virtual function begins: the fields of its progress are cleared, and what the host has not answered is not waited for
(R478, R479). -/
def flrBegin (s : State) (vf : Nat) : State :=
  let s := modFn s vf (fun f => { f with reset := 1, killed := 0, cancelled := 0, completed := 0, abandoned := 0 })
  let mine (k : Nat) : Bool := (fnQueues s vf).any (fun q => k = q || k = dispatchKey q)
  modHub s (fun h => { h with events := h.events.filter (fun e => e.fn != vf), posted := h.posted.filter (fun e => e.2.fn != vf),
                              answers := h.answers.filter (fun a => !((a.1 = 0 || a.1 = 2) && mine a.2)) })

/-- A packet of a function that is abandoned: whether it had been performed is open (R474). -/
def abandonPacket (s : State) (p : Packet) : State :=
  if p.applied || p.refused then dropPend s p
  else
    let (b, s) := takeBit s
    let s := match b, p.kind with
      | true, .write pa bs => if (writeBad s (.mem pa) bs.length).isSome then s else writeHome s (.mem pa) bs
      | _, _ => s
    dropPend s p

/-- The requests that are held on translation for a function, and those that it has in the fabric (R478). -/
def heldOf (s : State) (fn : Nat) : Nat := (s.faults.filter (fun e => e.fn = fn)).length
def sentOf (s : State) (fn : Nat) : Nat :=
  (s.net.filter (fun p => (fnJobs s fn).contains p.bundle && !(p.applied || p.refused))).length

/-- Step 3 ends: every request tagged with the function has completed or is abandoned (R474). `completed` starts as the requests in
the fabric when step 3 begins and loses those abandoned; `abandoned` starts as the accesses held on translation that the kill of step 2
has dropped (R478, log entry 238). -/
def flrDrained (s : State) (vf : Nat) : State :=
  if (getFn s vf).reset != 3 then s
  else
    let js := fnJobs s vf
    let gone := s.net.filter (fun p => js.contains p.bundle)
    let (held, left) := (heldOf s vf, sentOf s vf)
    let s := { s with faults := s.faults.filter (fun f => f.fn != vf), net := s.net.filter (fun p => !js.contains p.bundle) }
    let s := gone.foldl abandonPacket s
    modFn s vf (fun f => { f with reset := 4, completed := f.completed - left, abandoned := f.abandoned + left + held })

/-- Step 4: the function's clusters are scrubbed, once nothing of its work is left on them. -/
def flrScrub (s : State) (vf : Nat) : State :=
  let js := fnJobs s vf
  let owner := some ((getFn s vf).tenant, (getFn s vf).part)
  let s := { s with pieces := s.pieces.filter (fun p => !js.contains p.bundle), ready := s.ready.filter (fun e => !js.contains e.2.bundle) }
  let s := js.foldl (fun s b => removeBundle s b (jobQueue s b)) s
  let cls := (s.clusters.filter (fun c => c.2.owner = owner || c.2.node.any (fun n => js.contains n.1))).map (·.1)
  modFn (cls.foldl scrub s) vf (fun f => { f with reset := 5 })

/-- Step 6: the function's entries of the cause table are cleared, its queues are DISABLED and it is CONFIG_UNLOCKED (R479). -/
def flrClear (s : State) (vf : Nat) : State :=
  let s := modHub s (fun h => { h with causes := h.causes.filter (fun e => bitsOf e.2.toNat 19 7 != vf) })
  let s := (fnQueues s vf).foldl (fun s q => modQueue s q (fun v =>
    { ({} : Queue) with qbase := v.qbase, qcfg := v.qcfg, deadline := v.deadline, late := v.late })) s
  modFn s vf (fun f => { f with reset := 7, tdisp := .unlocked })

/-- The next step of a reset in progress (R474). Step 3 ends by `flrDrained`. -/
def flrAdvance (s : State) (vf : Nat) : State :=
  let f := getFn s vf
  if f.reset = 1 then
    let n := (fnContexts s vf).length
    let held := heldOf s vf
    let s := flrStop s vf
    modFn s vf (fun f => { f with reset := 2, killed := n, abandoned := held - heldOf s vf })
  else if f.reset = 2 then
    if fnOps s vf = 0 && (fnContexts s vf).isEmpty then modFn s vf (fun f => { f with reset := 3, completed := sentOf s vf }) else s
  else if f.reset = 4 then flrScrub s vf
  else if f.reset = 5 then
    modFn { s with sealKeys := tabMod 0 (spaceOf f.part f.tenant) (· + 1) s.sealKeys } vf (fun f => { f with reset := 6 })
  else if f.reset = 6 then flrClear s vf
  else s

/-- FLR: a reset begins, or the one in progress goes on (R474). Only virtual functions are reset so, and only by a module that runs (R488). -/
def flr (s : State) (vf : Nat) : State :=
  if !isVf vf || s.hub.boot != .ready then s else if underReset s vf then flrAdvance s vf else flrBegin s vf

/-! ### TDISP (R448) -/

/-- Whether the configuration of a function is frozen. -/
def frozen (s : State) (fn : Nat) : Bool := isVf fn && ((getFn s fn).tdisp = .locked || (getFn s fn).tdisp = .run)

/-- A write to a frozen item: it is not performed, and the function moves to ERROR, where its work is discarded as in a reset. -/
def toError (s : State) (fn : Nat) : State := flrStop (modFn s fn (fun f => { f with tdisp := .error })) fn

/-- A write by the physical function to an item of a function's configuration; in ERROR nothing is allowed. -/
def configWrite (s : State) (fn : Nat) (k : State → State) : State :=
  if frozen s fn then toError s fn else if isVf fn && (getFn s fn).tdisp = .error then s else k s

/-- The key domains that a function has been assigned become its tenant's (R439, R448). DESIGN CHOICE (entry 141): which ones is free; those
of other owners, and domain 0, are not given. -/
def assignDomains (s : State) (fn : Nat) : State :=
  let (n, s) := takeFresh s
  (Config.givenDomains n).foldl (fun s kd =>
    if kd = 0 || 4096 ≤ kd || (tabGet {} kd s.domains).state != 0 then s
    else modDomain s kd (fun d => { d with state := 1, owner := (getFn s fn).tenant })) s

/-- Whether a TDISP request is served: the module is READY (R488), and the function is a virtual one that is not under reset. -/
def tdispServes (s : State) (vf : Nat) : Bool := isVf vf && s.hub.boot = .ready && !underReset s vf

/-- LOCK: the configuration is frozen as it stands, its key domains with it. -/
def tdispLock (s : State) (vf : Nat) : State :=
  if tdispServes s vf && (getFn s vf).tdisp = .unlocked then assignDomains (modFn s vf (fun f => { f with tdisp := .locked })) vf else s

/-- START. -/
def tdispStart (s : State) (vf : Nat) : State :=
  if tdispServes s vf && (getFn s vf).tdisp = .locked then modFn s vf (fun f => { f with tdisp := .run }) else s

/-- STOP from RUN or ERROR: the reset is performed before the state changes. -/
def tdispStop (s : State) (vf : Nat) : State :=
  let f := getFn s vf
  if tdispServes s vf && (f.tdisp = .run || f.tdisp = .error) then flrBegin s vf else s

/-! ### The partition table (R446) -/

/-- The entries of the partition table. -/
def partCount : Nat := 256

/-- An entry as its 64 bytes. -/
def Partition.bytes (v : Partition) : List Byte :=
  leBytes 2 v.podId ++ leBytes 2 v.state ++ leBytes 4 v.share ++ leBytes 8 v.clusters.toNat ++ leBytes 8 v.straits.toNat ++
    leBytes 8 v.vfs.toNat ++ List.replicate 32 0

/-- The entry that 64 bytes describe. -/
def partOf (bs : List Byte) : Partition :=
  { podId := cmdNat bs 0 2, state := cmdNat bs 2 1, share := cmdNat bs 4 2, clusters := BitVec.ofNat 48 (cmdNat bs 8 6),
    straits := BitVec.ofNat 64 (cmdNat bs 16 8), vfs := BitVec.ofNat 64 (cmdNat bs 24 8) }

/-- Whether the bytes are an entry: no zero byte is set, and the state and the share are in range. -/
def partBytesOk (bs : List Byte) : Bool :=
  zeroBut bs [(0, 3), (4, 2), (8, 6), (16, 16)] && cmdNat bs 2 1 ≤ 3 && cmdNat bs 4 2 ≤ 256

/-- Whether an entry gives a cluster, a strait or a virtual function that another one has. -/
def partOverlaps (s : State) (p : Nat) (v : Partition) : Bool :=
  s.parts.any (fun e => e.1 != p && (e.2.clusters &&& v.clusters != 0 || e.2.straits &&& v.straits != 0 || e.2.vfs &&& v.vfs != 0))

/-- The sum of the module's shares with entry `p` replaced by `v`. -/
def shareSum (s : State) (p : Nat) (v : Partition) : Nat := v.share + ((s.parts.filter (fun e => e.1 != p)).map (fun e => e.2.share)).sum

/-- The virtual functions of a mask. -/
def maskVfs (m : BitVec 64) : List Nat := ((List.range vfCount).filter (fun i => m.getLsbD i)).map (· + 1)

/-- The functions of an entry learn their partition. -/
def assignVfs (s : State) (p : Nat) (old new : BitVec 64) : State :=
  let s := (maskVfs (old &&& ~~~new)).foldl (fun s vf => modFn s vf (fun f => { f with part := 0 })) s
  (maskVfs (new &&& ~~~old)).foldl (fun s vf => modFn s vf (fun f => { f with part := p })) s

/-- A write of an entry of the partition table; entry 0 is the device's. Fields other than the state change only while the state is
building; an entry that is refused leaves the table as it was. A virtual function is moved only in CONFIG_UNLOCKED (R448). -/
def partWrite (s : State) (p : Nat) (bs : List Byte) : State :=
  let old : Partition := tabGet {} p s.parts
  let want := partOf bs
  let new : Partition := if old.state = 1 then want else { old with state := want.state }
  if p = 0 || partCount ≤ p || !partBytesOk bs then s
  else if partOverlaps s p new || 256 < shareSum s p new then s
  else if want.state = 3 && s.clusters.any (fun c => old.clusters.getLsbD c.1 && c.2.owner.isSome) then s
  else
    let moved := maskVfs (old.vfs ^^^ new.vfs)
    if moved.any (fun vf => (getFn s vf).tdisp != .unlocked) then (moved.filter (frozen s)).foldl toError s
    else assignVfs { s with parts := tabPut p new s.parts } p old.vfs new.vfs

/-! ### Job keys (R447) -/

/-- The entries of a strait's membership table. -/
def memberEntries : Nat := 64

/-- The straits of a mask. -/
def maskStraits (m : BitVec 64) : List Nat := (List.range 64).filter (fun i => m.getLsbD i)

/-- A job key is registered for a partition, and written to the membership tables of its straits; a key of another partition is
refused. A table that is full takes no further key. -/
def registerKey (s : State) (part key : Nat) : State :=
  if 2 ^ 16 ≤ key || partCount ≤ part || (tabFind key s.jobKeys).any (fun p => p != part) then s
  else
    let add (v : Strait) : Strait :=
      if v.keys.contains key || memberEntries ≤ v.keys.length then v else { v with keys := v.keys ++ [key] }
    let s := { s with jobKeys := tabPut key part s.jobKeys }
    (maskStraits (tabGet {} part s.parts).straits).foldl (fun s k => { s with straits := tabMod {} k add s.straits }) s

/-- PARTITION_TABLE_WRITE (R446). -/
def execEvPartitionTableWrite (part : Nat) (bytes : Bytes) (s : State) : Out := .next (portTakes s 0 (fun s => partWrite s part bytes))
/-- JOB_KEY_REGISTER (R447). -/
def execEvJobKeyRegister (part key : Nat) (s : State) : Out := .next (portTakes s 0 (fun s => registerKey s part key))
/-- TDISP_LOCK (R448). -/
def execEvTdispLock (vf : Nat) (s : State) : Out := .next (tdispLock s vf)
/-- TDISP_START (R448). -/
def execEvTdispStart (vf : Nat) (s : State) : Out := .next (tdispStart s vf)
/-- TDISP_STOP (R448). -/
def execEvTdispStop (vf : Nat) (s : State) : Out := .next (tdispStop s vf)
/-- FLR (R474). -/
def execEvFlr (vf : Nat) (s : State) : Out := .next (flr s vf)
/-- FLR_DRAIN_BOUND (R474). -/
def execEvFlrDrainBound (vf : Nat) (s : State) : Out := .next (flrDrained s vf)

end Sys2Proof.Machine
end

