-- ==== Sys2Proof/Machine/Power.lean ====
section
/-!
DEFINITION. Memory-bandwidth buckets (R449), the power arbiter and its throttle levels (R494, R495), and the thermal limits (R496).
-/

namespace Sys2Proof.Machine

/-- Clusters of a die (R12). -/
def dieClusters (die : Nat) : List Nat := (List.range 12).map (· + 12 * die)

/-! ### Bandwidth (R449) -/

/-- A die's budget in tokens of 64 bytes. -/
def dieBudget : Nat := 256000

/-- The tokens of a cluster's bucket after a refill, the spill apart: its partition's part of the budget in equal portions. -/
def bucketOf (s : State) (die cl : Nat) : Nat :=
  match clusterPart s cl with
  | none => 0
  | some p =>
    let n := ((dieClusters die).filter (fun c => clusterPart s c = some p)).length
    (tabGet {} p s.parts).share * dieBudget / 256 / n

/-- What a cluster's requests have done in an interval: the tokens that they have taken from its bucket, and whether some wait. DESIGN CHOICE
(log entry 164): both are free, since a request that waits for a token is performed later and no later than the schedule has it. -/
def bucketUse (s : State) (die cl : Nat) : (Nat × Bool) × State :=
  let (n, s) := takeFresh s
  let (b, s) := takeBit s
  ((min (tabGet 0 cl (getDie s die).tokens) (Config.freeWord n).toNat, b && (clusterPart s cl).isSome), s)

/-- The uses of a die's buckets, by cluster. -/
def bucketUses (die : Nat) : List Nat → List (Nat × Nat × Bool) → State → List (Nat × Nat × Bool) × State
  | [], acc, s => (acc.reverse, s)
  | cl :: rest, acc, s => let (u, s) := bucketUse s die cl; bucketUses die rest ((cl, u) :: acc) s

/-- A cluster's part of the spill: that of its partition, in proportion to the shares of the partitions with requests that wait, divided
equally among the partition's clusters with such requests. -/
def spillOf (s : State) (waiting : List Nat) (spill cl : Nat) : Nat :=
  match waiting.contains cl, clusterPart s cl with
  | true, some p =>
    let share (q : Nat) : Nat := (tabGet {} q s.parts).share
    let total := ((waiting.filterMap (clusterPart s)).eraseDups.map share).sum
    spill * share p / total / (waiting.filter (fun c => clusterPart s c = some p)).length
  | _, _ => 0

/-- BANDWIDTH_REFILL: what is left in the buckets goes to the spill pool, which is divided among those whose requests wait; the rest of it is
dropped, and the buckets are filled. -/
def refill (s : State) (die : Nat) : State :=
  let (uses, s) := bucketUses die (dieClusters die) [] s
  let waiting := (uses.filter (fun u => u.2.2)).map (·.1)
  let spill := (uses.map (fun u => tabGet 0 u.1 (getDie s die).tokens - u.2.1)).sum
  modDie s die (fun d =>
    { d with spill := spill, tokens := (dieClusters die).map (fun cl => (cl, bucketOf s die cl + spillOf s waiting spill cl)) })

/-! ### Power (R494, R495) -/

/-- The consumer classes of the module (R25). -/
inductive Consumer where
  | matrix
  | vector
  | stacks
  | straits
  | hub
  | margin
  deriving DecidableEq, Repr

/-- The budget of a class, in W (R25). -/
def Consumer.budget : Consumer → Nat
  | .matrix => 1450
  | .vector => 650
  | .stacks => 720
  | .straits => 420
  | .hub => 160
  | .margin => 200

/-- The classes among which the arbiter shares power: the hub and the margin have theirs apart (R494). -/
def shared : List Consumer := [.matrix, .vector, .stacks, .straits]

/-- The power of the hub and the regulation margin, in W. -/
def hubPower : Nat := Consumer.budget .hub + Consumer.budget .margin

/-- The sum of the floors with that of partition `p` replaced by `v`. -/
def floorSum (s : State) (p v : Nat) : Nat := v + ((s.hub.floors.filter (fun e => e.1 != p)).map (·.2)).sum

/-- POWER_FLOOR_WRITE: refused when the floors would exceed the limit less 360 W. -/
def floorWrite (s : State) (p : Nat) (v : Word) : State :=
  if s.hub.boot != .ready || partCount ≤ p || s.hub.limit - hubPower < floorSum s p v.toNat then s
  else modHub s (fun h => { h with floors := tabPut p v.toNat h.floors })

/-- The grant of a partition: its floor, and of the rest of the limit a part in proportion to its excess demand. -/
def grantOf (h : Hub) (demands : List (Nat × Nat)) (p : Nat) : Nat :=
  let floor (q : Nat) : Nat := tabGet 0 q h.floors
  let excess (e : Nat × Nat) : Nat := e.2 - floor e.1
  let total := (demands.map excess).sum
  let mine := ((demands.filter (fun e => e.1 = p)).map excess).sum
  floor p + (if total = 0 then 0 else (h.limit - hubPower - (h.floors.map (·.2)).sum) * mine / total)

/-- The highest throttle level. -/
def maxLevel : Nat := 7

/-- A cluster's level at the end of an interval. -/
def settleLevel (upon warned : Bool) (c : Cluster) : Cluster :=
  if upon then { c with throttle := min maxLevel (c.throttle + 1), calm := 0 }
  else if warned then { c with calm := 0 }
  else if c.calm < 3 then { c with calm := c.calm + 1 }
  else { c with throttle := c.throttle - 1, calm := 0 }

/-- Every partition's grant: each that demands power or has a floor gets one, and so at least its floor (R26, R494). -/
def grantTable (h : Hub) (demands : List (Nat × Nat)) : Tab Nat :=
  (demands.map (·.1) ++ h.floors.map (·.1)).eraseDups.map (fun p => (p, grantOf h demands p))

/-- Whether the partition of a cluster drew more than its grant. -/
def overdrawn (s : State) (demands : List (Nat × Nat)) (cl : Nat) : Bool :=
  (clusterPart s cl).any (fun p => demands.any (fun e => e.1 = p && grantOf s.hub demands p < e.2))

/-- What each class is given: within its budget (R25), all of them together within the current budget, which is the limit less what the hub
and the margin take (R26, R494), and free below that (log entry 193). -/
def classShares (s : State) : State :=
  let give (r : Nat × State) (c : Consumer × Nat) : Nat × State :=
    let (n, s) := takeFresh r.2
    let w := min (min c.1.budget r.1) (Config.freeWord n).toNat
    (r.1 - w, modHub s (fun h => { h with classes := tabPut c.2 w h.classes }))
  (shared.zipIdx.foldl give (s.hub.limit - hubPower, s)).2

/-- Whether the floors of a die's partitions together exceed the die's share. DESIGN CHOICE (log entry 239): the share is a quarter of the
limit less what the hub and the margin take, and a partition's floor counts on a die for the part of its clusters that lie there. -/
def floorsExceed (s : State) (die : Nat) : Bool :=
  let on (m : BitVec 48) (cls : List Nat) : Nat := (cls.filter (fun cl => m.getLsbD cl)).length
  let part (e : Nat × Nat) : Nat :=
    let m := (tabGet {} e.1 s.parts).clusters
    e.2 * on m (dieClusters die) / on m (List.range clusterCount)
  (s.hub.limit - hubPower) / 4 < (s.hub.floors.map part).sum

/-- Whether the partition of a cluster has a floor and is granted no more (R494). -/
def atFloor (s : State) (cl : Nat) : Bool :=
  (clusterPart s cl).any (fun p => tabGet 0 p s.hub.floors != 0 && tabGet 0 p s.hub.grants ≤ tabGet 0 p s.hub.floors)

/-- The level of an array after a warning: two more. The array of a partition at its floor passes level 5 only when the die's floors exceed its
share (R495). -/
def warnLevel (floor exceed : Bool) (level : Nat) : Nat :=
  if floor && !exceed then max level (min 5 (level + 2)) else min maxLevel (level + 2)

/-- OVER_CURRENT_WARNING: every array of the die rises by two levels. -/
def warnDie (s : State) (die : Nat) : State :=
  if 4 ≤ die then s
  else (dieClusters die).foldl (fun s cl => modCluster s cl (fun c =>
      { c with throttle := warnLevel (atFloor s cl) (floorsExceed s die) c.throttle, calm := 0 }))
    (modDie s die (fun d => { d with warn := true }))

/-- The junction temperature from which a die is throttled, in °C (R496). -/
def hotLimit : Nat := 100

/-- A die at 100 °C or above is under a warning in every interval, until its temperature falls, at a free time and to a free value
(R496, log entry 240). -/
def hotDie (s : State) (die : Nat) : State :=
  if (getDie s die).temp < hotLimit then s
  else
    let (cool, s) := takeBit s
    let (n, s) := takeFresh s
    if cool then modDie s die (fun d => { d with temp := (Config.freeWord n).toNat % hotLimit }) else warnDie s die

/-- POWER_INTERVAL: the grants follow the demands; a partition that drew more than its grant is raised by one level, four calm
intervals lower an array by one, and a hot die is warned. -/
def powerInterval (s : State) (demands : List (Nat × Nat)) : State :=
  let upon (cl : Nat) : Bool := overdrawn s demands cl
  let s := classShares (modHub s (fun h => { h with grants := grantTable h demands }))
  let s := (List.range clusterCount).foldl (fun s cl => modCluster s cl (settleLevel (upon cl) (getDie s (cl / 12)).warn)) s
  (List.range 4).foldl hotDie { s with dies := s.dies.map (fun e => (e.1, { e.2 with warn := false })) }

/-- THERMAL_THROTTLE: the die has reached 100 °C, and is under a warning. -/
def thermalThrottle (s : State) (die : Nat) : State :=
  if 4 ≤ die then s else warnDie (modDie s die (fun d => { d with temp := max d.temp hotLimit })) die

/-! ### Thermal limits (R496) -/

/-- The causes that are posted as events (R454). -/
def eventCauses : List Cause := [0x0A7, 0x111, 0x112, 0x113, 0x210, 0x213, 0x380]

/-- THERMAL_STOP: the die stops all issue and its engines, and posts an event, whose cause the manual does not give: one of those that are
posted, free (log entry 166). -/
def thermalStop (s : State) (die : Nat) : State :=
  if 4 ≤ die then s
  else
    let (bs, s) := freeBytes 1 (modDie s die (fun d => { d with stopped := true, temp := 110 }))
    postEvent s (eventCauses.getD (leNat bs % eventCauses.length) 0x111) die 0 (arbiterSource die) []

/-- The module without power: its state is lost. What other modules and the host hold stays, and so do the pod numbers of the dies. -/
def powerCut (s : State) : State :=
  { State.reset with
    mem := s.mem.filter (fun c => isHost c.1 || isRemote s c.1)
    badMem := s.badMem.filter (fun e => isHost (64 * e.1) || isRemote s (64 * e.1))
    dies := s.dies.map (fun e => (e.1, { podDie := e.2.podDie }))
    hub := { podOff := s.hub.podOff, operator := s.hub.operator }
    tick := s.tick
    agenda := s.agenda
    lag := s.lag
    tear := s.tear
    eside := s.eside
    phase := s.phase
    nextId := s.nextId
    fresh := s.fresh }

/-- THERMAL_POWER_OFF. -/
def thermalOff (s : State) : State := modHub (powerCut s) (fun h => { h with offHot := true })

/-- BANDWIDTH_REFILL (R449). -/
def execEvBandwidthRefill (die : Nat) (s : State) : Out := .next (if die < 4 then refill s die else s)
/-- POWER_INTERVAL (R494, R495). -/
def execEvPowerInterval (demands : NatPairs) (s : State) : Out := .next (powerInterval s demands)
/-- POWER_FLOOR_WRITE (R494). -/
def execEvPowerFloorWrite (part : Nat) (v : Word) (s : State) : Out := .next (floorWrite s part v)
/-- OVER_CURRENT_WARNING (R495). -/
def execEvOverCurrentWarning (die : Nat) (s : State) : Out := .next (warnDie s die)
/-- THERMAL_THROTTLE (R496). -/
def execEvThermalThrottle (die : Nat) (s : State) : Out := .next (thermalThrottle s die)
/-- THERMAL_STOP (R496). -/
def execEvThermalStop (die : Nat) (s : State) : Out := .next (thermalStop s die)
/-- THERMAL_POWER_OFF (R496). -/
def execEvThermalPowerOff (s : State) : Out := .next (thermalOff s)

end Sys2Proof.Machine
end

