-- ==== Sys2Proof/Machine/Debug.lean ====
section
/-!
DEFINITION. The debug window (R475, R476) and soft errors (R477).
-/

namespace Sys2Proof.Machine

/-- The debug bits of a control core (R475): a step bit lets one access-side instruction retire and then halts the core again. -/
def debugCore (s : State) (core : Nat) (halt arm one : Bool) : State :=
  if coreCount ≤ core then s else modCore s core (fun k => { k with halt := halt && !one, arm := arm, one := one })

/-- DEBUG_HALT. -/
def debugHalt (s : State) (core : Nat) (on : Bool) : State := debugCore s core on (getCore s core).arm false

/-- DEBUG_STEP. -/
def debugStep (s : State) (core : Nat) : State := debugCore s core true (getCore s core).arm true

/-- BREAKPOINT_ARM. -/
def breakpointArm (s : State) (core : Nat) (on : Bool) : State :=
  debugCore s core ((getCore s core).halt || (getCore s core).one) on (getCore s core).one

/-- Whether a store that has retired is on its way to the pool of a cluster. -/
def storesTo (cl : Nat) (x : Context) : Bool := x.stores.any (fun st => match st.loc with
  | .pool c _ => c = cl
  | .mem _ => false)

/-- The freeze of a cluster is lifted: the writes that it has held back are made, but for parts of lines that fail their checks, and the matched
receives whose turn has come are placed. -/
def thaw (s : State) (cl : Nat) : State :=
  let held := (getCluster s cl).notes
  let s := modCluster s cl (fun c => { c with freeze := false, ack := false, notes := [] })
  let s := held.foldl (fun s n => if (writeBad s (.pool cl n.1) n.2.length).isSome then s else writeHome s (.pool cl n.1) n.2) s
  settleRecvs cl (getCluster s cl).toks.length s

/-- ENGINE_FREEZE (R476): the engines of the cluster stop at their step boundaries; once no step is in progress and the stores that are
on their way to the pool have reached it, the freeze is acknowledged. The event is repeated until then. -/
def engineFreeze (s : State) (cl : Nat) (on : Bool) : State :=
  if clusterCount ≤ cl then s
  else if !on then thaw s cl
  else
    let s := modCluster s cl (fun c => { c with freeze := true })
    if (getCluster s cl).ack || (getCluster s cl).toks.any (fun t => inStep t.2) then s
    else
      let s := ((ctxNumbers s).filter (fun c => storesTo cl (getCtx s c))).foldl drainStores s
      modCluster s cl (fun c => { c with ack := true })

/-- CONTEXT_STATE_ERROR (R477): the context is killed without a frame; 0x113 is logged and posted. -/
def contextError (s : State) (c : Nat) : State :=
  let x := getCtx s c
  if !x.run then s
  else
    let b := x.cont.bundle
    let fn := jobFn s b
    let s := logCause (onCtx s c endContinuation) b 0x113
    let s := modBundle s b (fun v => { v with executed := v.executed - (if x.cont.range then 1 else 0) })
    postEvent s 0x113 (ctxCore c) fn (clusterSource (ctxCluster c)) (leBytes 2 c)

/-- L1_PARITY_DROP: the line is dropped, and fetched again when it is next used (R477). -/
def parityDrop (s : State) (core line : Nat) (instr : Bool) : State :=
  modCore s core (fun k => if instr then { k with ic := tabDel line k.ic } else { k with l1 := tabDel line k.l1 })

/-- DEBUG_HALT (R475). -/
def execEvDebugHalt (core : Nat) (on : Bool) (s : State) : Out := .next (portTakes s 0 (fun s => debugHalt s core on))
/-- DEBUG_STEP (R475). -/
def execEvDebugStep (core : Nat) (s : State) : Out := .next (portTakes s 0 (fun s => debugStep s core))
/-- BREAKPOINT_ARM (R475). -/
def execEvBreakpointArm (core : Nat) (on : Bool) (s : State) : Out := .next (portTakes s 0 (fun s => breakpointArm s core on))
/-- ENGINE_FREEZE (R476). -/
def execEvEngineFreeze (cl : Nat) (on : Bool) (s : State) : Out := .next (portTakes s 0 (fun s => engineFreeze s cl on))
/-- CONTEXT_STATE_ERROR (R477). -/
def execEvContextStateError (c : Nat) (s : State) : Out := .next (contextError s c)
/-- L1_PARITY_DROP (R477). -/
def execEvL1ParityDrop (core line : Nat) (instr : Bool) (s : State) : Out := .next (parityDrop s core line instr)

end Sys2Proof.Machine
end

