-- ==== Sys2Proof/Machine/Boot.lean ====
section
/-!
DEFINITION. Power-on and boot (R487–R489), straits (R437, R490), and the pod tick (R491).
-/

namespace Sys2Proof.Machine

/-! ### Boot (R488) -/

/-- The seed of the identity key: SHA3-384 of the label and what the unclonable function gives (R487). DESIGN CHOICE (log entry 196): how
the derivation joins the two. -/
def identitySeed : BitVec 384 := leWord 384 (sha3 (asciiBytes "IZL-ID" ++ leBytes 32 Config.puf.toNat))

/-- Boot starts in ROM, whatever ran before; no strait is open. The ROM derives the identity key, which stays with the root core (R487). -/
def bootRom (s : State) : State :=
  modHub (powerCut s) (fun h => { h with boot := .rom, unsync := true, idKey := some (Config.keyPair identitySeed) })

/-- What SPDM reports of the device's identity: the certificate chain, and the public key that it certifies (R487). -/
def spdmIdentity (s : State) : List Byte × Option (BitVec 15616) := (Config.certificates, s.hub.idKey.map (·.1))

/-- Boot stops with a reason. -/
def bootFail (s : State) (reason : Byte) : State := modHub s (fun h => { h with boot := .failed, reason := reason, verify := false })

/-- BOOTLEN. -/
def bootLen (s : State) (v : Word) : State :=
  match s.hub.boot with
  | .waitImg =>
    if 1 ≤ v.toNat && v.toNat ≤ 2 ^ 26 then modHub s (fun h => { h with boot := .check, imgLen := v.toNat }) else bootFail s 5
  | .config => if v = 4096 then modHub s (fun h => { h with verify := true }) else bootFail s 3
  | .off | .rom | .check | .ready | .failed => s

/-- The measurement of what boot has read: SHA3-384, the only hash of the device (R484, R488). -/
def measurement (l : List Byte) : BitVec 384 := leWord 384 (sha3 l)

/-- IMAGE_CHECK: in ROM the self-test ends, `selfTest` saying whether it passed; in CHECK the image's signature is verified, `ok` saying
whether it held, and the image is measured (R488). -/
def imageCheck (s : State) (ok selfTest : Bool) : State :=
  if s.hub.boot = .rom then if selfTest then modHub s (fun h => { h with boot := .waitImg }) else bootFail s 4
  else if s.hub.boot = .check then
    if ok then modHub s (fun h => { h with boot := .config, meas1 := measurement (memRead h.image 0 h.imgLen) }) else bootFail s 1
  else s

/-- `n` bytes of the record from byte `o`, as a number. -/
def recNat (h : Hub) (o n : Nat) : Nat := leNat (memRead h.record o n)

/-- Whether the modes of the four ports are in range, and no bits above them are set (R21, R489, R492). -/
def portsOk (eth : Nat) : Bool := eth < 65536 && (List.range 4).all (fun i => bitsOf eth (4 * i) 4 ≤ 3)

/-- Whether the record is well formed (R489, R391, R492). -/
def recordOk (h : Hub) : Bool :=
  recNat h 0 4 = 0x46435A49 && recNat h 4 4 = 1 && recNat h 16 8 < 256 && portsOk (recNat h 24 4) && 1000 ≤ recNat h 28 4 &&
    recNat h 28 4 ≤ 3600 && (memRead h.record 82 1966).all (· = 0)

/-- The hash of the public key that a record carries (R489). DESIGN CHOICE (log entry 198): where the record holds the key is left open. -/
def operatorHash (h : Hub) : BitVec 384 := measurement (Config.operatorKey (memRead h.record 2048 2048))

/-- Whether a record is under the operator key: any key enrols itself with the first record that is accepted, and is the only one from
then on (R489). -/
def operatorOk (h : Hub) : Bool := h.operator.all (· = operatorHash h)

/-- The record takes effect, and the module is READY; the physical function's tenant has its key domains (entry 141). -/
def applyRecord (s : State) : State :=
  let s := modHub s (fun h => { h with
    boot := .ready, verify := false, straitMask := BitVec.ofNat 64 (recNat h 8 8), femode := BitVec.ofNat 8 (recNat h 16 8),
    eth := BitVec.ofNat 32 (recNat h 24 4), limit := recNat h 28 4, podPol := BitVec.ofNat 400 (recNat h 32 50),
    meas2 := measurement (memRead h.record 0 4096), operator := some (h.operator.getD (operatorHash h)) })
  assignDomains s 0

/-- RECORD_CHECK: the record's signature has been verified under the key that it carries, `ok` saying whether it held. -/
def recordCheck (s : State) (ok : Bool) : State :=
  if s.hub.boot != .config || !s.hub.verify then s
  else if !ok || !operatorOk s.hub then bootFail s 2
  else if recordOk s.hub then applyRecord s
  else bootFail s 3

/-! ### Straits (R437, R490, R491) -/

/-- Changes a strait, and notes whether one is open: without one the tick runs free. -/
def modStrait (s : State) (k : Nat) (f : Strait → Strait) : State :=
  let s := { s with straits := tabMod {} k f s.straits }
  let one := s.straits.any (fun v => v.2.state = .opened)
  modHub s (fun h => { h with unsync := !one, synced := h.synced && one })

/-- The number of straits. -/
def straitCount : Nat := 64

/-- The contents of a strait. -/
def getStrait (s : State) (k : Nat) : Strait := tabGet {} k s.straits

/-- A strait closes after a failure, which is posted (R437, R490). -/
def straitFail (s : State) (k : Nat) : State :=
  postEvent (modStrait s k (fun v => { v with state := .closed })) 0x213 k 0 (soundSource (k / 16)) []

/-- STRAIT_TRAINING: a strait that the record allows begins training; one whose lanes are up begins attestation. -/
def straitTraining (s : State) (k : Nat) : State :=
  if straitCount ≤ k || s.hub.boot != .ready || !s.hub.straitMask.getLsbD k then s
  else match (getStrait s k).state with
    | .down => modStrait s k (fun v => { v with state := .training })
    | .training => modStrait s k (fun v => { v with state := .attesting })
    | .attesting | .opened | .closed => s

/-- Whether the module accepts its peer: it has been authenticated, and reports the pod identifier of its policy, and an image measurement of the list whose hash the policy
holds (R489, R490). DESIGN CHOICE (log entry 242): the list is hashed as its measurements, one after the other. -/
def peerOk (h : Hub) (p : PeerReport) : Bool :=
  p.ok && p.pod = (h.podPol.extractLsb' 0 16).toNat && p.list.contains p.meas &&
    measurement (p.list.flatMap (fun m => leBytes 48 m.toNat)) = h.podPol.extractLsb' 16 384

/-- STRAIT_ATTEST. -/
def straitAttest (s : State) (k : Nat) (peer : PeerReport) : State :=
  if (getStrait s k).state != .attesting then s
  else if peerOk s.hub peer then modStrait s k (fun v => { v with state := .opened, fails := 0, groups := 0 })
  else straitFail s k

/-- Groups that one key may protect (R490). -/
def groupLimit : Nat := 2 ^ 31

/-- A strait under a new key; groups in flight complete under the old one. -/
def Strait.rekey (v : Strait) : Strait := { v with epoch := v.epoch + 1, groups := 0 }

/-- A strait that has sent `n` more groups: it updates its key before the limit. -/
def Strait.send (v : Strait) (n : Nat) : Strait := if v.groups + n < groupLimit then { v with groups := v.groups + n } else v.rekey

/-- KEY_UPDATE. -/
def keyUpdate (s : State) (k : Nat) : State :=
  if (getStrait s k).state != .opened then s else modStrait s k Strait.rekey

/-- STRAIT_GROUP_FAILURE: the group is discarded and sent again; four failures in a row close the strait. How many groups have passed since
the last failure is free (log entry 243). -/
def groupFailure (s : State) (k : Nat) : State :=
  if (getStrait s k).state != .opened then s
  else
    let (n, s) := takeFresh s
    let passed := (Config.freeWord n).toNat
    let s := modStrait s k (fun v => { v.send passed with fails := if passed = 0 then v.fails + 1 else 1 })
    if (getStrait s k).fails < 4 then s else straitFail s k

/-- STRAIT_CLOSE: packets that have not been acknowledged go back to their Sound, which sends them on another strait; they stay in
flight. -/
def straitClose (s : State) (k : Nat) : State :=
  if (getStrait s k).state != .opened then s else modStrait s k (fun v => { v with state := .closed })

/-- Whether the module leads the pod's tick: it holds die 0 of the pod (R491). -/
def leadsTick (s : State) : Bool := (List.range 4).any (fun d => podDie s d = 0)

/-- How far a module's tick may be from the leader's, in ns (R491). -/
def tickBound : Nat := 20

/-- POD_TICK_SYNC: an open strait carries the leader's tick `t`, and the tick of a module that does not lead moves to it; it never runs
backward (R389, R491). A module that follows the leader is within the bound, so that a tick beyond it is none that the leader sends. -/
def tickSync (s : State) (t : Nat) : State :=
  let own := (podTick s).toNat
  if leadsTick s || !s.straits.any (fun v => v.2.state = .opened) || 2 ^ 64 ≤ t then s
  else if s.hub.synced && (own + tickBound < t || t + tickBound < own) then s
  else if t < own then s
  else modHub s (fun h => { h with podOff := (t : Int) - (s.tick : Int), synced := true })

/-- POWER_ON (R488). -/
def execEvPowerOn (s : State) : Out := .next (bootRom s)
/-- PF_RESET (R488). -/
def execEvPfReset (s : State) : Out := .next (bootRom s)
/-- BOOTLEN (R488). -/
def execEvBootlen (v : Word) (s : State) : Out := .next (bootLen s v)
/-- IMAGE_CHECK (R488). -/
def execEvImageCheck (ok selfTest : Bool) (s : State) : Out := .next (imageCheck s ok selfTest)
/-- RECORD_CHECK (R488, R489). -/
def execEvRecordCheck (ok : Bool) (s : State) : Out := .next (recordCheck s ok)
/-- STRAIT_TRAINING (R490). -/
def execEvStraitTraining (strait : Nat) (s : State) : Out := .next (straitTraining s strait)
/-- STRAIT_ATTEST (R490). -/
def execEvStraitAttest (strait : Nat) (peer : PeerReport) (s : State) : Out := .next (straitAttest s strait peer)
/-- KEY_UPDATE (R490). -/
def execEvKeyUpdate (strait : Nat) (s : State) : Out := .next (keyUpdate s strait)
/-- STRAIT_GROUP_FAILURE (R437). -/
def execEvStraitGroupFailure (strait : Nat) (s : State) : Out := .next (groupFailure s strait)
/-- STRAIT_CLOSE (R490). -/
def execEvStraitClose (strait : Nat) (s : State) : Out := .next (straitClose s strait)
/-- POD_TICK_SYNC (R491). -/
def execEvPodTickSync (t : Nat) (s : State) : Out := .next (tickSync s t)

end Sys2Proof.Machine
end

