-- ==== Sys2Proof/Machine/FloatScalar.lean ====
section
/-!
DEFINITION. The scalar FP32 instructions (R160, R167–R169): operands are bits [31:0] of their sources, results are rounded by RNE
under the INF policy, and flags are ORed into FSTAT at retirement (R133, R140, R143).
-/

namespace Sys2Proof.Machine

/-- The FP32 value of a source (R160). -/
def f32 (w : Word) : ExactNum := floatDecode fp32 (w.toNat % 2 ^ 32)

/-- An exact value rounded to FP32 (R160): the register's bits and the flags. -/
def round32 (v : NumF) : Word × Flags :=
  let (c, fl) := (roundNum fp32 rneInf v).get
  (BitVec.ofNat 64 c, fl)

/-- FMIN and FMAX: one of the operands, or the canonical NaN when both are NaN (R136). An operand that is chosen keeps its value. -/
def minMax32 (isMax : Bool) (a b : Word) : Word × Flags := round32 (numMinMax isMax (f32 a) (f32 b))

/-- A comparison of FP32 values: its truth value and flags; conditions as in R197 (R168). -/
def cmp32 (c : Nat) (a b : Word) : Word × Flags :=
  let (r, fl) := numCond c (f32 a) (f32 b)
  (truth r, fl)

/-- FP32 to a saturated signed 64-bit integer (R168). -/
def toInt64 (mode : BitVec 2) (a : Word) : Word × Flags :=
  let lo : Int := -(2 ^ 63 : Nat)
  let hi : Int := (2 ^ 63 : Nat) - 1
  match f32 a with
  | .nan _ => (0, flagInvalid)
  | .inf n => (BitVec.ofInt 64 (if n then lo else hi), flagInvalid)
  | .fin n m e st =>
    let (v, inx) := roundInt ⟨mode, 1, 0⟩ n m e st
    let (c, fl) := (saturate lo hi ⟨mode, 1, 0⟩ v inx 64).get
    (BitVec.ofNat 64 c, fl)

/-- An FP instruction with its result at once. -/
def floatOp (i : Instr) (d : BitVec 6) (fn : List (Option Src) → Word × Flags) (s : State) : State :=
  issue i .P (fun caps s => putG s d (fn caps).1 (fn caps).2) s

/-- An FP instruction with a long-latency result (R158). -/
def floatLong (i : Instr) (d : BitVec 6) (fn : List (Option Src) → Word × Flags) (s : State) : State :=
  issue i .P (fun caps s => oweG s d (fn caps).1 (fn caps).2 2) s

/-- FADD: Round(a + b) (R167). -/
def execFadd (f : RRR) (s : State) : Out :=
  .next (floatOp (.fadd f) f.d (fun c => round32 (numAdd (f32 (srcS c 0)) (f32 (srcS c 1)))) s)

/-- FSUB: Round(a − b) (R167). -/
def execFsub (f : RRR) (s : State) : Out :=
  .next (floatOp (.fsub f) f.d (fun c => round32 (numAdd (f32 (srcS c 0)) (f32 (srcS c 1)).flip)) s)

/-- FMUL: Round(a × b) (R167). -/
def execFmul (f : RRR) (s : State) : Out :=
  .next (floatOp (.fmul f) f.d (fun c => round32 (numMul (f32 (srcS c 0)) (f32 (srcS c 1)))) s)

/-- FMA: Round(a × b + d), one rounding, d read as the third source (R167, R163). -/
def execFma (f : RRR) (s : State) : Out :=
  .next (floatOp (.fma f) f.d (fun c => round32 (numFma false (f32 (srcS c 0)) (f32 (srcS c 1)) (f32 (srcS c 2)))) s)

/-- FDIV: Round(a / b), long-latency (R167, R158). -/
def execFdiv (f : RRR) (s : State) : Out :=
  .next (floatLong (.fdiv f) f.d (fun c => round32 (numDiv (f32 (srcS c 0)) (f32 (srcS c 1)))) s)

/-- FMIN: minimum (R167, R136). -/
def execFmin (f : RRR) (s : State) : Out :=
  .next (floatOp (.fmin f) f.d (fun c => minMax32 false (srcS c 0) (srcS c 1)) s)

/-- FMAX: maximum (R167, R136). -/
def execFmax (f : RRR) (s : State) : Out :=
  .next (floatOp (.fmax f) f.d (fun c => minMax32 true (srcS c 0) (srcS c 1)) s)

/-- FLT: 1 if a < b (R167, R168). -/
def execFlt (f : RRR) (s : State) : Out :=
  .next (floatOp (.flt f) f.d (fun c => cmp32 2 (srcS c 0) (srcS c 1)) s)

/-- FLE: 1 if a ≤ b (R167, R168). -/
def execFle (f : RRR) (s : State) : Out :=
  .next (floatOp (.fle f) f.d (fun c => cmp32 3 (srcS c 0) (srcS c 1)) s)

/-- FEQ: 1 if a = b (R167, R168). -/
def execFeq (f : RRR) (s : State) : Out :=
  .next (floatOp (.feq f) f.d (fun c => cmp32 0 (srcS c 0) (srcS c 1)) s)

/-- FSQRT: Round(√a), long-latency (R167, R158). -/
def execFsqrt (f : RR) (s : State) : Out :=
  .next (floatLong (.fsqrt f) f.d (fun c => round32 (numSqrt (f32 (srcS c 0)))) s)

/-- FABS: a with bit 31 cleared (R167). -/
def execFabs (f : RR) (s : State) : Out :=
  .next (floatOp (.fabs f) f.d (fun c => ((srcS c 0 &&& 0x7FFFFFFF), flagNone)) s)

/-- FNEG: a with bit 31 inverted (R167). -/
def execFneg (f : RR) (s : State) : Out :=
  .next (floatOp (.fneg f) f.d (fun c => (((srcS c 0 &&& 0xFFFFFFFF) ^^^ 0x80000000), flagNone)) s)

/-- FCVTI: to a signed 64-bit integer by RNE (R167, R168). -/
def execFcvti (f : RR) (s : State) : Out :=
  .next (floatOp (.fcvti f) f.d (fun c => toInt64 0 (srcS c 0)) s)

/-- FCVTIZ: to a signed 64-bit integer by RTZ (R167, R168). -/
def execFcvtiz (f : RR) (s : State) : Out :=
  .next (floatOp (.fcvtiz f) f.d (fun c => toInt64 1 (srcS c 0)) s)

/-- FCVTF: from a signed 64-bit integer (R167). -/
def execFcvtf (f : RR) (s : State) : Out :=
  .next (floatOp (.fcvtf f) f.d (fun c => round32 (.ofInt (srcS c 0).toInt, flagNone)) s)

/-- FCVTFU: from an unsigned 64-bit integer (R167). -/
def execFcvtfu (f : RR) (s : State) : Out :=
  .next (floatOp (.fcvtfu f) f.d (fun c => round32 (.ofInt ((srcS c 0).toNat : Int), flagNone)) s)

/-- FCLASS: the class mask of bits [31:0] (R169). -/
def execFclass (f : RR) (s : State) : Out :=
  .next (floatOp (.fclass f) f.d (fun c => ((1#64 <<< classOf fp32 ((srcS c 0).toNat % 2 ^ 32)), flagNone)) s)

end Sys2Proof.Machine
end

