-- ==== Sys2Proof/Machine/Registers.lean ====
section
/-!
DEFINITION. Writes to the registers of the host port's windows (R364, R426, R446, R448, R485, R486, R488), 8 aligned bytes at a time, and
requests of the host for device memory (R291).
-/

namespace Sys2Proof.Machine

/-! ### BAR 0: queue windows (R364) -/

/-- Hardware queues of the module (R22). -/
def queueCount : Nat := 4096

/-- The module queue that a function sees under a number (R446). -/
def moduleQueue (s : State) (fn lq : Nat) : Option Nat := ((List.range queueCount).filter (fun q => (queueOwner s q).1 = fn))[lq]?

/-- A write to QCTL (R366). -/
def queueControl (s : State) (q : Nat) (v : Word) : State :=
  match v.toNat % 16 with
  | 1 => enableQueue s q
  | 2 => resetQueue s q
  | 3 => destroyQueue s q
  | 4 => destroyDeadline s q
  | _ => s

/-- A write to the control page of a queue. -/
def queueWrite (s : State) (q off : Nat) (v : Word) : State :=
  let free := (getQueue s q).state = .disabled
  if off = 0 then launchStore s q (wordBytes 8 v) false
  else if off = 0x40 then if free then modQueue s q (fun r => { r with qbase := v }) else s
  else if off = 0x48 then if free then modQueue s q (fun r => { r with qcfg := v }) else s
  else if off = 0x68 then queueControl s q v
  else if off = 0x70 then modQueue s q (fun r => { r with deadline := v })
  else s

/-! ### BAR 2: mailboxes and planner windows -/

/-- A block of bytes with 8 of them replaced. -/
def patchBytes (bs : List Byte) (o : Nat) (v : Word) : List Byte := bs.take o ++ wordBytes 8 v ++ bs.drop (o + 8)

/-- A write to AUTHCMD (R426): the command is taken when its byte 0 is written. -/
def mailWrite (s : State) (fn o : Nat) (v : Word) : State :=
  let mail := patchBytes (getAuth s fn).mail o v
  if o = 0 then if (getAuth s fn).busy then s else authCommand s fn (cmdNat mail 0 1) mail
  else modAuth s fn (fun a => { a with mail := mail })

/-- The timers that a write of PLCTL leaves: a field out of range keeps its value (R481). -/
def planTimers (v : Word) (p : Planner) : Planner :=
  let g := bitsOf v.toNat 0 32
  let p := if 10000 ≤ g && g ≤ 10000000 then { p with grace := g } else p
  let k := bitsOf v.toNat 32 32
  if p.grace + 10000 ≤ k && k ≤ 100000000 then { p with kill := k } else p

/-- The host-link share that a write of PLCTL leaves. -/
def planShare (v : Word) (p : Planner) : Planner :=
  let b := bitsOf v.toNat 0 32
  if 1 ≤ b && b ≤ 256000 then { p with ckbw := b } else p

/-- A write to a planner window (R481). -/
def planWrite (s : State) (part o : Nat) (v : Word) : State :=
  if 0x20000 ≤ o && o < 0x20040 then
    let cmd := patchBytes (getPlanner s part).cmd (o - 0x20000) v
    if o = 0x20000 then planCommand s part (cmdNat cmd 0 1) cmd else modPlanner s part (fun p => { p with cmd := cmd })
  else if o = 0x20080 then modPlanner s part (planTimers v)
  else if o = 0x20088 then modPlanner s part (planShare v)
  else s

/-! ### BAR 2: the physical function's blocks (R486) -/

/-- A value that a register takes only when it is in range. -/
def inRange (s : State) (ok : Bool) (f : Hub → Hub) : State := if ok then modHub s f else s

/-- A write to a hub control register at offset `o` of their block. -/
def hubWrite (s : State) (o : Nat) (v : Word) : State :=
  let n := v.toNat
  if o = 0x00 then inRange s (n < 256) (fun h => { h with femode := v.setWidth 8 })
  else if o = 0x08 then inRange s (n % 4096 = 0 && n / 2 ^ 51 = 1) (fun h => { h with evrbase := v })
  else if o = 0x10 then inRange s (n % 16 ≤ 10 && bitsOf n 4 4 = 0 && n < 512) (fun h => { h with evrcfg := v })
  else if o = 0x20 then setReadIndex s v
  else if o = 0x28 then modHub s (fun h => { h with resval := v })
  else if o = 0x30 then answerRequest s v
  else if o = 0x38 then inRange s (1 ≤ n && n ≤ 1000000) (fun h => { h with mpctl := n })
  else if o = 0x40 then inRange s (1 ≤ n && n ≤ 256) (fun h => { h with rotshare := n })
  else if 0x48 ≤ o && o < 0x68 then inRange s (1 ≤ n && n ≤ 1000) (fun h => { h with sndrec := tabPut ((o - 0x48) / 8) n h.sndrec })
  else s

/-- A function's mint policy (R425). -/
def policyWrite (s : State) (fn : Nat) (v : Word) : State :=
  if vfCount < fn || 2 ^ 33 ≤ v.toNat then s
  else configWrite s fn (fun s => modFn s fn (fun f => { f with rights := v.setWidth 32, hreq := v.getLsbD 32 }))

/-- 64 bits of a virtual function's allow-list (R450). -/
def allowWrite (s : State) (vf i : Nat) (v : Word) : State :=
  configWrite s vf (fun s => modFn s vf (fun f =>
    let keep : BitVec 1024 := ~~~((BitVec.ofNat 1024 (2 ^ 64 - 1)) <<< (64 * i))
    { f with allow := (f.allow &&& keep) ||| (v.setWidth 1024 <<< (64 * i)) }))

/-- An entry of the cause table (R451). -/
def causeWrite (s : State) (i : Nat) (v : Word) : State :=
  if bitsOf v.toNat 12 7 = 0 && bitsOf v.toNat 19 7 ≤ vfCount then modHub s (fun h => { h with causes := tabPut i v h.causes }) else s

/-- An entry of the queue map (R446). Its old and its new function must be in CONFIG_UNLOCKED (R448). -/
def mapWrite (s : State) (q : Nat) (v : Word) : State :=
  let fn := bitsOf v.toNat 0 7
  let part := bitsOf v.toNat 8 8
  if 2 ^ 16 ≤ v.toNat || bitsOf v.toNat 7 1 = 1 || vfCount < fn then s
  else
    let fns := [(queueOwner s q).1, fn].eraseDups
    if fns.any (fun f => isVf f && (getFn s f).tdisp != .unlocked) then (fns.filter (frozen s)).foldl toError s
    else { s with qmap := tabPut q (fn, part) s.qmap }

/-- The number of a granule of the module by its physical address: 4,096 of 16 MiB to a stack (R251, R446). -/
def granuleKey (s : State) (i : Nat) : Nat := stackBase s (i / 4096) / 2 ^ 24 + i % 4096

/-- Eight entries of the granule map, from `i` (R446). -/
def granuleWrite (s : State) (i : Nat) (v : Word) : State :=
  (List.range 8).foldl (fun s j => { s with granules := tabPut (granuleKey s (i + j)) (bitsOf v.toNat (8 * j) 8) s.granules }) s

/-- A write to the debug window (R475, R476). -/
def debugWrite (s : State) (o : Nat) (v : Word) : State :=
  if o < 8 * coreCount then debugCore s (o / 8) (v.getLsbD 0) (v.getLsbD 1) (v.getLsbD 2)
  else if 0x800 ≤ o && o < 0x800 + 8 * clusterCount then engineFreeze s ((o - 0x800) / 8) (v.getLsbD 0)
  else s

/-- A write to BAR 2 of the physical function. -/
def pfWrite (s : State) (o : Nat) (v : Word) : State :=
  if o < 0x40 then mailWrite s 0 o v
  else if 0x2000 ≤ o && o < 0x3000 then hubWrite s (o - 0x2000) v
  else if 0x4000 ≤ o && o < 0x5000 then policyWrite s ((o - 0x4000) / 8) v
  else if 0x5000 ≤ o && o < 0x7000 then allowWrite s ((o - 0x5000) / 128 + 1) ((o - 0x5000) / 8 % 16) v
  else if 0x7000 ≤ o && o < 0x7200 then
    let vf := (o - 0x7000) / 8 + 1
    configWrite s vf (fun s => modFn s vf (fun f => { f with offset := v }))
  else if 0x8000 ≤ o && o < 0x10000 then causeWrite s ((o - 0x8000) / 8) v
  else if 0x10000 ≤ o && o < 0x14000 then
    let p := (o - 0x10000) / 64
    partWrite s p (patchBytes (tabGet ({} : Partition) p s.parts).bytes (o % 64) v)
  else if 0x14000 ≤ o && o < 0x1C000 then mapWrite s ((o - 0x14000) / 8) v
  else if 0x20000 ≤ o && o < 0x30000 then granuleWrite s (o - 0x20000) v
  else if 0x30000 ≤ o && o < 0x31000 then debugWrite s (o - 0x30000) v
  else if 0x1000000 ≤ o && o < 0x5000000 then planWrite s ((o - 0x1000000) / 0x40000) ((o - 0x1000000) % 0x40000) v
  else if 0x6000000 ≤ o && o < 0x6000800 then floorWrite s ((o - 0x6000000) / 8) v
  else s

/-! ### BAR 4: the boot window (R488) -/

/-- A write to the boot window. -/
def bootWrite (s : State) (o : Nat) (v : Word) : State :=
  if s.hub.boot = .off then s
  else if o = 8 then bootLen s v
  else if 0x1000 ≤ o && o < 0x2000 then modHub s (fun h => { h with record := memWrite h.record (o - 0x1000) (wordBytes 8 v) })
  else if 0x1000000 ≤ o && o < 0x5000000 then modHub s (fun h => { h with image := memWrite h.image (o - 0x1000000) (wordBytes 8 v) })
  else s

/-- A write of 8 aligned bytes at offset `off` of a BAR of a function. BAR 0 and BAR 2 take no write before READY (R485), and a function
that is reset takes none. -/
def registerWrite (s : State) (fn bar off : Nat) (v : Word) : State :=
  if off % 8 != 0 || vfCount < fn then s
  else if bar = 4 then if fn = 0 then bootWrite s off v else s
  else if s.hub.boot != .ready || muted s fn then s
  else if bar = 0 then match moduleQueue s fn (off / 4096) with
    | some q => queueWrite s q (off % 4096) v
    | none => s
  else if bar = 2 then if fn = 0 then pfWrite s off v else if off < 0x40 then mailWrite s fn off v else s
  else s

/-! ### Requests for device memory (R291) -/

/-- The bytes of memory that a host's request touches; an AtomicOp is of 4 or 8 bytes, with an operand of that length, or two for CAS (R484). -/
def hostSize (req : HostReq) (bytes : List Byte) (len : Nat) : Nat :=
  let atomic (k : Nat) : Nat := if (len = 4 || len = 8) && bytes.length = k * len then len else 0
  match req with
  | .read => len
  | .write => bytes.length
  | .fetchAdd | .swap => atomic 1
  | .cas => atomic 2

/-- What a host's request writes where memory holds `old` (R314, R484). -/
def hostNew (req : HostReq) (bytes old : List Byte) : List Byte :=
  let n := old.length
  match req with
  | .read => []
  | .write | .swap => bytes
  | .fetchAdd => leBytes n (leNat old + leNat bytes)
  | .cas => if bytes.take n = old then bytes.drop n else old

/-- A host's request is applied at its home in the order of arrival; data that enters gets its check value there (R291, R438). The completion of
a read or of an AtomicOp returns the old bytes. The host makes such requests to its own memory too, where the module need not be powered
(R290, R314, R484). -/
def hostRequest (s : State) (pa : Nat) (req : HostReq) (bytes : List Byte) (len : Nat) : State :=
  let n := hostSize req bytes len
  if n = 0 || 2 ^ 52 < pa + n || (!isHost pa && s.hub.boot = .off) || isRemote s pa then s
  else
    let old := readHome s (.mem pa) n
    let new := hostNew req bytes old
    match (if req = .write then none else readBad s (.mem pa) n).orElse (fun _ => writeBad s (.mem pa) new.length) with
    | some e => postBad s e (.mem pa)
    | none =>
      let s := if req = .write then s else modHub s (fun h => { h with reply := old })
      if new = [] then s else writeHome s (.mem pa) new

/-- REGISTER_WRITE (R486). -/
def execEvRegisterWrite (fn bar off : Nat) (v : Word) (s : State) : Out := .next (registerWrite s fn bar off v)
/-- HOST_PORT_REQUEST of a function (R291). -/
def execEvHostPortRequest (_fn pa : Nat) (req : HostReq) (bytes : Bytes) (len : Nat) (s : State) : Out := .next (hostRequest s pa req bytes len)

end Sys2Proof.Machine
end

