-- ==== Sys2Proof/Machine/Skerry.lean ====
section
/-!
DEFINITION. The skerries (R390): they take events, run the handlers of the front end's functions, and the watchdog stops a handler that
runs too long.
-/

namespace Sys2Proof.Machine

/-- Whether the launch of a queue has nothing to be dispatched to now: it may not start, or too few clusters are free (R374, R387). -/
def dispatchMoot (s : State) (q : Nat) : Bool :=
  let o := queueOwner s q
  match (getQueue s q).launch with
  | none => true
  | some l =>
    !(launchMay s q l false || launchMay s q l true) ||
      ((partClusters s o.2).filter (fun cl => clusterFree s cl (getFn s o.1).tenant o.2)).length < l.nodes

/-- Whether a handler in hardware mode has nothing to do any more: what its event asked for has gone, or must wait (R390). -/
def moot (s : State) (e : HubEvent) : Bool :=
  !e.posts && match e.bit with
    | 0 => if e.source < 2 ^ 20 then !mayParse s e.source else dispatchMoot s (e.source - 2 ^ 20)
    | 1 => s.faults.all (fun f => f.seq != some e.source)
    | 2 => (dueAct s e.source).all (fun a => a.op.all (· < 2))
    | 3 => (getPlanner s e.source).evict.isNone || (getPlanner s e.source).vacant
    | 4 => (getAuth s e.source).phase != 2 || (getAuth s e.source).swept
    | 5 =>
      let d := tabGet {} (e.source / 16) s.domains
      d.state != 2 || stackLines ≤ tabGet 0 (e.source % 16) d.marks
    | _ => true

/-- The event as a skerry takes it: FEMODE gives the mode of a request at this moment (R391). A move to the escape channel
is queued only to be posted (R394). -/
def takeMode (s : State) (e : HubEvent) : HubEvent := { e with host := e.bit = 6 || (e.bit < 8 && s.hub.femode.getLsbD e.bit) }

/-- A skerry whose handler has nothing to do any more is idle. -/
def endMoot (s : State) (sk : Nat) : State :=
  if (tabFind sk s.hub.skerries).any (fun e => moot s e.1) then modHub s (fun h => { h with skerries := tabDel sk h.skerries }) else s

/-- SKERRY_TAKE_EVENT: an idle skerry takes the oldest event whose lock is free (R390). The skerries run from READY on (R488). -/
def skerryTake (s0 : State) (sk : Nat) : State :=
  let s := endMoot s0 sk
  if skerryCount ≤ sk || (tabFind sk s.hub.skerries).isSome || s.hub.boot != .ready then s
  else match s.hub.events.findIdx? (fun e => !lockHeld s e.lock) with
    | none => s
    | some i => match s.hub.events[i]? with
      | none => s
      | some e => modHub s (fun h => { h with events := h.events.eraseIdx i, skerries := tabPut sk (takeMode s e, s.tick) h.skerries })

/-- Cycles that a handler may run (R390). -/
def watchdogLimit : Nat := 20000

/-- HANDLER_WATCHDOG of a skerry (R390): the event is queued again once; at its second expiry its queue enters ERROR with 0x0A7, which
is reported. A record that waits for room in the ring is not a handler that runs, and a report is never dropped (R486). DESIGN CHOICE
(entry 189): the source that the report names is the skerry. -/
def watchdog (s : State) (sk : Nat) : State :=
  match tabFind sk s.hub.skerries with
  | none => s
  | some (e, t) =>
    if s.tick - t ≤ watchdogLimit || (e.posts && !ringTakes s.hub) || moot s e then s
    else
      let s := modHub s (fun h => { h with skerries := tabDel sk h.skerries })
      let again (s : State) : State := modHub s (fun h => { h with events := { e with tries := e.tries + 1, host := false } :: h.events })
      if e.tries = 0 then again s
      else
        let s := if e.lock < firstSource then queueError s e.lock 0x0A7 (getQueue s e.lock).ridx else s
        let s := if e.bit = reportBit then again s else s
        postEvent s 0x0A7 sk e.fn e.lock []

/-- SKERRY_TAKE_EVENT (R390). -/
def execEvSkerryTakeEvent (sk : Nat) (s : State) : Out := .next (skerryTake s sk)
/-- HANDLER_WATCHDOG (R390). -/
def execEvHandlerWatchdog (sk : Nat) (s : State) : Out := .next (watchdog s sk)

end Sys2Proof.Machine
end

