-- ==== Sys2Proof/Machine/System.lean ====
section
/-!
DEFINITION. The system instructions (R463–R465): CSRR, CSRW, CSRX, PMCRD and TIMERD, over the CSR table of R102.
-/

namespace Sys2Proof.Machine

/-- The names of the CSR table (R102). -/
inductive Csr where
  | vtype | fstat | seed | poolpw | localw | clustw | sharedw | ctxid | widhdr | nodeid | tenant | cause | epc | tfp | tvec
  | ringcnt | loopd | pmstat | tokfree | pkbase
  deriving DecidableEq, Repr

/-- The CSR of a number; none where the number is reserved (R102). -/
def csrOf (n : BitVec 12) : Option Csr :=
  match n.toNat with
  | 0x000 => some .vtype
  | 0x001 => some .fstat
  | 0x002 => some .seed
  | 0x003 => some .poolpw
  | 0x004 => some .localw
  | 0x005 => some .clustw
  | 0x006 => some .sharedw
  | 0x007 => some .ctxid
  | 0x008 => some .widhdr
  | 0x009 => some .nodeid
  | 0x00A => some .tenant
  | 0x010 => some .cause
  | 0x011 => some .epc
  | 0x012 => some .tfp
  | 0x013 => some .tvec
  | 0x014 => some .ringcnt
  | 0x015 => some .loopd
  | 0x020 => some .pmstat
  | 0x021 => some .tokfree
  | 0x030 => some .pkbase
  | _ => none

/-- The read-only CSRs (R464). -/
def Csr.readOnly : Csr → Bool
  | .poolpw | .ctxid | .widhdr | .nodeid | .tenant | .ringcnt => true
  | _ => false

/-- TOKFREE: entries that the caller owns, and free entries of the cluster's table (R398). -/
def tokFree (s : State) : Word :=
  let c := getCluster s s.cl
  BitVec.ofNat 64 ((c.toks.filter (fun e => e.2.owner = some s.x.cont.cid)).length * 2 ^ 16 + c.freeToks)

/-- RINGCNT: the counters, one byte each (R464). -/
def ringCnt (x : Context) : Word := leWord 64 x.ring.toList

/-- The value of a CSR (R102, R464). -/
def csrValue (s : State) : Csr → Word
  | .vtype => s.x.vtype
  | .fstat => s.x.fstat
  | .seed => s.x.seed
  | .poolpw => s.x.poolpw
  | .localw => s.x.localw
  | .clustw => s.x.clustw
  | .sharedw => s.x.sharedw
  | .ctxid => BitVec.ofNat 64 s.xid
  | .widhdr => s.x.widhdr
  | .nodeid => s.x.nodeid
  | .tenant => s.x.tenant
  | .cause => s.x.cause
  | .epc => s.x.epc
  | .tfp => s.x.tfp
  | .tvec => s.x.tvec
  | .ringcnt => ringCnt s.x
  | .loopd => BitVec.ofNat 64 s.x.loops.length
  | .pmstat => if s.x.pmstat then 1 else 0
  | .tokfree => tokFree s
  | .pkbase => s.x.pkbase

/-- The low `n` bits of a value. -/
def lowBits (n : Nat) (v : Word) : Word := BitVec.ofNat 64 (v.toNat % 2 ^ n)

/-- A value with its low `n` bits cleared. -/
def clearLow (n : Nat) (v : Word) : Word := BitVec.ofNat 64 (v.toNat / 2 ^ n * 2 ^ n)

/-- An aperture CSR written: the base changes, the size stays (R244). -/
def putBase (old v : Word) : Word := clearLow 24 v ||| lowBits 24 old

/-- CAUSE written: bits [30:10] read zero (R456). -/
def putCause (v : Word) : Word := v &&& 0xFFFFFFFF800003FF

/-- A CSR written under its rule: R121, R131, R142, R181, R190, R244, R398, R456, R464. -/
def csrPut (x : Context) (c : Csr) (v : Word) : Context :=
  match c with
  | .vtype => { x with vtype := lowBits 8 v }
  | .fstat => { x with fstat := lowBits 6 v }
  | .seed => { x with seed := lowBits 32 v, lanes := [] }
  | .localw => { x with localw := putBase x.localw v }
  | .clustw => { x with clustw := putBase x.clustw v }
  | .sharedw => { x with sharedw := putBase x.sharedw v }
  | .cause => { x with cause := putCause v }
  | .epc => { x with epc := lowBits 48 v }
  | .tfp => { x with tfp := clearLow 12 v }
  | .tvec => { x with tvec := lowBits 48 v }
  | .loopd => { x with loops := x.loops.drop (x.loops.length - (v.toNat % 8)) }
  | .pmstat => { x with pmstat := v.getLsbD 0 }
  | .pkbase => { x with pkbase := clearLow 11 v }
  | .poolpw | .ctxid | .widhdr | .nodeid | .tenant | .ringcnt | .tokfree => x

/-- Whether the accesses of a CSR wait for the earlier M instructions of the context: VTYPE and FSTAT (R143, R464), and SEED, whose
lanes those instructions step (R132). -/
def csrWaits (x : Context) (c : Csr) : Bool :=
  (c = .vtype || c = .fstat || c = .seed) && !((streamEntries x.stream).isEmpty && !x.wbs.any Writeback.exec)

/-- The checks of a CSR instruction: the CSR, or the cause (R456, R464). -/
def csrCheck (x : Context) (n : BitVec 12) (write : Bool) : Except Cause Csr :=
  match csrOf n with
  | none => .error 0x011
  | some c =>
    if write && c.readOnly then .error 0x010
    else if write && c = .tvec && !x.handler && x.tvec ≠ 0 then .error 0x012
    else .ok c

/-- A CSR instruction: its checks, its wait, then its effect. -/
def csrOp (i : Instr) (n : BitVec 12) (write : Bool) (eff : Csr → List (Option Src) → State → Done) (s : State) : State :=
  issue i .P (fun caps s =>
    match csrCheck s.x n write with
    | .error c => .trap s c 0 0
    | .ok c => if csrWaits s.x c then .hold s false else eff c caps s) s

/-- CSRR (R464). -/
def execCsrr (f : CsrRF) (s : State) : Out :=
  .next (csrOp (.csrr f) f.csr false (fun c _ s => putG s f.d (csrValue s c) flagNone) s)

/-- CSRW (R464). -/
def execCsrw (f : CsrWF) (s : State) : Out :=
  .next (csrOp (.csrw f) f.csr true (fun c caps s => .ok (modX s (fun x => csrPut x c (srcS caps 0))) flagNone) s)

/-- The new value of CSRX (R464). -/
def csrxNew (op : BitVec 2) (old a : Word) : Word := if op = 0 then a else if op = 1 then old ||| a else old &&& ~~~a

/-- CSRX: one indivisible step (R464). -/
def execCsrx (f : CsrXF) (s : State) : Out :=
  .next (csrOp (.csrx f) f.csr true (fun c caps s =>
    let old := csrValue s c
    putThen s f.d old (fun s => modX s (fun x => csrPut x c (csrxNew f.op old (srcS caps 0))))) s)

/-- Whether the caller may read a performance event: the physical function's work 0x000 to 0x37F, a virtual function's what its
allow-list names, and nobody the reserved events (R450, R493). -/
def eventAllowed (s : State) (e : Word) : Bool :=
  e.toNat < 0x380 && (s.x.fn = 0 || (getFn s s.x.fn).allow.getLsbD e.toNat)

/-- The counter of a performance event for a partition as it stands now: what it has counted since it was last read is free, and it never counts
down (R493, log entry 13). -/
def countEvent (s : State) (part e : Nat) : Word × State :=
  let (n, s) := takeFresh s
  let v := tabGet 0 (part * 1024 + e) s.hub.perf + Config.freeWord n
  (v, modHub s (fun h => { h with perf := tabPut (part * 1024 + e) v h.perf }))

/-- PMCRD reads the caller's partition's counter; a denied event reads 0 and sets PMSTAT[0] (R450, R465). -/
def execPmcrd (f : PmcF) (s : State) : Out :=
  .next (issue (.pmcrd f) .P (fun caps s =>
    if eventAllowed s (srcS caps 0) then
      let r := countEvent s (spacePart s.x.space) (srcS caps 0).toNat
      putG r.2 f.d r.1 flagNone
    else putThen s f.d 0 (fun s => modX s (fun x => { x with pmstat := true }))) s)

/-- The time offset of a function; 0 for the physical function (R450). -/
def timeOffset (s : State) (fn : Nat) : Word := if fn = 0 then 0 else (getFn s fn).offset

/-- TIMERD (R450, R465). -/
def execTimerd (f : D1) (s : State) : Out :=
  .next (issue (.timerd f) .P (fun _ s => putG s f.d (podTick s + timeOffset s s.x.fn) flagNone) s)

end Sys2Proof.Machine
end

