-- ==== Sys2Proof/Machine/Vector.lean ====
section
/-!
DEFINITION. The V family (R189–R203): lane arithmetic, comparison, selection, moves, reduction and permutation on the execute
side, and VSETT.
-/

namespace Sys2Proof.Machine

/-! ### Lanes (R189, R193) -/

/-- The container bits of lane `i` of width `w` bytes. -/
def laneNat (w : Nat) (x : Vec) (i : Nat) : Nat := bitsOf x.toNat (8 * w * i) (8 * w)

/-- A vector from the container bits of its lanes. -/
def lanesVec (w : Nat) (l : List Nat) : Vec := BitVec.ofNat 2048 (l.foldr (fun v acc => v % 2 ^ (8 * w) + acc * 2 ^ (8 * w)) 0)

/-- VTYPE's fields: element type, rounding mode and overflow policy (R190). -/
def vtypeTy (x : Context) : Nat := bitsOf x.vtype.toNat 0 4
def vtypeRnd (x : Context) : BitVec 2 := x.vtype.extractLsb' 4 2
def vtypeOvf (x : Context) : BitVec 2 := x.vtype.extractLsb' 6 2

/-- The types of lane arithmetic (R192). -/
def arithType (ty : Nat) : Bool := ty = 1 || ty = 2 || ty = 3 || ty = 9 || ty = 13 || ty = 14

/-- Every code but 15 (R192). -/
def anyType (ty : Nat) : Bool := ty ≤ 14

/-- FP32, BF16 and FP16 (R192). -/
def wideType (ty : Nat) : Bool := ty = 1 || ty = 2 || ty = 3

/-- The old value of a vector destination: zero for a queue (R193). -/
def oldV (x : Context) (vd : BitVec 5) : Vec := if vd.toNat < 28 then x.vval vd.toNat else 0

/-- The lanes of an instruction in lane order (R193). An active lane takes `f` with the lane's rounding state; under the stochastic
mode it steps once when `draws` (R131); an inactive lane takes `old`. A trap in a lane suppresses the instruction and is
reported with the lane's index (R141, R459). -/
def laneLoop (x : Context) (w : Nat) (draws : Bool) (mode ovf : BitVec 2) (p : Pred) (f : Nat → Rnd → Coded) (old : Nat → Nat) :
    List Nat → List Nat → Flags → Tab (BitVec 32) → Except (Cause × Nat) (List Nat × Flags × Tab (BitVec 32))
  | [], acc, fl, ls => .ok (acc.reverse, fl, ls)
  | i :: is, acc, fl, ls =>
    if laneOn w p i then
      let step := draws && mode = 2
      let st := if step then lfsrStep (x.lane i) else 0
      match f i ⟨mode, ovf, st⟩ with
      | .trap c => .error (c, i)
      | .ok code g => laneLoop x w draws mode ovf p f old is (code :: acc) (fl ||| g) (if step then tabPut i st ls else ls)
    else laneLoop x w draws mode ovf p f old is (old i :: acc) fl ls

/-- A vector result written at once, with its flags and lane states; it waits for its destination (R78, R193). -/
def putVec (s : State) (vd : BitVec 5) (v : Vec) (fl : Flags) (ls : Tab (BitVec 32)) : DoneM :=
  match writeVDst { s.x with lanes := ls } vd v with
  | .ok x => .ok { s with x := x } fl
  | .error q => .hold s q

/-- The result of a lane loop written to `vd`. -/
def putLanes (s : State) (vd : BitVec 5) (w : Nat) : Except (Cause × Nat) (List Nat × Flags × Tab (BitVec 32)) → DoneM
  | .ok (l, fl, ls) => putVec s vd (lanesVec w l) fl ls
  | .error (c, i) => .trap s c (BitVec.ofNat 32 i)

/-- Whether a vector destination that is also read is full (R163). -/
def readyV (x : Context) (vd : BitVec 5) : Bool := 28 ≤ vd.toNat || x.vfull vd.toNat

/-- A predicated lane-by-lane instruction of element type `ty` (R193). -/
def laneOp (s : State) (vd : BitVec 5) (ty : Nat) (draws : Bool) (mode ovf : BitVec 2) (p : Pred) (f : Nat → Rnd → Coded) : DoneM :=
  let w := contBytes ty
  if !readyV s.x vd then .hold s false
  else
    let old := oldV s.x vd
    putLanes s vd w (laneLoop s.x w draws mode ovf p f (laneNat w old) (List.range (laneCount ty)) [] flagNone s.x.lanes)

/-! ### Lane arithmetic (R194, R196) -/

/-- An integer result of `w` bytes under the overflow policy (R194). -/
def intPolicy (w : Nat) (ovf : BitVec 2) (v : Int) : Coded :=
  let lo : Int := -(2 ^ (8 * w - 1) : Nat)
  let hi : Int := (2 ^ (8 * w - 1) : Nat) - 1
  if lo ≤ v && v ≤ hi then .ok (unsigned (8 * w) v) flagNone
  else if ovf = 3 then .trap 0x020
  else if ovf = 0 then .ok (unsigned (8 * w) (clampInt lo hi v)) flagNone
  else .ok (unsigned (8 * w) v) flagNone

/-- The lane arithmetic of R196 by number: 0 add, 1 subtract, 2 multiply, 3 multiply-add, 4 negated multiply-add, 5 minimum,
6 maximum. -/
def intArith (op : Nat) (a b d : Int) : Int :=
  match op with
  | 0 => a + b
  | 1 => a - b
  | 2 => a * b
  | 3 => a * b + d
  | 4 => d - a * b
  | 5 => if a ≤ b then a else b
  | _ => if a ≤ b then b else a

/-- The same on floating values (R136, R196). -/
def floatArith (op : Nat) (a b d : ExactNum) : NumF :=
  match op with
  | 0 => numAdd a b
  | 1 => numAdd a b.flip
  | 2 => numMul a b
  | 3 => numFma false a b d
  | 4 => numFma true a b d
  | 5 => numMinMax false a b
  | _ => numMinMax true a b

/-- One lane of R196. -/
def arithLane (op ty : Nat) (r : Rnd) (a b d : Nat) : Coded :=
  match floatFmt ty with
  | some f => roundNum f r (floatArith op (floatDecode f a) (floatDecode f b) (floatDecode f d))
  | none =>
    let w := contBytes ty
    let sx := fun v => signed (8 * w) v
    intPolicy w r.ovf (intArith op (sx a) (sx b) (sx d))

/-- Whether the lanes of R196 are rounded, so that the stochastic mode steps them: floating results, exact ones too (R131, R193). -/
def arithDraws (ty : Nat) : Bool := (floatFmt ty).isSome

/-- A lane arithmetic instruction under VTYPE (R191, R196). -/
def vArith (i : Instr) (f : V3) (op : Nat) (s : State) : State :=
  issueM i false (fun caps s =>
    let ty := vtypeTy s.x
    if !arithType ty then .trap s 0x00D 0
    else
      let w := contBytes ty
      let d := oldV s.x f.vd
      laneOp s f.vd ty (arithDraws ty) (vtypeRnd s.x) (vtypeOvf s.x) (s.x.pval f.p.toNat) (fun i r =>
        arithLane op ty r (laneNat w (srcV caps 0) i) (laneNat w (srcV caps 1) i) (laneNat w d i))) s

/-- VADD (R196). -/
def execVadd (f : V3) (s : State) : Out := .next (vArith (.vadd f) f 0 s)
/-- VSUB (R196). -/
def execVsub (f : V3) (s : State) : Out := .next (vArith (.vsub f) f 1 s)
/-- VMUL (R196). -/
def execVmul (f : V3) (s : State) : Out := .next (vArith (.vmul f) f 2 s)
/-- VFMA: a × b + d, one rounding, vd read as the third source (R196). -/
def execVfma (f : V3) (s : State) : Out := .next (vArith (.vfma f) f 3 s)
/-- VFNMA: d − a × b (R196). -/
def execVfnma (f : V3) (s : State) : Out := .next (vArith (.vfnma f) f 4 s)
/-- VMIN (R196). -/
def execVmin (f : V3) (s : State) : Out := .next (vArith (.vmin f) f 5 s)
/-- VMAX (R196). -/
def execVmax (f : V3) (s : State) : Out := .next (vArith (.vmax f) f 6 s)

/-! ### Comparison and selection (R197, R198) -/

/-- A comparison of integer lanes: conditions 6 and 7 are unsigned (R197). -/
def intCond (c w a b : Nat) : Bool :=
  let x := signed (8 * w) a
  let y := signed (8 * w) b
  match c with
  | 0 => x = y
  | 1 => x ≠ y
  | 2 => x < y
  | 3 => x ≤ y
  | 4 => y < x
  | 5 => y ≤ x
  | 6 => a < b
  | _ => b ≤ a

/-- One lane of VCMP: its truth and flags. -/
def cmpLane (c ty a b : Nat) : Bool × Flags :=
  match floatFmt ty with
  | some f => numCond c (floatDecode f a) (floatDecode f b)
  | none => (intCond c (contBytes ty) a b, flagNone)

/-- VCMP over the lanes: the byte groups of active lanes get the truth value, the others keep theirs (R197). -/
def cmpLanes (c ty : Nat) (p old : Pred) (a b : Vec) : Pred × Flags :=
  let w := contBytes ty
  (List.range (laneCount ty)).foldl (fun acc i =>
    if laneOn w p i then
      let (t, fl) := cmpLane c ty (laneNat w a i) (laneNat w b i)
      let mask : Pred := BitVec.ofNat 256 ((2 ^ w - 1) <<< (w * i))
      (if t then acc.1 ||| mask else acc.1 &&& ~~~mask, acc.2 ||| fl)
    else acc) (old, flagNone)

/-- VCMP (R197). -/
def execVcmp (f : VCmpF) (s : State) : Out :=
  .next (issueM (.vcmp f) false (fun caps s =>
    let ty := vtypeTy s.x
    if !arithType ty then .trap s 0x00D 0
    else
      let (r, fl) := cmpLanes f.c.toNat ty (s.x.pval f.p.toNat) (s.x.pval f.pd.toNat) (srcV caps 0) (srcV caps 1)
      .ok (modX s (fun x => x.setP f.pd.toNat r)) fl) s)

/-- VSEL: lanes of va where the selector is 1, else of vb (R198). -/
def execVsel (f : V3) (s : State) : Out :=
  .next (issueM (.vsel f) false (fun caps s =>
    let ty := vtypeTy s.x
    if !anyType ty then .trap s 0x00D 0
    else putVec s f.vd (mergeLanes (contBytes ty) (s.x.pval f.p.toNat) (srcV caps 0) (srcV caps 1)) flagNone s.x.lanes) s)

/-! ### Moves (R199, R200, R203) -/

/-- Lanes of `new` where active, the old destination elsewhere (R193). -/
def moveLanes (s : State) (vd : BitVec 5) (p : BitVec 3) (new : Nat → Vec) : DoneM :=
  let ty := vtypeTy s.x
  if !anyType ty then .trap s 0x00D 0
  else if !readyV s.x vd then .hold s false
  else putVec s vd (mergeLanes (contBytes ty) (s.x.pval p.toNat) (new (contBytes ty)) (oldV s.x vd)) flagNone s.x.lanes

/-- VBCAST: bits [8w − 1 : 0] of the scalar in every active lane (R199). -/
def execVbcast (f : VBc) (s : State) : Out :=
  .next (issueM (.vbcast f) false (fun caps s =>
    moveLanes s f.vd f.p (fun w => lanesVec w (List.replicate (256 / w) (srcS caps 0).toNat))) s)

/-- A VMOV from a queue that has no entry for it yet: without trap-if-empty it leaves the execute side and takes its entry in queue
order, vd marked empty until then (R195). -/
def vmovLate (f : V2) (e : Entry) (s : State) : Option DoneM :=
  let qn := f.va.toNat - 28
  if f.va < 28#5 || f.ta || (e.caps.getD 0 none).isSome || (popVNext true s.x qn).isSome then none
  else
    let ty := vtypeTy s.x
    if !anyType ty then some (.trap s 0x00D 0)
    else if !readyV s.x f.vd then some (.hold s false)
    else if 28 ≤ f.vd.toNat && vectorRoom ≤ loadV s.x true (f.vd.toNat - 28) then some (.hold s true)
    else
      let x := if f.vd < 28#5 then s.x.markV f.vd.toNat true else s.x
      some (.later { s with x := x } [.take f.vd.toNat qn (s.x.pval f.p.toNat) (contBytes ty) (oldV s.x f.vd) e] flagNone)

/-- VMOV: copies lanes; from a queue without trap-if-empty it is long-latency (R195, R200). -/
def execVmov (f : V2) (s : State) : Out :=
  .next (issueLate (.vmov f) false (vmovLate f) (fun caps s => moveLanes s f.vd f.p (fun _ => srcV caps 0)) s)

/-- VPERM: lane t mod n of va, t the unsigned lane of vb (R203). -/
def execVperm (f : V3) (s : State) : Out :=
  .next (issueM (.vperm f) false (fun caps s =>
    moveLanes s f.vd f.p (fun w =>
      lanesVec w ((List.range (256 / w)).map (fun i => laneNat w (srcV caps 0) (laneNat w (srcV caps 1) i % (256 / w)))))) s)

/-! ### Reduction (R153, R201) -/

/-- Pairwise halving: `n` rounds. -/
def halve {α : Type} (op : α → α → α) (d : α) : Nat → List α → α
  | 0, l => l.headD d
  | n + 1, l => let h := l.length / 2; halve op d n ((l.take h).zipWith op (l.drop h))

/-- The lanes of a floating reduction as FP32 codes, the identity where inactive (R153). -/
def redFloat (op ty : Nat) (f : FloatFmt) (p : Pred) (a : Vec) : Nat × Flags :=
  let w := contBytes ty
  let ident : Nat := match op with
    | 0 => 0x80000000
    | 1 => 0xFF800000
    | _ => 0x7F800000
  let lane (i : Nat) : Nat × Flags :=
    if laneOn w p i then (toFloat fp32 rneInf (floatDecode f (laneNat w a i))).get else (ident, flagNone)
  let comb (x y : Nat × Flags) : Nat × Flags :=
    let v := match op with
      | 0 => numAdd (floatDecode fp32 x.1) (floatDecode fp32 y.1)
      | 1 => numMinMax true (floatDecode fp32 x.1) (floatDecode fp32 y.1)
      | _ => numMinMax false (floatDecode fp32 x.1) (floatDecode fp32 y.1)
    let (c, fl) := (roundNum fp32 rneInf v).get
    (c, fl ||| x.2 ||| y.2)
  halve comb (ident, flagNone) (laneCount ty).log2 ((List.range (laneCount ty)).map lane)

/-- The lanes of an integer reduction, the identity where inactive: a wrapping sum, or a signed extreme (R153, R201). DESIGN CHOICE (log
entry 182): the identity of a maximum is the least value of the type, that of a minimum the greatest; R153 gives −∞ and +∞ only. -/
def redInt (op ty : Nat) (p : Pred) (a : Vec) : Nat :=
  let w := contBytes ty
  let ident : Int := match op with
    | 0 => 0
    | 1 => -2147483648
    | _ => 2147483647
  let lane (i : Nat) : Int := if laneOn w p i then signed (8 * w) (laneNat w a i) else ident
  let comb (x y : Int) : Int := match op with
    | 0 => signed 32 (unsigned 32 (x + y))
    | 1 => if x ≤ y then y else x
    | _ => if x ≤ y then x else y
  unsigned 32 (halve comb ident (laneCount ty).log2 ((List.range (laneCount ty)).map lane))

/-- VRED: lane 0 of the 32-bit lanes, the rest zero (R201). -/
def execVred (f : VRedF) (s : State) : Out :=
  .next (issueM (.vred f) false (fun caps s =>
    let ty := vtypeTy s.x
    if !arithType ty then .trap s 0x00D 0
    else
      let p := s.x.pval f.p.toNat
      let (r, fl) := match floatFmt ty with
        | some fm => redFloat f.op.toNat ty fm p (srcV caps 0)
        | none => (redInt f.op.toNat ty p (srcV caps 0), flagNone)
      putVec s f.vd (BitVec.ofNat 2048 r) fl s.x.lanes) s)

/-- VSETT: writes VTYPE[7:0] (R202). -/
def execVsett (f : VSettF) (s : State) : Out :=
  .next (issueM (.vsett f) false (fun _ s =>
    .ok (modX s (fun x => { x with vtype := (f.ovf ++ f.rnd ++ f.type).setWidth 64 })) flagNone) s)

end Sys2Proof.Machine
end

