-- ==== Sys2Proof/Machine/VecMem.lean ====
section
/-!
DEFINITION. The VM family (R204–R207): vector loads and stores, gathers and scatters, on the access side.
-/

namespace Sys2Proof.Machine

/-- An access of up to 16 KiB cut at the page boundary that it may cross: addresses and lengths. -/
def pagePieces (a n : Nat) : List (Nat × Nat) :=
  let m := min n (16384 - a % 16384)
  if m < n then [(a, m), (a + m, n - m)] else [(a, n)]

/-- The pieces of an access of a context, which its first address decodes: a window access is whole, a global one is cut at the page
boundary (R245). -/
def accessPieces (x : Context) (a n : Nat) : List (Nat × Nat) := if windowOf x a = 0 then pagePieces a n else [(a, n)]

/-- The home of a piece: global where the access is, whatever window the piece would lie in by itself (R245). -/
def pieceHome (s : State) (glob : Bool) (need : Need) (a n al : Nat) : Except AccFault Target :=
  if glob then resolveGlobal s s.xid need a al else resolve s s.xid need a n al

/-- Plain loads of pieces, concatenated, each of its parts on its own (R270); `al` is the alignment asked of each piece, and `glob` says
that the access is global. -/
def loadPieces (glob : Bool) (al : Nat) : List (Nat × Nat) → List (List Byte) → State → Acc (List Byte)
  | [], acc, s => .ok acc.reverse.flatten s
  | (a, n) :: rest, acc, s =>
    match wideLoadAt s s.xid a n acc.flatten.length (pieceHome s glob needLoad a n al) with
    | .ok r s => loadPieces glob al rest (r :: acc) s
    | .hold s => .hold s
    | .trap s c d f => .trap s c d f

/-- The 256 bytes at `a`, unchanged. -/
def load256 (s : State) (a al : Nat) : Acc (List Byte) := loadPieces (windowOf s.x a = 0) al (accessPieces s.x a 256) [] s

/-- The parts of at most 256 bytes that `n` bytes from a 256-aligned address lie in. -/
def parts256 (a n : Nat) : List (Nat × Nat) :=
  (List.range ((n + 255) / 256)).map (fun i => (a + 256 * i, min 256 (n - 256 * i)))

/-- A decoding load: the containers of the page's format, from as many stream bits as they need (R123, R126, R205). Through an
aperture, and on a RAW page, the bytes move unchanged. -/
def loadDecoded (s : State) (a : Nat) : Acc (List Byte) :=
  match resolve s s.xid needLoad a 256 256 with
  | .ok ⟨_, some t⟩ =>
    if t.fmt = 0 then load256 s a 256
    else
      let p := (patternOf s.x.pats t.pat (elemBits t.fmt)).getD (densePattern 8)
      let needed := laneCount t.fmt
      match loadPieces true 1 (parts256 a ((streamBits p needed + 7) / 8)) [] s with
      | .ok bs s => .ok (contList t.fmt (extract p t.fmt (leNat bs) 0 needed)) s
      | .hold s => .hold s
      | .trap s c d f => .trap s c d f
  | _ => load256 s a 256

/-- Whether a push of the access side to vector queue `n` has room. -/
def roomAE (x : Context) (n : Nat) : Bool := !pendingQv x false n && (pushV false x n 0).isSome

/-- A vector loaded into access-to-execute queue `n`: it waits for room before it accesses memory. -/
def loadQueue (s : State) (n : Nat) (acc : State → Acc (List Byte)) : Done :=
  if !roomAE s.x n then .hold s true
  else match acc s with
    | .ok bs s => match pushV false s.x n (vecOf bs) with
      | some x => .ok { s with x := x } flagNone
      | none => .hold s true
    | .hold s => .hold s false
    | .trap s c d f => .trap s c d f

/-- The effective address of VLD and VST: g[b] + 256 × off8 (R204). -/
def vmAddr (f : VMF) (b : Word) : Nat := (b + BitVec.ofNat 64 (256 * f.off.toNat)).toNat

/-- VLD (R204, R205). -/
def execVld (f : VMF) (s : State) : Out :=
  .next (issue (.vld f) .P (fun caps s =>
    loadQueue s (f.q.toNat - 28) (fun s =>
      if f.dc then loadDecoded s (vmAddr f (srcS caps 0)) else load256 s (vmAddr f (srcS caps 0)) 16)) s)

/-- A plain store of a vector instruction: address, alignment and bytes. -/
abbrev VStore := Nat × Nat × List Byte

/-- Checks a run of stores before any of them is performed: traps of R304 steps 1 to 3 and watermarks; it counts the stores that
enter the shoal log, all of them from the first on (R259, R260). -/
def storeCheck (glob logging : Bool) : Nat → List VStore → State → Acc Nat
  | slots, [], s => .ok slots s
  | slots, (a, al, bs) :: rest, s =>
    match pieceHome s glob needStore a bs.length al with
    | .error (.early e) => .trap s e (accDetail true false false) (BitVec.ofNat 64 a)
    | .error (.trans _) => storeCheck glob true (slots + 1) rest s
    | .ok t =>
      match holdCheck s s.xid t.loc a bs.length false true (accDetail true false false) with
      | some r => r
      | none => storeCheck glob logging (if logging then slots + 1 else slots) rest s

/-- Performs stores in order. -/
def storeRun (glob : Bool) : List VStore → State → Acc Unit
  | [], s => .ok () s
  | (a, al, bs) :: rest, s =>
    match plainStoreAt s s.xid a bs (pieceHome s glob needStore a bs.length al) with
    | .ok _ s => storeRun glob rest s
    | .hold s => .hold s
    | .trap s c d f => .trap s c d f

/-- A run of plain stores, performed together once none of them must wait. -/
def storeAll (glob : Bool) (l : List VStore) (s : State) : Done :=
  match storeCheck glob (!(ownShoal s s.xid).isEmpty) 0 l s with
  | .hold s => .hold s false
  | .trap s c d f => .trap s c d f
  | .ok slots s =>
    if 64 < (getCore s s.core).shoal.length + slots then
      match (fullHold s s.xid ((l.head?.map (·.1)).getD 0) : Acc Unit) with
      | .ok _ s => .hold s false
      | .hold s => .hold s false
      | .trap s c d f => .trap s c d f
    else match storeRun glob l s with
      | .ok _ s => .ok s flagNone
      | .hold s => .hold s false
      | .trap s c d f => .trap s c d f

/-- VST (R204, R205). -/
def execVst (f : VMF) (s : State) : Out :=
  .next (issue (.vst f) .P (fun caps s =>
    let bs := vecBytes (srcV caps 0)
    let a := vmAddr f (srcS caps 1)
    if a % 16 ≠ 0 && a < 2 ^ 57 then .trap s 0x107 (accDetail true false false) (BitVec.ofNat 64 a)
    else storeAll (windowOf s.x a = 0) ((accessPieces s.x a 256).map (fun p => (p.1, 1, (bs.drop (p.1 - a)).take p.2))) s) s)

/-- The lanes of an index vector that name an element (R206): lane number and byte offset. -/
def indexLanes (idx : Vec) : List (Nat × Nat) :=
  ((List.range 64).map (fun i => (i, laneNat 4 idx i))).filter (fun e => e.2 != 0xFFFFFFFF)

/-- Gathers elements of `n` bytes, lane by lane: each loaded lane with its bytes. -/
def gather (a n : Nat) : List (Nat × Nat) → List (Nat × List Byte) → State → Acc (List (Nat × List Byte))
  | [], acc, s => .ok acc s
  | (i, o) :: rest, acc, s =>
    match plainBytesAt s ((a + o) % 2 ^ 64) n with
    | .ok bs s => gather a n rest ((i, bs) :: acc) s
    | .hold s => .hold s
    | .trap s c d f => .trap s c d f

/-- The bytes of the gathered vector: element i in lane i of `n` bytes, zero elsewhere. -/
def gathered (n : Nat) (l : List (Nat × List Byte)) : List Byte :=
  (List.range 64).flatMap (fun i => ((l.find? (fun e => e.1 = i)).map (·.2)).getD (List.replicate n 0))

/-- VLDG (R206, R207). -/
def execVldg (f : VGF) (s : State) : Out :=
  .next (issue (.vldg f) .P (fun caps s =>
    let n := sizeBytes f.sz
    loadQueue s (f.q.toNat - 28) (fun s =>
      match gather (srcS caps 1).toNat n (indexLanes (srcV caps 0)) [] s with
      | .ok l s => .ok (gathered n l) s
      | .hold s => .hold s
      | .trap s c d f => .trap s c d f)) s)

/-- VSTS: stores in ascending lane order (R206, R207). -/
def execVsts (f : VGF) (s : State) : Out :=
  .next (issue (.vsts f) .P (fun caps s =>
    let n := sizeBytes f.sz
    let a := (srcS caps 2).toNat
    let data := vecBytes (srcV caps 1)
    storeAll false ((indexLanes (srcV caps 0)).map (fun e => ((a + e.2) % 2 ^ 64, n, (data.drop (n * e.1)).take n))) s) s)

end Sys2Proof.Machine
end

