-- ==== Sys2Proof/Machine/VecX.lean ====
section
/-!
DEFINITION. The VX family but for the functions of one argument that are not algebraic (R208–R218): bitwise functions,
division and roots, conversions, quantisation, packing, lane moves, scans and classes.
-/

namespace Sys2Proof.Machine

/-- The element types of a VX function. -/
def sTy (f : VXF) : Nat := f.st.toNat
def dTy (f : VXF) : Nat := f.dt.toNat

/-- The segment number of VCVT, VQUANT and VDEQ. -/
def segNo (f : VXF) : Nat := bitsOf f.imm.toNat 6 2

/-- The block length of VQUANT and VDEQ. -/
def blockOf (f : VXF) : Nat := geomLen (bitsOf f.imm.toNat 0 3)

/-- VABS and VNEG (R192). -/
def signType (ty : Nat) : Bool := (1 ≤ ty && ty ≤ 9) || ty = 13 || ty = 14

/-- VCVT (R192). -/
def cvtType (ty : Nat) : Bool := (1 ≤ ty && ty ≤ 9) || ty = 11 || ty = 13 || ty = 14

/-- The scaled formats of VQUANT and VDEQ. -/
def scaledType (ty : Nat) : Bool := 4 ≤ ty && ty ≤ 12

/-- VPACK and VUNPK (R192). -/
def packType (ty : Nat) : Bool := ty = 6 || ty = 7 || ty = 8 || ty = 11 || ty = 12

/-- VIOTA (R192). -/
def countType (ty : Nat) : Bool := ty = 9 || ty = 13 || ty = 14

/-- The floating element types (R192). -/
def floatType (ty : Nat) : Bool := 1 ≤ ty && ty ≤ 8

/-! ### Bitwise functions and signs (R211) -/

/-- A predicated function of the lanes' container bits without rounding. -/
def vxBits (i : Instr) (f : VXF) (ok : Nat → Bool) (fn : Nat → Nat → Nat → Nat) (s : State) : State :=
  issueM i false (fun caps s =>
    let ty := sTy f
    if !ok ty then .trap s 0x00D 0
    else
      let w := contBytes ty
      laneOp s f.vd ty false 0 0 (s.x.pval f.p.toNat) (fun i _ =>
        .ok (fn w (laneNat w (srcV caps 0) i) (laneNat w (srcV caps 1) i)) flagNone)) s

/-- VAND (R211). -/
def execVand (f : VXF) (s : State) : Out := .next (vxBits (.vand f) f anyType (fun _ a b => a &&& b) s)
/-- VOR (R211). -/
def execVor (f : VXF) (s : State) : Out := .next (vxBits (.vor f) f anyType (fun _ a b => a ||| b) s)
/-- VXOR (R211). -/
def execVxor (f : VXF) (s : State) : Out := .next (vxBits (.vxor f) f anyType (fun _ a b => a ^^^ b) s)
/-- VNOT (R211). -/
def execVnot (f : VXF) (s : State) : Out := .next (vxBits (.vnot f) f anyType (fun w a _ => 2 ^ (8 * w) - 1 - a) s)

/-- The shift count: imm8, or the lane of vb modulo the container width (R211). -/
def vxShift (f : VXF) (w b : Nat) : Nat := if f.x then f.imm.toNat else b % (8 * w)

/-- VSHL (R211). -/
def execVshl (f : VXF) (s : State) : Out := .next (vxBits (.vshl f) f anyType (fun w a b => a <<< vxShift f w b) s)
/-- VSHR (R211). -/
def execVshr (f : VXF) (s : State) : Out := .next (vxBits (.vshr f) f anyType (fun w a b => a >>> vxShift f w b) s)
/-- VSRA (R211). -/
def execVsra (f : VXF) (s : State) : Out :=
  .next (vxBits (.vsra f) f anyType (fun w a b => unsigned (8 * w) (signed (8 * w) a / (2 ^ vxShift f w b : Nat))) s)

/-- The sign of a lane cleared or inverted; the high bits of a container are written zero (R104, R136, R211). -/
def signLane (neg : Bool) (ty w a : Nat) : Nat :=
  match floatFmt ty with
  | some f =>
    let n := f.ebits + f.mbits
    let m := a % 2 ^ n
    if neg && bitsOf a n 1 = 0 then m + 2 ^ n else m
  | none =>
    let v := signed (8 * w) a
    unsigned (8 * w) (if neg || v < 0 then -v else v)

/-- VABS (R211). -/
def execVabs (f : VXF) (s : State) : Out := .next (vxBits (.vabs f) f signType (fun w a _ => signLane false (sTy f) w a) s)
/-- VNEG (R211). -/
def execVneg (f : VXF) (s : State) : Out := .next (vxBits (.vneg f) f signType (fun w a _ => signLane true (sTy f) w a) s)

/-! ### Long-latency functions (R195, R212) -/

/-- A long-latency vector result: vd is marked empty until it lands, and a queue must have room left for it (R78, R159, R195). -/
def laterV (s : State) (vd : BitVec 5) (v : Vec) (fl : Flags) (ls : Tab (BitVec 32)) : DoneM :=
  let r := vd.toNat
  let x := { s.x with lanes := ls }
  if r < 28 then .later { s with x := x.markV r true } [.v r v] fl
  else if loadV x true (r - 28) < vectorRoom then .later { s with x := x } [.qv (r - 28) v] fl
  else .hold s true

/-- A correctly rounded function of the lanes of va and vb (R144, R212). -/
def vxFunc (i : Instr) (f : VXF) (fn : FloatFmt → Rnd → Nat → Nat → Coded) (s : State) : State :=
  issueM i false (fun caps s =>
    let ty := sTy f
    match (if wideType ty then floatFmt ty else none) with
    | none => .trap s 0x00D 0
    | some fm =>
      let w := contBytes ty
      if !readyV s.x f.vd then .hold s false
      else
        let old := oldV s.x f.vd
        match laneLoop s.x w true f.rnd f.ovf (s.x.pval f.p.toNat)
            (fun i r => fn fm r (laneNat w (srcV caps 0) i) (laneNat w (srcV caps 1) i)) (laneNat w old) (List.range (laneCount ty)) []
            flagNone s.x.lanes with
        | .ok (l, fl, ls) => laterV s f.vd (lanesVec w l) fl ls
        | .error (c, i) => .trap s c (BitVec.ofNat 32 i)) s

/-- VDIV (R212). -/
def execVdiv (f : VXF) (s : State) : Out :=
  .next (vxFunc (.vdiv f) f (fun fm r a b => roundNum fm r (numDiv (floatDecode fm a) (floatDecode fm b))) s)
/-- VSQRT (R212). -/
def execVsqrt (f : VXF) (s : State) : Out :=
  .next (vxFunc (.vsqrt f) f (fun fm r a _ => roundNum fm r (numSqrt (floatDecode fm a))) s)
/-- VRCP: 1 / a (R145, R212). -/
def execVrcp (f : VXF) (s : State) : Out :=
  .next (vxFunc (.vrcp f) f (fun fm r a _ => roundNum fm r (numDiv (.fin false 1 0 false) (floatDecode fm a))) s)
/-- VRSQRT (R145, R212). -/
def execVrsqrt (f : VXF) (s : State) : Out :=
  .next (vxFunc (.vrsqrt f) f (fun fm r a _ => roundNum fm r (numRsqrt (floatDecode fm a))) s)

/-! ### Conversion (R213) -/

/-- `codes` in lanes `d0` onward of width `w` over `old`. -/
def segVec (w : Nat) (old : Vec) (d0 : Nat) (codes : List Nat) : Vec :=
  lanesVec w ((List.range (256 / w)).map (fun i => if d0 ≤ i && i < d0 + codes.length then codes.getD (i - d0) 0 else laneNat w old i))

/-- Unpredicated results for destination lanes `d0` to `d0 + n − 1`, each rounded with its lane's state (R131, R213). -/
def segLoop (x : Context) (draws : Bool) (mode ovf : BitVec 2) (d0 n : Nat) (fn : Nat → Rnd → Coded) :
    Except (Cause × Nat) (List Nat × Flags × Tab (BitVec 32)) :=
  laneLoop x 1 draws mode ovf (BitVec.allOnes 256) (fun i r => fn (i - d0) r) (fun _ => 0) ((List.range n).map (· + d0)) [] flagNone x.lanes

/-- VCVT (R213). -/
def execVcvt (f : VXF) (s : State) : Out :=
  .next (issueM (.vcvt f) false (fun caps s =>
    let dt := dTy f
    let st := sTy f
    if !cvtType dt || !cvtType st then .trap s 0x00D 0
    else
      let cd := contBytes dt
      let cs := contBytes st
      let n := 256 / max cd cs
      let s0 := if cs < cd then (segNo f) * n else 0
      let d0 := if cd < cs then (segNo f) * n else 0
      if cd < cs && !readyV s.x f.vd then .hold s false
      else match segLoop s.x true f.rnd f.ovf d0 n (fun e r => toElem dt r (elemDecode st (laneNat cs (srcV caps 0) (s0 + e)))) with
        | .ok (l, fl, ls) => putVec s f.vd (segVec cd (oldV s.x f.vd) d0 l) fl ls
        | .error (c, i) => .trap s c (BitVec.ofNat 32 i)) s)

/-! ### Quantisation (R214, R215) -/

/-- RoundUp of a positive value into a format (R7, R142): its code and flags; beyond the largest finite value that one, with
overflow and inexact. -/
def roundUp (f : FloatFmt) (m : Nat) (e : Int) (sticky : Bool) : Nat × Flags :=
  let k : Int := (m.log2 : Int) + e
  let emin : Int := 1 - (f.bias : Int)
  let up (q : Int) : Nat × Bool :=
    if q ≤ e then (m <<< (e - q).toNat, sticky)
    else
      let n := m >>> (q - e).toNat
      let inx := sticky || n <<< (q - e).toNat != m
      (if inx then n + 1 else n, inx)
  let q := (if k < emin then emin else k) - f.mbits
  let (n, inx) := up q
  let (n, q) := if 2 ^ (f.mbits + 1) ≤ n then (n / 2, q + 1) else (n, q)
  let code := packMag f n q
  if maxCode f < code then (maxCode f, flagOverflow ||| flagInexact)
  else
    let tiny := k < emin && ((up (k - f.mbits)).1 < 2 ^ (f.mbits + 1) || k + 1 < emin)
    (code, flagIf inx flagInexact ||| flagIf (inx && tiny) flagUnderflow)

/-- The exponent of the smallest power of two at or above m × 2^e. -/
def ceilLog (m : Nat) (e : Int) : Int := (m.log2 : Int) + e + (if m = 2 ^ m.log2 then 0 else 1)

/-- The block's elements as exact integers over a common exponent. -/
def blockInts (xs : List ExactNum) : List Int × Int :=
  let e0 := xs.foldl (fun (a : Int) v => match v with
    | .fin _ _ e _ => if e < a then e else a
    | _ => a) 1000
  (xs.map (fun v => match v with
    | .fin n m e _ => let k : Int := (m <<< (e - e0).toNat : Nat); if n then -k else k
    | _ => 0), e0)

/-- A block's scale: NaN block, or the scale as m × 2^e with its zero point, scale word and flags. -/
inductive BlockScale where
  | nan (word : Nat)
  | fin (m : Nat) (e : Int) (z : Nat) (word : Nat) (fl : Flags)
  deriving DecidableEq, Repr

/-- The scale m/den × 2^e of a block in the format `f`, rounded up, raised to a power of two under `pw`, limited to `top` (R214). -/
def upScale (f : FloatFmt) (span den : Nat) (dexp e : Int) (pw : Bool) (top : Option (Nat × Int)) : Nat × Int × Nat × Flags :=
  let sh := guardBits + den.log2
  let big := span <<< sh
  let (code, fl) := if span = 0 then (f.bias <<< f.mbits, flagNone) else roundUp f (big / den) (e - dexp - sh) (big % den != 0)
  match floatDecode f code with
  | .fin _ m x _ =>
    let (m, x) := if pw then (1, ceilLog m x) else (m, x)
    let (m, x) := match top with
      | some (tm, tx) => if numCmp (.fin false tm tx false) (.fin false m x false) < 0 then (tm, tx) else (m, x)
      | none => (m, x)
    (m, x, (roundFin f rneInf false m x false).get.1, fl)
  | _ => (1, 0, code, fl)

/-- The scale of a block (R214). -/
def blockScale (dt : Nat) (pw : Bool) (xs : List ExactNum) : BlockScale :=
  if xs.any (fun v => v.isNan || v.isInf) then .nan (if (floatFmt dt).isSome then 0x7FC00001 else 0x7E01)
  else
    let (ns, e0) := blockInts xs
    let amax := ns.foldl (fun a n => max a n.natAbs) 0
    match floatFmt dt with
    | some f =>
      match floatDecode f (maxCode f) with
      | .fin _ fm fe _ =>
        let (m, e, code, fl) := upScale fp32 amax fm fe e0 pw none
        .fin m e 0 code fl
      | _ => .nan 0
    | none =>
      let top : Nat × Int := if pw then (1, 15) else (2047, 5)
      if isSignedInt dt then
        let (m, e, code, fl) := upScale fp16 amax (if dt = 9 then 127 else 7) 0 e0 pw (some top)
        .fin m e 0 code fl
      else
        let r := if dt = 10 then 255 else 15
        let lo := ns.foldl (fun a n => if n < a then n else a) 0
        let hi := ns.foldl (fun a n => if a < n then n else a) 0
        let (m, e, code, fl) := upScale fp16 (hi - lo).toNat r 0 e0 pw (some top)
        match numDiv (.fin false lo.natAbs e0 false) (.fin false m e false) with
        | (.fin _ qm qe qs, _) =>
          let (z, inx) := roundInt rneInf false qm qe qs
          let z := (clampInt 0 r z).toNat
          .fin m e z (z * 2 ^ 16 + code) (fl ||| flagIf inx flagInexact)
        | _ => .nan 0

/-- One element of VQUANT under its block's scale (R214): the clamp of QA8 and QA4 sets no flag there, and traps under TRAP (R140). -/
def quantLane (dt : Nat) (r : Rnd) (v : ExactNum) : BlockScale → Coded
  | .nan _ => .ok 0 flagInvalid
  | .fin m e z _ _ =>
    match numDiv v (.fin false m e false) with
    | (.fin n qm qe qs, _) =>
      match floatFmt dt with
      | some f => roundFin f r n qm qe qs
      | none =>
        if isSignedInt dt then toIntType dt r 0 (.fin n qm qe qs)
        else
          let (q, inx) := roundInt r n qm qe qs
          let k := clampInt 0 (intRange dt).2 (q + z)
          if r.ovf = 3 && k != q + z then .trap 0x020 else .ok k.toNat (flagIf inx flagInexact)
    | _ => .ok 0 flagNone

/-- The scale word of a block and the flags of forming it. -/
def BlockScale.word : BlockScale → Nat × Flags
  | .nan w => (w, flagInvalid)
  | .fin _ _ _ w fl => (w, fl)

/-- Two vector results of one instruction; into one register the manual does not say which remains, so it is free. -/
def putTwo (s : State) (vd vs : BitVec 5) (a b : Vec) (fl : Flags) (ls : Tab (BitVec 32)) : DoneM :=
  if vd = vs then
    let (n, s) := takeFresh s
    putVec s vd (Config.freeVec n) fl ls
  else match putVec s vd a flagNone ls with
    | .ok s _ => putVec s vs b fl ls
    | r => r

/-- VQUANT (R214). -/
def execVquant (f : VXF) (s : State) : Out :=
  .next (issueM (.vquant f) false (fun caps s =>
    let dt := dTy f
    let st := sTy f
    if !wideType st || !scaledType dt then .trap s 0x00D 0
    else if !readyV s.x f.vd || !readyV s.x f.vb then .hold s false
    else
      let w := contBytes st
      let n := 256 / w
      let b := blockOf f
      let xs := (List.range n).map (fun i => elemDecode st (laneNat w (srcV caps 0) i))
      let scales := (List.range (n / b)).map (fun k => blockScale dt (f.imm.getLsbD 5) ((xs.drop (k * b)).take b))
      match segLoop s.x true f.rnd f.ovf (segNo f * n) n (fun i r => quantLane dt r (xs.getD i (.zero false)) (scales.getD (i / b) (.nan 0))) with
      | .error (c, i) => .trap s c (BitVec.ofNat 32 i)
      | .ok (l, fl, ls) =>
        let fl := scales.foldl (fun g k => g ||| k.word.2) fl
        putTwo s f.vd f.vb (segVec 1 (oldV s.x f.vd) (segNo f * n) l)
          (segVec 4 (oldV s.x f.vb) (segNo f * (n / b)) (scales.map (fun k => k.word.1))) fl ls) s)

/-- VDEQ (R215). -/
def execVdeq (f : VXF) (s : State) : Out :=
  .next (issueM (.vdeq f) false (fun caps s =>
    let dt := dTy f
    let st := sTy f
    match (if wideType dt && scaledType st then floatFmt dt else none) with
    | none => .trap s 0x00D 0
    | some fm =>
      let n := 256 / contBytes dt
      let b := blockOf f
      let g := bitsOf f.imm.toNat 0 3
      match segLoop s.x true f.rnd f.ovf 0 n (fun i r =>
          roundNum fm r (scaledValue st g (laneNat 1 (srcV caps 0) (segNo f * n + i)) (laneNat 4 (srcV caps 1) (segNo f * (n / b) + i / b)))) with
      | .error (c, i) => .trap s c (BitVec.ofNat 32 i)
      | .ok (l, fl, ls) => putVec s f.vd (lanesVec (contBytes dt) l) fl ls) s)

/-! ### Packing (R216) -/

/-- The pattern that VPACK and VUNPK use. -/
def vxPattern (f : VXF) : Pattern := if f.imm.getLsbD 0 then sixPattern else densePattern (elemBits (sTy f))

/-- The first bit and the width of element `i` of a packed vector. -/
def packedAt (p : Pattern) (i : Nat) : Nat × Nat :=
  let n := p.elems.length
  let (sh, w) := p.elems.getD (i % n) (0, 1)
  ((i / n) * p.period + sh, w)

/-- The elements h × 256 to h × 256 + 255 that lie in the stream, each with its container's number. -/
def packedElems (p : Pattern) (h : Nat) : List (Nat × Nat × Nat) :=
  ((List.range 256).map (fun e => (e, packedAt p (256 * h + e)))).filter (fun q => q.2.1 + q.2.2 ≤ 2048)

/-- VUNPK (R216). -/
def execVunpk (f : VXF) (s : State) : Out :=
  .next (issueM (.vunpk f) false (fun caps s =>
    if !packType (sTy f) then .trap s 0x00D 0
    else
      let l := packedElems (vxPattern f) (bitsOf f.imm.toNat 7 1)
      putVec s f.vd (lanesVec 1 (l.map (fun q => bitsOf (srcV caps 0).toNat q.2.1 q.2.2))) flagNone s.x.lanes) s)

/-- The bits of each period that the elements of a pattern leave unused, as a mask from the period's first bit. -/
def unusedBits (p : Pattern) : Nat :=
  p.elems.foldl (fun m e => m - ((2 ^ e.2 - 1) <<< e.1)) (2 ^ p.period - 1)

/-- VPACK (R216). -/
def execVpack (f : VXF) (s : State) : Out :=
  .next (issueM (.vpack f) false (fun caps s =>
    if !packType (sTy f) then .trap s 0x00D 0
    else if !readyV s.x f.vd then .hold s false
    else
      let p := vxPattern f
      let l := packedElems p (bitsOf f.imm.toNat 7 1)
      let written := l.foldl (fun m q =>
        m ||| ((2 ^ q.2.2 - 1) <<< q.2.1) ||| (unusedBits p <<< (q.2.1 / p.period * p.period))) 0
      let new := l.foldl (fun m q => m ||| ((laneNat 1 (srcV caps 0) q.1 % 2 ^ q.2.2) <<< q.2.1)) 0
      let mask : Vec := BitVec.ofNat 2048 written
      putVec s f.vd ((oldV s.x f.vd &&& ~~~mask) ||| BitVec.ofNat 2048 new) flagNone s.x.lanes) s)

/-! ### Lane moves, counts, scans and classes (R217, R218, R154) -/

/-- VSLIDE (R217). -/
def execVslide (f : VXF) (s : State) : Out :=
  .next (issueM (.vslide f) false (fun caps s =>
    if !anyType (sTy f) then .trap s 0x00D 0
    else
      let w := contBytes (sTy f)
      let n := 256 / w
      let k := f.imm.toNat
      putVec s f.vd (lanesVec w ((List.range n).map (fun i =>
        if i + k < n then laneNat w (srcV caps 0) (i + k) else laneNat w (srcV caps 1) (i + k - n)))) flagNone s.x.lanes) s)

/-- The 64 bits that VEXTR pushes for a lane (R217). -/
def extrWord (ty v : Nat) : Word :=
  if isSignedInt ty then BitVec.ofInt 64 (signed (elemBits ty) v) else BitVec.ofNat 64 v

/-- VEXTR (R217). -/
def execVextr (f : VXF) (s : State) : Out :=
  .next (issueM (.vextr f) false (fun caps s =>
    if !anyType (sTy f) then .trap s 0x00D 0
    else pushEA s (f.vd.toNat % 4) (extrWord (sTy f) (laneNat (contBytes (sTy f)) (srcV caps 0) f.imm.toNat)) flagNone) s)

/-- VINS (R217). -/
def execVins (f : VInsF) (s : State) : Out :=
  .next (issueM (.vins f) false (fun caps s =>
    let ty := f.st.toNat
    if !anyType ty then .trap s 0x00D 0
    else if !readyV s.x f.vd then .hold s false
    else
      let w := contBytes ty
      putVec s f.vd (segVec w (oldV s.x f.vd) f.k.toNat [(srcS caps 0).toNat]) flagNone s.x.lanes) s)

/-- VIOTA (R218). -/
def execViota (f : VXF) (s : State) : Out :=
  .next (issueM (.viota f) false (fun _ s =>
    if !countType (sTy f) then .trap s 0x00D 0
    else
      let w := contBytes (sTy f)
      let p := s.x.pval f.p.toNat
      let r := (List.range (256 / w)).foldl (fun (acc : List Nat × Nat) i => (acc.2 :: acc.1, if laneOn w p i then acc.2 + 1 else acc.2)) ([], 0)
      putVec s f.vd (lanesVec w r.1.reverse) flagNone s.x.lanes) s)

/-- The running value of VSCAN over the lanes, one for each output (R154, R218): an FP32 code, or a wrapping 32-bit sum. -/
def scanValues (ty w : Nat) (p : Pred) (a : Vec) : List ExactNum × Flags :=
  match floatFmt ty with
  | some fm =>
    let r := (List.range (256 / w)).foldl (fun (acc : List ExactNum × Nat × Flags) i =>
      let (c, fl) := if laneOn w p i then
          (roundNum fp32 rneInf (numAdd (floatDecode fp32 acc.2.1) (floatDecode fm (laneNat w a i)))).get
        else (acc.2.1, flagNone)
      (floatDecode fp32 c :: acc.1, c, acc.2.2 ||| fl)) ([], 0x80000000, flagNone)
    (r.1.reverse, r.2.2)
  | none =>
    let r := (List.range (256 / w)).foldl (fun (acc : List ExactNum × Int) i =>
      let c := if laneOn w p i then signed 32 (unsigned 32 (acc.2 + signed (8 * w) (laneNat w a i))) else acc.2
      (.ofInt c :: acc.1, c)) ([], 0)
    (r.1.reverse, flagNone)

/-- The output of a lane that is predicated off and whose value overflows under TRAP: it causes no trap (R193), and the manual states no
value, so it is free. -/
def scanFree (ty w i : Nat) (v : ExactNum) : Nat :=
  (Config.freeFn (1000 + ty) (BitVec.ofNat 32 (toElem 1 rneInf v).get.1) i).toNat % 2 ^ (8 * w)

/-- VSCAN's outputs, every lane rounded; only an active lane steps its state, raises flags and traps (R131, R154, R193). -/
def scanOut (x : Context) (ty w : Nat) (p : Pred) (mode ovf : BitVec 2) : Nat → List ExactNum → List Nat → Flags → Tab (BitVec 32) →
    Except (Cause × Nat) (List Nat × Flags × Tab (BitVec 32))
  | _, [], acc, fl, ls => .ok (acc.reverse, fl, ls)
  | i, v :: vs, acc, fl, ls =>
    let on := laneOn w p i
    let st := if mode = 2 then (if on then lfsrStep (x.lane i) else x.lane i) else 0
    match toElem ty ⟨mode, ovf, st⟩ v with
    | .trap c => if on then .error (c, i) else scanOut x ty w p mode ovf (i + 1) vs (scanFree ty w i v :: acc) fl ls
    | .ok code g =>
      scanOut x ty w p mode ovf (i + 1) vs (code :: acc) (if on then fl ||| g else fl) (if mode = 2 && on then tabPut i st ls else ls)

/-- VSCAN (R154, R218). -/
def execVscan (f : VXF) (s : State) : Out :=
  .next (issueM (.vscan f) false (fun caps s =>
    let ty := sTy f
    if !arithType ty then .trap s 0x00D 0
    else
      let w := contBytes ty
      let p := s.x.pval f.p.toNat
      let (vs, fl) := scanValues ty w p (srcV caps 0)
      putLanes s f.vd w (scanOut s.x ty w p f.rnd f.ovf 0 vs [] fl s.x.lanes)) s)

/-- VCLASS (R218). -/
def execVclass (f : VXF) (s : State) : Out :=
  .next (vxBits (.vclass f) f floatType (fun _ a _ => match floatFmt (sTy f) with
    | some fm => classOf fm (a % 2 ^ (1 + fm.ebits + fm.mbits))
    | none => 0) s)

end Sys2Proof.Machine
end

