-- ==== Sys2Proof/Machine/Transcend.lean ====
section
/-!
DEFINITION. VEXP2, VLOG2, VSINPI, VCOSPI and VTANH (R144, R145, R212): the exact value is enclosed ever more closely, in fixed point,
until both ends of the enclosure round alike. Values that are representable are told apart first, so every enclosed value is
irrational.
-/

namespace Sys2Proof.Machine

/-- An enclosure: sign, magnitudes lo and hi over 2^e; the exact magnitude lies strictly between lo and hi + 1. -/
structure Encl where
  neg : Bool
  lo  : Nat
  hi  : Nat
  e   : Int
  deriving DecidableEq, Repr

/-- How far a sum of this file may lie from the exact value, in units of the fixed point: far more than the steps of any of them. -/
def slack : Nat := 2 ^ 20

/-- Both ends of an enclosure rounded: the result if they agree. -/
def roundEncl (f : FloatFmt) (r : Rnd) (n : Encl) : Option Coded :=
  if n.lo < 2 ^ 64 || n.hi < n.lo then none
  else
    let a := roundFin f r n.neg n.lo n.e true
    if a = roundFin f r n.neg n.hi n.e true then some a else none

/-- The first of the fixed points `ps` whose enclosure rounds to one result. -/
def roundFn (f : FloatFmt) (r : Rnd) (enc : Nat → Encl) : List Nat → Option Coded
  | [] => none
  | p :: ps => match roundEncl f r (enc p) with
    | some c => some c
    | none => roundFn f r enc ps

/-- The fixed points that are tried, in bits. -/
def precisions : List Nat := [192, 448, 960]

/-- Terms summed of any series. -/
def seriesFuel : Nat := 400

/-! ### Series in fixed point with `p` fraction bits -/

/-- Σ t^k / k! from term `k` on, for t below 2^p. -/
def expSeries (p t : Nat) : Nat → Nat → Nat → Nat → Nat
  | 0, _, _, acc => acc
  | n + 1, k, term, acc =>
    let u := ((term * t) >>> p) / k
    if u = 0 then acc else expSeries p t n (k + 1) u (acc + u)

/-- e^t. -/
def expFix (p t : Nat) : Nat := expSeries p t seriesFuel 1 (2 ^ p) (2 ^ p)

/-- Σ z^(2k+1) / (2k+1), given z². -/
def atanhSeries (p z2 : Nat) : Nat → Nat → Nat → Nat → Nat
  | 0, _, _, acc => acc
  | n + 1, k, z, acc => if z = 0 then acc else atanhSeries p z2 n (k + 1) ((z * z2) >>> p) (acc + z / (2 * k + 1))

/-- The natural logarithm of num / den for num between den and 2 den. -/
def lnFix (p num den : Nat) : Nat :=
  let z := ((num - den) <<< p) / (num + den)
  2 * atanhSeries p ((z * z) >>> p) seriesFuel 0 z 0

/-- ln 2. -/
def ln2Fix (p : Nat) : Nat := lnFix p 2 1

/-- Σ (−1)^k n^−(2k+1) / (2k+1). -/
def atanInv (n2 : Nat) : Nat → Nat → Bool → Nat → Int → Int
  | 0, _, _, _, acc => acc
  | m + 1, k, neg, z, acc =>
    if z = 0 then acc
    else
      let t : Int := (z / (2 * k + 1) : Nat)
      atanInv n2 m (k + 1) (!neg) (z / n2) (if neg then acc - t else acc + t)

/-- π = 16 arctan(1/5) − 4 arctan(1/239). -/
def piFix (p : Nat) : Nat :=
  (16 * atanInv 25 seriesFuel 0 false (2 ^ p / 5) 0 - 4 * atanInv 57121 seriesFuel 0 false (2 ^ p / 239) 0).toNat

/-- The alternating series of sine (from j = 1, term y) and cosine (from j = 0, term 1), given y². -/
def altSeries (p y2 : Nat) : Nat → Nat → Bool → Nat → Int → Int
  | 0, _, _, _, acc => acc
  | n + 1, j, neg, term, acc =>
    if term = 0 then acc
    else altSeries p y2 n (j + 2) (!neg) (((term * y2) >>> p) / ((j + 1) * (j + 2))) (if neg then acc - term else acc + term)

/-- sin(π num / 2^d) for 0 < num / 2^d < 1/2. -/
def sinPiFix (p num d : Nat) : Nat :=
  if 4 * num ≤ 2 ^ d then
    let y := (num * piFix p) >>> d
    (altSeries p ((y * y) >>> p) seriesFuel 1 false y 0).toNat
  else
    let y := ((2 ^ d - 2 * num) * piFix p) >>> (d + 1)
    (altSeries p ((y * y) >>> p) seriesFuel 0 false (2 ^ p) 0).toNat

/-! ### The functions -/

/-- 2^x for x = ±m × 2^e: exact for an integer x. -/
def exp2Fin (f : FloatFmt) (r : Rnd) (n : Bool) (m : Nat) (e : Int) : Option Coded :=
  if m = 0 then some (roundFin f r false 1 0 false)
  else if 12 ≤ (m.log2 : Int) + e then some (roundFin f r false (2 ^ 64) (if n then -4000 else 4000) true)
  else
    let d := (-e).toNat
    let v : Int := ((m <<< e.toNat : Nat) : Int) * (if n then -1 else 1)
    let i := v / (2 ^ d : Nat)
    let fr := (v % (2 ^ d : Nat)).toNat
    if fr = 0 then some (roundFin f r false 1 i false)
    else roundFn f r (fun p =>
      let v := expFix p ((fr * ln2Fix p) >>> d)
      ⟨false, v, min (v + slack) (2 ^ (p + 1) - 1), i - p⟩) precisions

/-- log2 x for x = m × 2^e with m > 0: exact for a power of two. -/
def log2Fin (f : FloatFmt) (r : Rnd) (m : Nat) (e : Int) : Option Coded :=
  let l := m.log2
  let k : Int := (l : Int) + e
  if m = 2 ^ l then some (roundFin f r (k < 0) k.natAbs 0 false)
  else roundFn f r (fun p =>
    let v : Int := k * (2 ^ p : Nat) + (((lnFix p m (2 ^ l)) <<< p) / ln2Fix p : Nat)
    let lo := v.natAbs - slack
    ⟨v < 0, lo, lo + 2 * slack, -(p : Int)⟩) precisions

/-- sin(π num / 2^d) for a natural num, not a multiple of half a period: the sign and the reduced value. -/
def sinPiCore (f : FloatFmt) (r : Rnd) (neg : Bool) (num d : Nat) : Option Coded :=
  let u := num % 2 ^ (d + 1)
  let neg := neg != decide (2 ^ d ≤ u)
  let u := u % 2 ^ d
  let u := if 2 ^ d < 2 * u then 2 ^ d - u else u
  if 2 * u = 2 ^ d then some (roundFin f r neg 1 0 false)
  else roundFn f r (fun p =>
    let v := sinPiFix p u d
    ⟨neg, v - slack, min (v + slack) (2 ^ p - 1), -(p : Int)⟩) precisions

/-- sin(πx): a zero with the sign of x at an integer. -/
def sinPiFin (f : FloatFmt) (r : Rnd) (n : Bool) (m : Nat) (e : Int) : Option Coded :=
  let d := (-e).toNat
  if (m <<< e.toNat) % 2 ^ d = 0 then some (roundFin f r n 0 0 false) else sinPiCore f r n m d

/-- cos(πx) = sin(π(|x| + 1/2)): +0 half-way between integers. -/
def cosPiFin (f : FloatFmt) (r : Rnd) (m : Nat) (e : Int) : Option Coded :=
  let d := (-e).toNat + 1
  let num := 2 * (m <<< e.toNat) + 2 ^ (d - 1)
  if num % 2 ^ d = 0 then some (roundFin f r false 0 0 false) else sinPiCore f r false num d

/-- tanh x = 1 − 2 / (e^2x + 1), below x and below 1. -/
def tanhFin (f : FloatFmt) (r : Rnd) (n : Bool) (m : Nat) (e : Int) : Option Coded :=
  if m = 0 then some (roundFin f r n 0 0 false)
  else if 6 ≤ (m.log2 : Int) + e then some (roundFin f r n (2 ^ 128 - 1) (-128) true)
  else roundFn f r (fun p =>
    let x := (m <<< (p + e.toNat)) >>> (-e).toNat
    let l2 := ln2Fix p
    let k := 2 * x / l2
    let ex := expFix p (2 * x - k * l2) <<< k
    let v := 2 ^ p - (2 ^ (2 * p + 1)) / (ex + 2 ^ p)
    let top := if x <<< (-e).toNat = m <<< (p + e.toNat) then x - 1 else x
    ⟨n, v - slack, min (v + slack) (min top (2 ^ p - 1)), -(p : Int)⟩) precisions

/-- A function's lane: NaN and infinities, then the finite value; a value that no enclosure separates is free. -/
def fnLane (code : Nat) (f : FloatFmt) (r : Rnd) (special : ExactNum → Option NumF) (fin : Bool → Nat → Int → Option Coded) (a : Nat) :
    Coded :=
  let v := floatDecode f a
  match special v with
  | some w => roundNum f r w
  | none => match v with
    | .fin n m e _ => (fin n m e).getD (.ok ((Config.freeFn (code + 8 * r.mode.toNat) (BitVec.ofNat 32 a) f.mbits).toNat % 2 ^ (1 + f.ebits + f.mbits))
        flagInexact)
    | .nan sig => nanResult f r sig
    | .inf _ => .ok (nanCode f) flagInvalid

/-- VEXP2 (R145, R212). -/
def execVexp2 (f : VXF) (s : State) : Out :=
  .next (vxFunc (.vexp2 f) f (fun fm r a _ => fnLane 0 fm r (fun v => match v with
    | .inf n => some (if n then .zero false else .inf false, flagNone)
    | _ => none) (exp2Fin fm r) a) s)

/-- VLOG2 (R145, R212). -/
def execVlog2 (f : VXF) (s : State) : Out :=
  .next (vxFunc (.vlog2 f) f (fun fm r a _ => fnLane 1 fm r (fun v => match v with
    | .inf n => some (if n then nanInvalid else (.inf false, flagNone))
    | .fin n m _ _ => if m = 0 then some (.inf true, flagDivZero) else if n then some nanInvalid else none
    | .nan _ => none) (fun _ m e => log2Fin fm r m e) a) s)

/-- VSINPI (R145, R212). -/
def execVsinpi (f : VXF) (s : State) : Out :=
  .next (vxFunc (.vsinpi f) f (fun fm r a _ => fnLane 2 fm r (fun v => if v.isInf then some nanInvalid else none) (sinPiFin fm r) a) s)

/-- VCOSPI (R145, R212). -/
def execVcospi (f : VXF) (s : State) : Out :=
  .next (vxFunc (.vcospi f) f (fun fm r a _ => fnLane 3 fm r (fun v => if v.isInf then some nanInvalid else none)
    (fun _ m e => cosPiFin fm r m e) a) s)

/-- VTANH (R145, R212). -/
def execVtanh (f : VXF) (s : State) : Out :=
  .next (vxFunc (.vtanh f) f (fun fm r a _ => fnLane 4 fm r (fun v => match v with
    | .inf n => some (.fin n 1 0 false, flagNone)
    | _ => none) (tanhFin fm r) a) s)

end Sys2Proof.Machine
end

