-- ==== Sys2Proof/Machine/Dispatch.lean ====
section
/-!
DEFINITION. Dispatch: one arm for each constructor of the syntax, each one direct call of that instruction's meaning.
-/

namespace Sys2Proof.Machine

/-- The meaning of an instruction or of another agent's step. -/
def exec (i : Instr) (s : State) : Host.Outcome State Fault Refusal :=
  match i with
  | .add f => Sys2Proof.Machine.execAdd f s
  | .adds f => Sys2Proof.Machine.execAdds f s
  | .sub f => Sys2Proof.Machine.execSub f s
  | .subs f => Sys2Proof.Machine.execSubs f s
  | .mul f => Sys2Proof.Machine.execMul f s
  | .mulh f => Sys2Proof.Machine.execMulh f s
  | .mulhu f => Sys2Proof.Machine.execMulhu f s
  | .div f => Sys2Proof.Machine.execDiv f s
  | .divu f => Sys2Proof.Machine.execDivu f s
  | .rem f => Sys2Proof.Machine.execRem f s
  | .remu f => Sys2Proof.Machine.execRemu f s
  | .and f => Sys2Proof.Machine.execAnd f s
  | .or f => Sys2Proof.Machine.execOr f s
  | .xor f => Sys2Proof.Machine.execXor f s
  | .andn f => Sys2Proof.Machine.execAndn f s
  | .shl f => Sys2Proof.Machine.execShl f s
  | .shr f => Sys2Proof.Machine.execShr f s
  | .sra f => Sys2Proof.Machine.execSra f s
  | .rol f => Sys2Proof.Machine.execRol f s
  | .min f => Sys2Proof.Machine.execMin f s
  | .minu f => Sys2Proof.Machine.execMinu f s
  | .max f => Sys2Proof.Machine.execMax f s
  | .maxu f => Sys2Proof.Machine.execMaxu f s
  | .slt f => Sys2Proof.Machine.execSlt f s
  | .sltu f => Sys2Proof.Machine.execSltu f s
  | .seq f => Sys2Proof.Machine.execSeq f s
  | .sne f => Sys2Proof.Machine.execSne f s
  | .cmov f => Sys2Proof.Machine.execCmov f s
  | .clz f => Sys2Proof.Machine.execClz f s
  | .ctz f => Sys2Proof.Machine.execCtz f s
  | .popc f => Sys2Proof.Machine.execPopc f s
  | .brev f => Sys2Proof.Machine.execBrev f s
  | .sextB f => Sys2Proof.Machine.execSextB f s
  | .sextH f => Sys2Proof.Machine.execSextH f s
  | .sextW f => Sys2Proof.Machine.execSextW f s
  | .zextB f => Sys2Proof.Machine.execZextB f s
  | .zextH f => Sys2Proof.Machine.execZextH f s
  | .zextW f => Sys2Proof.Machine.execZextW f s
  | .abs f => Sys2Proof.Machine.execAbs f s
  | .neg f => Sys2Proof.Machine.execNeg f s
  | .addi f => Sys2Proof.Machine.execAddi f s
  | .andi f => Sys2Proof.Machine.execAndi f s
  | .ori f => Sys2Proof.Machine.execOri f s
  | .xori f => Sys2Proof.Machine.execXori f s
  | .shli f => Sys2Proof.Machine.execShli f s
  | .shri f => Sys2Proof.Machine.execShri f s
  | .srai f => Sys2Proof.Machine.execSrai f s
  | .slti f => Sys2Proof.Machine.execSlti f s
  | .sltiu f => Sys2Proof.Machine.execSltiu f s
  | .bfx f => Sys2Proof.Machine.execBfx f s
  | .bfi f => Sys2Proof.Machine.execBfi f s
  | .li f => Sys2Proof.Machine.execLi f s
  | .lis f => Sys2Proof.Machine.execLis f s
  | .addl f => Sys2Proof.Machine.execAddl f s
  | .fadd f => Sys2Proof.Machine.execFadd f s
  | .fsub f => Sys2Proof.Machine.execFsub f s
  | .fmul f => Sys2Proof.Machine.execFmul f s
  | .fma f => Sys2Proof.Machine.execFma f s
  | .fdiv f => Sys2Proof.Machine.execFdiv f s
  | .fmin f => Sys2Proof.Machine.execFmin f s
  | .fmax f => Sys2Proof.Machine.execFmax f s
  | .flt f => Sys2Proof.Machine.execFlt f s
  | .fle f => Sys2Proof.Machine.execFle f s
  | .feq f => Sys2Proof.Machine.execFeq f s
  | .fsqrt f => Sys2Proof.Machine.execFsqrt f s
  | .fabs f => Sys2Proof.Machine.execFabs f s
  | .fneg f => Sys2Proof.Machine.execFneg f s
  | .fcvti f => Sys2Proof.Machine.execFcvti f s
  | .fcvtiz f => Sys2Proof.Machine.execFcvtiz f s
  | .fcvtf f => Sys2Proof.Machine.execFcvtf f s
  | .fcvtfu f => Sys2Proof.Machine.execFcvtfu f s
  | .fclass f => Sys2Proof.Machine.execFclass f s
  | .pand f => Sys2Proof.Machine.execPand f s
  | .por f => Sys2Proof.Machine.execPor f s
  | .pxor f => Sys2Proof.Machine.execPxor f s
  | .pnot f => Sys2Proof.Machine.execPnot f s
  | .pfrom f => Sys2Proof.Machine.execPfrom f s
  | .pto f => Sys2Proof.Machine.execPto f s
  | .fset f => Sys2Proof.Machine.execFset f s
  | .frd f => Sys2Proof.Machine.execFrd f s
  | .br f => Sys2Proof.Machine.execBr f s
  | .bz f => Sys2Proof.Machine.execBz f s
  | .bnz f => Sys2Proof.Machine.execBnz f s
  | .bltz f => Sys2Proof.Machine.execBltz f s
  | .bgez f => Sys2Proof.Machine.execBgez f s
  | .jl f => Sys2Proof.Machine.execJl f s
  | .brl f => Sys2Proof.Machine.execBrl f s
  | .loop f => Sys2Proof.Machine.execLoop f s
  | .loopi f => Sys2Proof.Machine.execLoopi f s
  | .trap f => Sys2Proof.Machine.execTrap f s
  | .svc f => Sys2Proof.Machine.execSvc f s
  | .eret => Sys2Proof.Machine.execEret s
  | .brk f => Sys2Proof.Machine.execBrk f s
  | .ld f => Sys2Proof.Machine.execLd f s
  | .ldu f => Sys2Proof.Machine.execLdu f s
  | .st f => Sys2Proof.Machine.execSt f s
  | .lds f => Sys2Proof.Machine.execLds f s
  | .sts f => Sys2Proof.Machine.execSts f s
  | .lda f => Sys2Proof.Machine.execLda f s
  | .stl f => Sys2Proof.Machine.execStl f s
  | .aadd f => Sys2Proof.Machine.execAadd f s
  | .aand f => Sys2Proof.Machine.execAand f s
  | .aor f => Sys2Proof.Machine.execAor f s
  | .axor f => Sys2Proof.Machine.execAxor f s
  | .amin f => Sys2Proof.Machine.execAmin f s
  | .amax f => Sys2Proof.Machine.execAmax f s
  | .aminu f => Sys2Proof.Machine.execAminu f s
  | .amaxu f => Sys2Proof.Machine.execAmaxu f s
  | .aswp f => Sys2Proof.Machine.execAswp f s
  | .acas f => Sys2Proof.Machine.execAcas f s
  | .afadd f => Sys2Proof.Machine.execAfadd f s
  | .waita f => Sys2Proof.Machine.execWaita f s
  | .fenceFull f => Sys2Proof.Machine.execFenceFull f s
  | .fenceAcq f => Sys2Proof.Machine.execFenceAcq f s
  | .fenceRel f => Sys2Proof.Machine.execFenceRel f s
  | .fenceShoal f => Sys2Proof.Machine.execFenceShoal f s
  | .fenceIo f => Sys2Proof.Machine.execFenceIo f s
  | .ldm f => Sys2Proof.Machine.execLdm f s
  | .stm f => Sys2Proof.Machine.execStm f s
  | .cvta f => Sys2Proof.Machine.execCvta f s
  | .aspc f => Sys2Proof.Machine.execAspc f s
  | .finc f => Sys2Proof.Machine.execFinc f s
  | .fwait f => Sys2Proof.Machine.execFwait f s
  | .vadd f => Sys2Proof.Machine.execVadd f s
  | .vsub f => Sys2Proof.Machine.execVsub f s
  | .vmul f => Sys2Proof.Machine.execVmul f s
  | .vfma f => Sys2Proof.Machine.execVfma f s
  | .vfnma f => Sys2Proof.Machine.execVfnma f s
  | .vmin f => Sys2Proof.Machine.execVmin f s
  | .vmax f => Sys2Proof.Machine.execVmax f s
  | .vcmp f => Sys2Proof.Machine.execVcmp f s
  | .vsel f => Sys2Proof.Machine.execVsel f s
  | .vbcast f => Sys2Proof.Machine.execVbcast f s
  | .vmov f => Sys2Proof.Machine.execVmov f s
  | .vld f => Sys2Proof.Machine.execVld f s
  | .vst f => Sys2Proof.Machine.execVst f s
  | .vldg f => Sys2Proof.Machine.execVldg f s
  | .vsts f => Sys2Proof.Machine.execVsts f s
  | .vred f => Sys2Proof.Machine.execVred f s
  | .vsett f => Sys2Proof.Machine.execVsett f s
  | .vperm f => Sys2Proof.Machine.execVperm f s
  | .vand f => Sys2Proof.Machine.execVand f s
  | .vor f => Sys2Proof.Machine.execVor f s
  | .vxor f => Sys2Proof.Machine.execVxor f s
  | .vnot f => Sys2Proof.Machine.execVnot f s
  | .vshl f => Sys2Proof.Machine.execVshl f s
  | .vshr f => Sys2Proof.Machine.execVshr f s
  | .vsra f => Sys2Proof.Machine.execVsra f s
  | .vabs f => Sys2Proof.Machine.execVabs f s
  | .vneg f => Sys2Proof.Machine.execVneg f s
  | .vdiv f => Sys2Proof.Machine.execVdiv f s
  | .vsqrt f => Sys2Proof.Machine.execVsqrt f s
  | .vrcp f => Sys2Proof.Machine.execVrcp f s
  | .vrsqrt f => Sys2Proof.Machine.execVrsqrt f s
  | .vexp2 f => Sys2Proof.Machine.execVexp2 f s
  | .vlog2 f => Sys2Proof.Machine.execVlog2 f s
  | .vsinpi f => Sys2Proof.Machine.execVsinpi f s
  | .vcospi f => Sys2Proof.Machine.execVcospi f s
  | .vtanh f => Sys2Proof.Machine.execVtanh f s
  | .vcvt f => Sys2Proof.Machine.execVcvt f s
  | .vquant f => Sys2Proof.Machine.execVquant f s
  | .vdeq f => Sys2Proof.Machine.execVdeq f s
  | .vpack f => Sys2Proof.Machine.execVpack f s
  | .vunpk f => Sys2Proof.Machine.execVunpk f s
  | .vslide f => Sys2Proof.Machine.execVslide f s
  | .vextr f => Sys2Proof.Machine.execVextr f s
  | .vins f => Sys2Proof.Machine.execVins f s
  | .viota f => Sys2Proof.Machine.execViota f s
  | .vscan f => Sys2Proof.Machine.execVscan f s
  | .vclass f => Sys2Proof.Machine.execVclass f s
  | .mlease f => Sys2Proof.Machine.execMlease f s
  | .mrel f => Sys2Proof.Machine.execMrel f s
  | .mma f => Sys2Proof.Machine.execMma f s
  | .mmaq f => Sys2Proof.Machine.execMmaq f s
  | .mmv f => Sys2Proof.Machine.execMmv f s
  | .mzero f => Sys2Proof.Machine.execMzero f s
  | .mdrain f => Sys2Proof.Machine.execMdrain f s
  | .mldacc f => Sys2Proof.Machine.execMldacc f s
  | .cpy f => Sys2Proof.Machine.execCpy f s
  | .cpyg f => Sys2Proof.Machine.execCpyg f s
  | .cpys f => Sys2Proof.Machine.execCpys f s
  | .cpyr f => Sys2Proof.Machine.execCpyr f s
  | .cfill f => Sys2Proof.Machine.execCfill f s
  | .chbind f => Sys2Proof.Machine.execChbind f s
  | .chrd f => Sys2Proof.Machine.execChrd f s
  | .chunb f => Sys2Proof.Machine.execChunb f s
  | .pkset f => Sys2Proof.Machine.execPkset f s
  | .xst f => Sys2Proof.Machine.execXst f s
  | .xld f => Sys2Proof.Machine.execXld f s
  | .xamo f => Sys2Proof.Machine.execXamo f s
  | .car f => Sys2Proof.Machine.execCar f s
  | .cag f => Sys2Proof.Machine.execCag f s
  | .crs f => Sys2Proof.Machine.execCrs f s
  | .ca2a f => Sys2Proof.Machine.execCa2a f s
  | .cbc f => Sys2Proof.Machine.execCbc f s
  | .cbar f => Sys2Proof.Machine.execCbar f s
  | .nsend f => Sys2Proof.Machine.execNsend f s
  | .nrecv f => Sys2Proof.Machine.execNrecv f s
  | .nwrite f => Sys2Proof.Machine.execNwrite f s
  | .nread f => Sys2Proof.Machine.execNread f s
  | .opwait f => Sys2Proof.Machine.execOpwait f s
  | .optest f => Sys2Proof.Machine.execOptest f s
  | .opcancel f => Sys2Proof.Machine.execOpcancel f s
  | .opdetach f => Sys2Proof.Machine.execOpdetach f s
  | .opadopt f => Sys2Proof.Machine.execOpadopt f s
  | .oppri f => Sys2Proof.Machine.execOppri f s
  | .opfault f => Sys2Proof.Machine.execOpfault f s
  | .oprel f => Sys2Proof.Machine.execOprel f s
  | .kdone f => Sys2Proof.Machine.execKdone f s
  | .kyield f => Sys2Proof.Machine.execKyield f s
  | .kspawn f => Sys2Proof.Machine.execKspawn f s
  | .krange f => Sys2Proof.Machine.execKrange f s
  | .knext f => Sys2Proof.Machine.execKnext f s
  | .widf f => Sys2Proof.Machine.execWidf f s
  | .depdec f => Sys2Proof.Machine.execDepdec f s
  | .nextok f => Sys2Proof.Machine.execNextok f s
  | .prevwait f => Sys2Proof.Machine.execPrevwait f s
  | .bar f => Sys2Proof.Machine.execBar f s
  | .hld f => Sys2Proof.Machine.execHld f s
  | .hst f => Sys2Proof.Machine.execHst f s
  | .hnarrow f => Sys2Proof.Machine.execHnarrow f s
  | .hinfo f => Sys2Proof.Machine.execHinfo f s
  | .hchk f => Sys2Proof.Machine.execHchk f s
  | .hdrop f => Sys2Proof.Machine.execHdrop f s
  | .hreq f => Sys2Proof.Machine.execHreq f s
  | .csrr f => Sys2Proof.Machine.execCsrr f s
  | .csrw f => Sys2Proof.Machine.execCsrw f s
  | .csrx f => Sys2Proof.Machine.execCsrx f s
  | .pmcrd f => Sys2Proof.Machine.execPmcrd f s
  | .timerd f => Sys2Proof.Machine.execTimerd f s
  | .evLongLatencyWriteback c n => Sys2Proof.Machine.execEvLongLatencyWriteback c n s
  | .evShoalDrain u n => Sys2Proof.Machine.execEvShoalDrain u n s
  | .evFaultService n ans => Sys2Proof.Machine.execEvFaultService n ans s
  | .evTranslationHoldTimeout n => Sys2Proof.Machine.execEvTranslationHoldTimeout n s
  | .evPageRequestGroupSend => Sys2Proof.Machine.execEvPageRequestGroupSend s
  | .evPriResponse prg code => Sys2Proof.Machine.execEvPriResponse prg code s
  | .evAtsInvalidation va ptes => Sys2Proof.Machine.execEvAtsInvalidation va ptes s
  | .evWaitaWake c => Sys2Proof.Machine.execEvWaitaWake c s
  | .evDecouplingDeadlock c => Sys2Proof.Machine.execEvDecouplingDeadlock c s
  | .evTrapEntry c => Sys2Proof.Machine.execEvTrapEntry c s
  | .evTokenIssueTimeout c => Sys2Proof.Machine.execEvTokenIssueTimeout c s
  | .evFincArrival n => Sys2Proof.Machine.execEvFincArrival n s
  | .evFincRefusal n => Sys2Proof.Machine.execEvFincRefusal n s
  | .evRemoteWriteApply n => Sys2Proof.Machine.execEvRemoteWriteApply n s
  | .evReleasePacketApply n => Sys2Proof.Machine.execEvReleasePacketApply n s
  | .evRemoteWriteAck n => Sys2Proof.Machine.execEvRemoteWriteAck n s
  | .evMulticastRewrite grp members => Sys2Proof.Machine.execEvMulticastRewrite grp members s
  | .evFabricPacketArrival strait key cluster pa bytes => Sys2Proof.Machine.execEvFabricPacketArrival strait key cluster pa bytes s
  | .evEscapeMove n => Sys2Proof.Machine.execEvEscapeMove n s
  | .evLeaseGrant cl => Sys2Proof.Machine.execEvLeaseGrant cl s
  | .evIdlePossessionTimeout cl => Sys2Proof.Machine.execEvIdlePossessionTimeout cl s
  | .evLeaseRequestAging cl => Sys2Proof.Machine.execEvLeaseRequestAging cl s
  | .evLeaseReservationLapse cl => Sys2Proof.Machine.execEvLeaseReservationLapse cl s
  | .evMatrixOpStart cl => Sys2Proof.Machine.execEvMatrixOpStart cl s
  | .evMatrixBlockStep cl => Sys2Proof.Machine.execEvMatrixBlockStep cl s
  | .evMmvGroupStep cl => Sys2Proof.Machine.execEvMmvGroupStep cl s
  | .evTileMoveStep cl => Sys2Proof.Machine.execEvTileMoveStep cl s
  | .evCopyStart cl eng => Sys2Proof.Machine.execEvCopyStart cl eng s
  | .evCopyStep cl eng => Sys2Proof.Machine.execEvCopyStep cl eng s
  | .evPksetStep cl => Sys2Proof.Machine.execEvPksetStep cl s
  | .evRemoteTransferStep cl eng ok => Sys2Proof.Machine.execEvRemoteTransferStep cl eng ok s
  | .evCollectiveStep cl peers => Sys2Proof.Machine.execEvCollectiveStep cl peers s
  | .evCbarComplete cl ok => Sys2Proof.Machine.execEvCbarComplete cl ok s
  | .evMessageArrival cl ep peer tag bytes => Sys2Proof.Machine.execEvMessageArrival cl ep peer tag bytes s
  | .evRemoteRegionAccess ep region off wr bytes len => Sys2Proof.Machine.execEvRemoteRegionAccess ep region off wr bytes len s
  | .evEthernetRetryExhausted cl eng => Sys2Proof.Machine.execEvEthernetRetryExhausted cl eng s
  | .evEngineHeadAging cl eng => Sys2Proof.Machine.execEvEngineHeadAging cl eng s
  | .evIssuePromotion c ex => Sys2Proof.Machine.execEvIssuePromotion c ex s
  | .evReadyEntryAging n => Sys2Proof.Machine.execEvReadyEntryAging n s
  | .evWorkRequest core => Sys2Proof.Machine.execEvWorkRequest core s
  | .evRangeTaskStart n core => Sys2Proof.Machine.execEvRangeTaskStart n core s
  | .evContinuationResume c cid => Sys2Proof.Machine.execEvContinuationResume c cid s
  | .evLaunchr q bytes whole => Sys2Proof.Machine.execEvLaunchr q bytes whole s
  | .evEnable q => Sys2Proof.Machine.execEvEnable q s
  | .evReset q => Sys2Proof.Machine.execEvReset q s
  | .evDestroy q => Sys2Proof.Machine.execEvDestroy q s
  | .evDestroyWithDeadline q => Sys2Proof.Machine.execEvDestroyWithDeadline q s
  | .evDestroyDeadlineExpiry q => Sys2Proof.Machine.execEvDestroyDeadlineExpiry q s
  | .evPad q => Sys2Proof.Machine.execEvPad q s
  | .evLaunch q => Sys2Proof.Machine.execEvLaunch q s
  | .evFencePacket q => Sys2Proof.Machine.execEvFencePacket q s
  | .evFenceCountersMet q => Sys2Proof.Machine.execEvFenceCountersMet q s
  | .evSignal q => Sys2Proof.Machine.execEvSignal q s
  | .evSignalPerform q => Sys2Proof.Machine.execEvSignalPerform q s
  | .evGang q => Sys2Proof.Machine.execEvGang q s
  | .evGangTickReached q => Sys2Proof.Machine.execEvGangTickReached q s
  | .evIndirect q => Sys2Proof.Machine.execEvIndirect q s
  | .evIndirectDispatch q => Sys2Proof.Machine.execEvIndirectDispatch q s
  | .evTimestamp q => Sys2Proof.Machine.execEvTimestamp q s
  | .evTimestampWrite q => Sys2Proof.Machine.execEvTimestampWrite q s
  | .evNopPacket q => Sys2Proof.Machine.execEvNopPacket q s
  | .evFrontEndAccessFault q cause => Sys2Proof.Machine.execEvFrontEndAccessFault q cause s
  | .evBundleResident q places => Sys2Proof.Machine.execEvBundleResident q places s
  | .evEarlyStart q places => Sys2Proof.Machine.execEvEarlyStart q places s
  | .evXNodeReady b n partners => Sys2Proof.Machine.execEvXNodeReady b n partners s
  | .evNodeRetire b n => Sys2Proof.Machine.execEvNodeRetire b n s
  | .evBundleRetire b => Sys2Proof.Machine.execEvBundleRetire b s
  | .evSkerryTakeEvent sk => Sys2Proof.Machine.execEvSkerryTakeEvent sk s
  | .evHandlerWatchdog sk => Sys2Proof.Machine.execEvHandlerWatchdog sk s
  | .evEventRecordWrite => Sys2Proof.Machine.execEvEventRecordWrite s
  | .evResseq v => Sys2Proof.Machine.execEvResseq v s
  | .evEvrridx v => Sys2Proof.Machine.execEvEvrridx v s
  | .evRegisterWrite fn bar off v => Sys2Proof.Machine.execEvRegisterWrite fn bar off v s
  | .evAlloc fn cmd => Sys2Proof.Machine.execEvAlloc fn cmd s
  | .evMint fn cmd => Sys2Proof.Machine.execEvMint fn cmd s
  | .evRevoke fn cmd => Sys2Proof.Machine.execEvRevoke fn cmd s
  | .evFree fn cmd => Sys2Proof.Machine.execEvFree fn cmd s
  | .evRotate fn cmd => Sys2Proof.Machine.execEvRotate fn cmd s
  | .evEpset fn cmd => Sys2Proof.Machine.execEvEpset fn cmd s
  | .evRevocationTablesDone fn => Sys2Proof.Machine.execEvRevocationTablesDone fn s
  | .evRevocationComplete fn => Sys2Proof.Machine.execEvRevocationComplete fn s
  | .evRotationWalkerStep kd stack => Sys2Proof.Machine.execEvRotationWalkerStep kd stack s
  | .evContextSwitchScrub cl => Sys2Proof.Machine.execEvContextSwitchScrub cl s
  | .evPartitionTableWrite part bytes => Sys2Proof.Machine.execEvPartitionTableWrite part bytes s
  | .evJobKeyRegister part key => Sys2Proof.Machine.execEvJobKeyRegister part key s
  | .evTdispLock vf => Sys2Proof.Machine.execEvTdispLock vf s
  | .evTdispStart vf => Sys2Proof.Machine.execEvTdispStart vf s
  | .evTdispStop vf => Sys2Proof.Machine.execEvTdispStop vf s
  | .evBandwidthRefill die => Sys2Proof.Machine.execEvBandwidthRefill die s
  | .evPowerInterval demands => Sys2Proof.Machine.execEvPowerInterval demands s
  | .evPowerFloorWrite part v => Sys2Proof.Machine.execEvPowerFloorWrite part v s
  | .evOverCurrentWarning die => Sys2Proof.Machine.execEvOverCurrentWarning die s
  | .evThermalThrottle die => Sys2Proof.Machine.execEvThermalThrottle die s
  | .evThermalStop die => Sys2Proof.Machine.execEvThermalStop die s
  | .evThermalPowerOff => Sys2Proof.Machine.execEvThermalPowerOff s
  | .evPreempt part cmd => Sys2Proof.Machine.execEvPreempt part cmd s
  | .evEvict part cmd => Sys2Proof.Machine.execEvEvict part cmd s
  | .evRestore part cmd => Sys2Proof.Machine.execEvRestore part cmd s
  | .evGraceTimerExpiry part => Sys2Proof.Machine.execEvGraceTimerExpiry part s
  | .evKillTimerExpiry part => Sys2Proof.Machine.execEvKillTimerExpiry part s
  | .evCheckpointWrite part q => Sys2Proof.Machine.execEvCheckpointWrite part q s
  | .evPlannerPass part => Sys2Proof.Machine.execEvPlannerPass part s
  | .evEvictionKillTime part => Sys2Proof.Machine.execEvEvictionKillTime part s
  | .evFlr vf => Sys2Proof.Machine.execEvFlr vf s
  | .evFlrDrainBound vf => Sys2Proof.Machine.execEvFlrDrainBound vf s
  | .evDebugHalt core on => Sys2Proof.Machine.execEvDebugHalt core on s
  | .evDebugStep core => Sys2Proof.Machine.execEvDebugStep core s
  | .evBreakpointArm core on => Sys2Proof.Machine.execEvBreakpointArm core on s
  | .evEngineFreeze cl on => Sys2Proof.Machine.execEvEngineFreeze cl on s
  | .evContextStateError c => Sys2Proof.Machine.execEvContextStateError c s
  | .evL1ParityDrop core line instr => Sys2Proof.Machine.execEvL1ParityDrop core line instr s
  | .evPowerOn => Sys2Proof.Machine.execEvPowerOn s
  | .evPfReset => Sys2Proof.Machine.execEvPfReset s
  | .evBootlen v => Sys2Proof.Machine.execEvBootlen v s
  | .evImageCheck ok selfTest => Sys2Proof.Machine.execEvImageCheck ok selfTest s
  | .evRecordCheck ok => Sys2Proof.Machine.execEvRecordCheck ok s
  | .evStraitTraining strait => Sys2Proof.Machine.execEvStraitTraining strait s
  | .evStraitAttest strait peer => Sys2Proof.Machine.execEvStraitAttest strait peer s
  | .evKeyUpdate strait => Sys2Proof.Machine.execEvKeyUpdate strait s
  | .evStraitGroupFailure strait => Sys2Proof.Machine.execEvStraitGroupFailure strait s
  | .evStraitClose strait => Sys2Proof.Machine.execEvStraitClose strait s
  | .evPodTickSync t => Sys2Proof.Machine.execEvPodTickSync t s
  | .evHostPortRequest fn pa req bytes len => Sys2Proof.Machine.execEvHostPortRequest fn pa req bytes len s
  | .evWriteThroughReachesHome c n => Sys2Proof.Machine.execEvWriteThroughReachesHome c n s
  | .evMessageAcknowledged cl eng ok bytes => Sys2Proof.Machine.execEvMessageAcknowledged cl eng ok bytes s

end Sys2Proof.Machine
end

