-- ==== Sys2Proof/Machine/Sched.lean ====
section
/-!
DEFINITION. Who moves next (MODEL): the head of the agenda, or the model's own order when the agenda is empty; why a module is
stuck; and how an instruction is placed where the next step fetches it.
-/

namespace Sys2Proof.Machine

/-! ### The model's own order (MODEL) -/

/-- A move of the `m`-th of some units, counted round. -/
def onPick {α : Type} (l : List α) (m : Nat) (f : State → α → State) (s : State) : State :=
  match l[m % l.length]? with
  | some a => f s a
  | none => s

/-- The contexts that run a continuation. -/
def running (s : State) : List Nat := (ctxNumbers s).filter (fun c => (getCtx s c).run)

/-- The first result of a context that can land, and the first store that reaches its home. -/
def ownResults (s : State) (c : Nat) : State :=
  let x := getCtx s c
  let i := (List.range x.wbs.length).find? (fun i => (getCtx (landResult s c i) c).wbs.length < x.wbs.length)
  homeStore (landResult s c (i.getD 0)) c 0

/-- The units whose shoal logs hold entries, as SHOAL_DRAIN numbers them. -/
def shoalUnits (s : State) : List Nat :=
  (s.cores.filter (fun k => !k.2.shoal.isEmpty)).map (·.1) ++
    s.clusters.flatMap (fun c => (if c.2.logL.isEmpty then [] else [coreCount + 2 * c.1]) ++
      (if c.2.logS.isEmpty then [] else [coreCount + 2 * c.1 + 1]))

/-- The timers and waits of a context. -/
def ownWaits (s : State) (c : Nat) : State :=
  let s := promote (promote s c false) c true
  onCtx (onCtx (onCtx s c tokenTimeout) c deadlock) c enterRaised

/-- The array lease of a cluster. -/
def ownLease (s : State) (cl : Nat) : State := leaseGrant (leaseLapse (leaseAging (idlePass s cl) cl) cl) cl

/-- The matrix engine of a cluster. -/
def ownMatrix (s : State) (cl : Nat) : State :=
  tileMoveStep (mmvGroupStep (matrixBlockStep (matrixOpStart (headAging s cl 2) cl) cl) cl) cl

/-- A copy engine of a cluster; what other modules answer, they answer well. -/
def ownCopy (eng : Nat) (s : State) (cl : Nat) : State :=
  let s := remoteStep (copyStep (copyStart (headAging s cl eng) cl eng) cl eng) cl eng true
  if eng = 0 then pksetStep s cl else cbarComplete (collStep s cl ⟨true, false, []⟩) cl true

/-- A packet in flight. -/
def ownPacket (s : State) (i : Nat) : State :=
  fincRefuse (ackPacket (escape (fincArrive (applyPacket (applyPacket s i false) i true) i) i) i) i

/-- The places of a launch's nodes: the free clusters of its partition in ascending order. -/
def ownPlaces (s : State) (q n : Nat) : List (Nat × Nat) :=
  let o := queueOwner s q
  (List.range n).zip ((partClusters s o.2).filter (fun cl => clusterFree s cl (getFn s o.1).tenant o.2))

/-- The head of a queue is parsed. -/
def ownParse (s : State) (q : Nat) : State :=
  let s := launchPacket (parsePacket s q 0 (fun s _ => .ok s)) q
  let s := gangPacket (signalPacket (fencePacket s q) q) q
  parsePacket (timestampPacket (indirectPacket s q) q) q 7 (fun s _ => .ok s)

/-- What a queue has parsed goes on. -/
def ownQueue (s : State) (q : Nat) : State :=
  let s := timestampWrite (signalPerform (fenceMet (indirectDispatch (gangTick s q) q) q) q) q
  let places := ownPlaces s q (((getQueue s q).launch.map PLaunch.nodes).getD 0)
  deadlineExpiry (startLaunch (startLaunch s q places false) q places true) q

/-- A bundle's nodes become ready and retire, and then the bundle. -/
def ownBundle (s : State) (b : Nat) : State :=
  let n := ((tabFind b s.bundles).map (fun v => v.nodes.length)).getD 0
  bundleRetire ((List.range n).foldl (fun s k => nodeRetire (xReady s b k []) b k) s) b

/-- The front end's skerry `k`. -/
def ownSkerry (s : State) (k : Nat) : State := watchdog (writeRecord (skerryTake s k)) k

/-- The ladder and the planner of a partition. -/
def ownPlanner (s : State) (p : Nat) : State :=
  let s := evictionKill (plannerPass (killExpiry (graceExpiry s p) p) p) p
  (partQueues s p).foldl (fun s q => checkpointWrite s p q) s

/-- A function's revocation and reset. -/
def ownFn (s : State) (fn : Nat) : State :=
  let s := revocationDone (tablesDone s fn) fn
  if underReset s fn then flrDrained (flrAdvance s fn) fn else s

/-- The moves that internal agents make, in the model's own order. -/
def ownMoves : List (Nat → State → State) :=
  [fun m s => onPick (running s) m selectCtx s,
   fun m s => onPick (ctxNumbers s) m ownResults s,
   fun m s => onPick (shoalUnits s) m (fun s u => drainUnit s u 0) s,
   fun m s => onPick (running s) m ownWaits s,
   fun m s => onPick (s.clusters.flatMap (fun c => c.2.susp.map (·.cid))) m wakeWait s,
   fun m s => onPick (List.range s.net.length) m ownPacket s,
   fun m s => onPick (List.range s.faults.length) m holdTimeout s,
   fun m s => onPick (s.clusters.map (·.1)) m ownLease s,
   fun m s => onPick (s.clusters.map (·.1)) m ownMatrix s,
   fun m s => onPick (s.clusters.map (·.1)) m (ownCopy 0) s,
   fun m s => onPick (s.clusters.map (·.1)) m (ownCopy 1) s,
   fun m s => onPick (s.clusters.flatMap (fun c => (List.range 4).map (· + 4 * c.1))) m workRequest s,
   fun m s => onPick (List.range s.ready.length) m ageReady s,
   fun m s => onPick (s.queues.map (·.1)) m ownParse s,
   fun m s => onPick (s.queues.map (·.1)) m ownQueue s,
   fun m s => onPick (s.bundles.map (·.1)) m ownBundle s,
   fun m s => onPick (List.range skerryCount) m ownSkerry s,
   fun m s => onPick (s.planners.map (·.1)) m ownPlanner s,
   fun m s => onPick (s.fns.map (·.1) ++ s.auths.map (·.1)) m ownFn s,
   fun m s => onPick (s.domains.map (·.1)) m (fun s kd => walkerStep s kd (m % 16)) s,
   fun m s => onPick (s.clusters.map (·.1)) m switchScrub s,
   fun _ s => serveInval (sendGroup s)]

/-- The model's own step number `n` (MODEL): one of the internal agents moves. -/
def ownStep (n : Nat) (s : State) : State :=
  match ownMoves[n % ownMoves.length]? with
  | some f => f (n / ownMoves.length) s
  | none => s

/-- The model's own order: instructions, internal steps and the execute side in turn. -/
def ownTurn (s : State) : Turn :=
  if s.phase % 3 = 0 then .run else if s.phase % 3 = 1 then .own (s.phase / 3) else .exec

/-- The turn that this step performs, and the state with it taken. -/
def takeTurn (s : State) : Turn × State :=
  match s.agenda with
  | t :: rest => (t, { s with agenda := rest })
  | [] => (ownTurn s, { s with phase := s.phase + 1 })

/-- Whether a turn is the power-on of the module. -/
def isPowerOn : Turn → Bool
  | .ev e => e = .evPowerOn
  | _ => false

/-- Why no step can be performed (R496). -/
def stuck (s : State) : Option Fault :=
  if s.hub.offHot && !(s.agenda.head?.any isPowerOn) then some .poweredOff else none

/-- One cycle of the module's clock. -/
def advanceTick (s : State) : State := { s with tick := s.tick + 1 }

/-- An outcome with the mark of the execute side's turn removed. -/
def unmark : Host.Outcome State Fault Refusal → Host.Outcome State Fault Refusal
  | .next s => .next { s with eside := false }
  | .fault f => .fault f
  | .refused r => .refused r

/-! ### Placing one instruction (MODEL) -/

/-- Where the page tables and the code page of a placed instruction lie. -/
def placeTables : Nat := 0x100000
def placeCode : Nat := 0x200000

/-- A table entry for the next level, or the leaf of a 16 KiB executable page in key domain 1 (R253, R439). -/
def placeEntry (leaf : Bool) (frame : Nat) : List Byte :=
  leBytes 16 (frame + (if leaf then 0x2B + 2 ^ 97 else 0x01))

/-- The entries of the walk of address 0, one table for each level. -/
def placeWalk (mem : Memory) : Nat → Memory
  | 0 => mem
  | n + 1 =>
    let level := 4 - n
    let next := if level = 4 then placeCode else placeTables + 0x4000 * (level + 1)
    placeWalk (memWrite mem (placeTables + 0x4000 * level) (placeEntry (level = 4) next)) n

/-- The bytes of an instruction whose bits are `w`, as the table of operations numbers them (R60): little-endian words, `nbits`
of them given and the rest zero. -/
def placeBytes (nbits w : Nat) : List Byte := leBytes 16 (w % 2 ^ nbits)

/-- `s` with an instruction placed at address 0 of the current context's address space, the context running and due next. -/
def placeInstr (s : State) (nbits w : Nat) : State :=
  let sp := s.x.space
  { s with
    mem := memWrite (placeWalk s.mem 5) placeCode (placeBytes nbits w)
    badMem := s.badMem.filter (fun e => !(placeTables / 64 ≤ e.1 && e.1 < (placeCode + 64) / 64))
    roots := tabPut sp placeTables s.roots
    domains := tabPut 1 { tabGet {} 1 s.domains with state := 1, owner := spaceTenant sp } s.domains
    cores := tabMod {} s.core (fun k => { k with ic := [], halt := false }) s.cores
    dies := tabMod {} (ctxCluster s.xid / 12) (fun d => { d with stopped := false }) s.dies
    hub := { s.hub with offHot := false }
    agenda := [.run]
    eside := false
    lag := false
    x := { s.x with run := true, pc := 0, xfer := none, cur := none, replay := [], raised := none, asyncs := [], ringOv := 0,
                    stream := [] } }

end Sys2Proof.Machine
end

