-- ==== Sys2Proof/Machine/Trial.lean ====
section
/-!
DEFINITION. Which context of a control core issues next (R385): whether the next instruction of a side is held is what an attempt of it
shows, on a state that is then dropped; and the choice among the ready contexts.
-/

namespace Sys2Proof.Machine

/-- Whether an attempt of the access side has got on: the instruction has retired, raised a cause or left, a part of it is done, or an access
of it waits elsewhere now, for service, in a log or on its way to its home. `ran` tells that an instruction was performed. -/
def accessMoved (ran : Bool) (s0 s : State) (c : Nat) : Bool :=
  let (x0, x) := (getCtx s0 c, getCtx s c)
  !x.run || x.raised != x0.raised || x.handler != x0.handler || x.replay.length != x0.replay.length || x.stream.length != x0.stream.length ||
    x.stores.length != x0.stores.length || x.got.length != x0.got.length || s.faults.length != s0.faults.length ||
    s.net.length != s0.net.length || (ownShoal s c).length != (ownShoal s0 c).length ||
    (match x.cur with
      | none => ran || x0.cur.isSome || x.pc != x0.pc || x.xfer != x0.xfer
      | some e => e.prog != (x0.cur.map Entry.prog).getD 0)

/-- Whether an attempt of the execute side has got on: the head of its stream is gone, or a cause is raised. -/
def executeMoved (s0 s : State) (c : Nat) : Bool :=
  let (x0, x) := (getCtx s0 c, getCtx s c)
  !x.run || x.raised != x0.raised || x.stream.length != x0.stream.length

/-- Whether a turn of the current context performs an instruction, and the state after it, if it answers one. -/
def afterTurn (t : AccessTurn) : Option (Bool × State) :=
  match t with
  | .goto s => some (false, s)
  | .exec i s => match exec i s with
    | .next s => some (true, s)
    | _ => none

/-- An attempt of context `c` on a side, and whether the context is ready on it: its next instruction is not held (R385). -/
def attempt (s : State) (c : Nat) (ex : Bool) : Bool × Context :=
  let s := selectCtx s c
  match afterTurn (if ex then executeTurn s else accessTurn s) with
  | some t => (if ex then executeMoved s t.2 c else accessMoved t.1 s t.2 c, getCtx t.2 c)
  | none => (false, s.x)

/-- Whether context `c` is ready on a side (R385). -/
def sideReady (s : State) (c : Nat) (ex : Bool) : Bool := (attempt s c ex).1

/-- Keeps the clocks of R385: a context that is ready on a side counts from the first cycle that finds it so. One that is held on a queue
counts for the deadlock trap, also while it is not chosen (R176). -/
def noteReady (s : State) (c : Nat) (ex : Bool) : State :=
  let r := attempt s c ex
  modCtx s c (fun x =>
    let t := if r.1 then some ((readySince x ex).getD s.tick) else none
    let x := if ex then { x with readyE := t } else { x with readyA := t }
    if r.1 then x else if ex then { x with blockE := r.2.blockE, since := r.2.since } else { x with blockA := r.2.blockA, since := r.2.since })

/-- The context of a core that issues next on a side (R385): among the ready ones the promoted one that was ready longest, else the
highest priority, round-robin after the one that issued last at it. -/
def pickOf (s : State) (k : Nat) (ex : Bool) : Option Nat :=
  let ready := (coreRuns s k).filter (fun c => sideReady s c ex)
  let prom := ready.filter (fun c => if ex then (getCtx s c).promE else (getCtx s c).promA)
  if prom.isEmpty then
    let pri (c : Nat) : Nat := (getCtx s c).cont.pri.toNat
    let top := (ready.map pri).foldl max 0
    let last := tabGet 15 (2 * top + (if ex then 1 else 0)) (getCore s k).issued
    bestCtx (fun c => 16 - (c + 15 - last) % 16) (ready.filter (fun c => pri c = top))
  else bestCtx (fun c => s.tick - (readySince (getCtx s c) ex).getD s.tick) prom

/-- The state in which the current core's next issue on a side is made: with several contexts that run, their clocks are kept and the
chosen one is current; with none ready the current one stays (R385). -/
def picked (s : State) (ex : Bool) : State :=
  if (coreRuns s s.core).length < 2 then s
  else
    let k := s.core
    let s := (coreRuns s k).foldl (fun s c => promote (noteReady s c ex) c ex) s
    match pickOf s k ex with
    | none => s
    | some c =>
      let pri := (getCtx s c).cont.pri.toNat
      selectCtx (modCore s k (fun v => { v with issued := tabPut (2 * pri + (if ex then 1 else 0)) (c % 16) v.issued })) c

end Sys2Proof.Machine
end

