-- ==== Sys2Proof/Machine/Step.lean ====
section
/-!
DEFINITION. One step of the machine: one agent moves. The clock advances by one cycle, the turn is taken, and either another
agent's step or one instruction of the current context is performed.
-/

namespace Sys2Proof.Machine

/-- One step; the current core's issue is made for the context that R385 chooses. -/
def step (s : State) : Host.Outcome State Fault Refusal :=
  match stuck s with
  | some f => .fault f
  | none =>
    let t := takeTurn (advanceTick s)
    match t.1 with
    | .ev e => exec e t.2
    | .select c => .next (selectCtx t.2 c)
    | .own n => .next (ownStep n t.2)
    | .upset l c => .next (upsetLine t.2 l c)
    | .damage l bs => .next (damageLine t.2 l bs)
    | .early l n => .next (loadEarly t.2 l n)
    | .pace lag tear => .next { t.2 with lag := lag, tear := tear }
    | .run =>
      match accessTurn (picked t.2 false) with
      | .exec i s' => exec i s'
      | .goto s' => .next s'
    | .exec =>
      match executeTurn (picked t.2 true) with
      | .exec i s' => unmark (exec i s')
      | .goto s' => .next s'

/-- `s` with one instruction stored where `step` fetches its next instruction, and what that fetch needs. -/
def State.withFetchWord (s : State) (nbits w : Nat) : State := placeInstr s nbits w

end Sys2Proof.Machine
end

