-- ==== Sys2Proof/Safety.lean ====
section
/-!
DEFINITION. What counts as a safe run, in the terms that statements use: the invariant of the state, when an instruction can issue
and what it reads (R64, R78–R86), and what its retirement may change.
-/

namespace Sys2Proof.Machine

/-! ### The invariant -/

/-- Every memory of the module is in its canonical form: the device memory, the pools and accumulators of the clusters and of the
checkpoint images, and what the hub holds of its boot record and boot image. -/
def State.memOk (s : State) : Prop :=
  s.mem.wf ∧ (∀ c ∈ s.clusters, c.2.pool.wf ∧ c.2.tiles.wf) ∧ (∀ m ∈ s.images, ∀ c ∈ m.clusters, c.2.pool.wf ∧ c.2.tiles.wf) ∧
    s.hub.record.wf ∧ s.hub.image.wf

/-! ### Operands -/

/-- A scalar source on the access side: g0 is zero, a full register its value, a queue of the execute side its oldest entry, which is
popped; none while it is empty (R77, R78, R81). -/
def readG (x : Context) (r : BitVec 6) : Option (Word × Context) :=
  if r = 0 then some (0, x)
  else if r.toNat < 60 then if x.gEmpty.getLsbD r.toNat then none else some (vecGet x.g r.toNat 0, x)
  else match vecGet x.sEA (r.toNat - 60) [] with
    | [] => none
    | w :: t => some (w, { x with sEA := vecSet x.sEA (r.toNat - 60) t })

/-- Scalar sources in field order: the values, and the context after the pops (R79). -/
def readGs : Context → List (BitVec 6 × Bool) → Option (List Word × Context)
  | x, [] => some ([], x)
  | x, f :: fs => (readG x f.1).bind (fun a => (readGs a.2 fs).map (fun b => (a.1 :: b.1, b.2)))

/-- A source on the access side as it is captured: a scalar, or a vector entry of a queue of the execute side, which is popped (R79,
R461). -/
def readA (x : Context) : SrcF → Option (Option Src × Context)
  | .g r _ => (readG x r).map (fun a => (some (.s a.1), a.2))
  | .v r _ =>
    if r.toNat < 28 then none
    else match vecGet x.vEA (r.toNat - 28) [] with
      | [] => none
      | w :: t => some (some (.v w), { x with vEA := vecSet x.vEA (r.toNat - 28) t })
  | .run r n _ => if (List.range n).all (fun i => r.toNat + i = 0 || !x.gEmpty.getLsbD (r.toNat + i)) then some (none, x) else none
  | .skip => some (none, x)

/-- Sources on the access side in field order (R79). -/
def readAs : Context → List SrcF → Option (List (Option Src) × Context)
  | x, [] => some ([], x)
  | x, f :: fs => (readA x f).bind (fun a => (readAs a.2 fs).map (fun b => (a.1 :: b.1, b.2)))

/-- A source on the execute side: a g register as the access side forwarded it, a queue of the access side, or a vector register. -/
def readE (x : Context) : SrcF → Option (Src × Context)
  | .g r _ =>
    if r = 0 then some (.s 0, x)
    else if r.toNat < 60 then if x.gEmpty.getLsbD r.toNat then none else some (.s (vecGet x.g r.toNat 0), x)
    else match vecGet x.sAE (r.toNat - 60) [] with
      | [] => none
      | w :: t => some (.s w, { x with sAE := vecSet x.sAE (r.toNat - 60) t })
  | .v r _ =>
    if r.toNat < 28 then if x.vEmpty.getLsbD r.toNat then none else some (.v (vecGet x.v r.toNat 0), x)
    else match vecGet x.vAE (r.toNat - 28) [] with
      | [] => none
      | w :: t => if takesOf x (r.toNat - 28) = 0 then some (.v w, { x with vAE := vecSet x.vAE (r.toNat - 28) t }) else none
  | .run _ _ _ => none
  | .skip => none

/-- Sources on the execute side in field order. -/
def readEs : Context → List SrcF → Option (List Src × Context)
  | x, [] => some ([], x)
  | x, f :: fs => (readE x f).bind (fun a => (readEs a.2 fs).map (fun b => (a.1 :: b.1, b.2)))

/-- A scalar destination can be written: a register that no producer owes, or a queue of the access side with room and no push
outstanding (R78, R82, R159). -/
def roomG (x : Context) (d : BitVec 6) : Bool :=
  d = 0 || (if d.toNat < 60 then !x.gEmpty.getLsbD d.toNat
    else !pendingQs x false (d.toNat - 60) && decide ((vecGet x.sAE (d.toNat - 60) []).length < 32))

/-- The context with a scalar destination written: a write of g0 is discarded, a queue gets an entry (R78, R82). -/
def wroteG (x : Context) (d : BitVec 6) (w : Word) : Context :=
  if d = 0 then x
  else if d.toNat < 60 then { x with g := vecSet x.g d.toNat w }
  else { x with sAE := vecSet x.sAE (d.toNat - 60) (vecGet x.sAE (d.toNat - 60) [] ++ [w]) }

/-- A long-latency result for `d` may be issued: no earlier producer owes the register, and a queue has room left for it (R159). -/
def mayOwe (x : Context) (d : BitVec 6) : Bool :=
  d = 0 || (if d.toNat < 60 then !x.gEmpty.getLsbD d.toNat else decide (loadS x false (d.toNat - 60) < scalarRoom))

/-- The context with a long-latency result of a unit outstanding since cycle `now`: its register is empty until the result lands with its
flags and signals, and a result for a queue is pushed when it lands (R158, R159). -/
def owed (x : Context) (d : BitVec 6) (w : Word) (fl : Flags) (sigs : List Nat) (unit now : Nat) : Context :=
  let wb (t : WbDst) : Writeback := ⟨[t], fl, sigs, false, x.handler, unit, now⟩
  if 60 ≤ d.toNat then { x with wbs := x.wbs ++ [wb (.qs (d.toNat - 60) w)] }
  else { x.markG d.toNat true with wbs := x.wbs ++ [wb (.g d.toNat w)] }

/-- The same for a vector destination of the execute side (R195). -/
def owedV (x : Context) (d : BitVec 5) (v : Vec) (fl : Flags) (sigs : List Nat) (now : Nat) : Context :=
  let wb (t : WbDst) : Writeback := ⟨[t], fl, sigs, true, x.handler, 0, now⟩
  if 28 ≤ d.toNat then { x with wbs := x.wbs ++ [wb (.qv (d.toNat - 28) v)] }
  else { x.markV d.toNat true with wbs := x.wbs ++ [wb (.v d.toNat v)] }

/-- A long-latency result for the vector destination `d` may be issued: no earlier producer owes the register, and a queue has room left for
it (R159, R195). -/
def mayOweV (x : Context) (d : BitVec 5) : Bool :=
  if d.toNat < 28 then !x.vEmpty.getLsbD d.toNat else decide (loadV x true (d.toNat - 28) < vectorRoom)

/-- A vector destination of the execute side can be written. -/
def roomV (x : Context) (d : BitVec 5) : Bool :=
  if d.toNat < 28 then !x.vEmpty.getLsbD d.toNat
  else !pendingQv x true (d.toNat - 28) && decide ((vecGet x.vEA (d.toNat - 28) []).length < 8)

/-- The context with a vector destination of the execute side written. -/
def wroteV (x : Context) (d : BitVec 5) (w : Vec) : Context :=
  if d.toNat < 28 then { x with v := vecSet x.v d.toNat w }
  else { x with vEA := vecSet x.vEA (d.toNat - 28) (vecGet x.vEA (d.toNat - 28) [] ++ [w]) }

/-! ### Issue -/

/-- Whether the access side of the current context is free to issue: nothing is in progress, it is its turn, and the branch queue has
room (R84). -/
def State.free (s : State) : Bool := s.x.cur.isNone && !s.eside && decide (s.x.outcomes < 16)

/-- A P instruction with ring nibble `r` issues: the values of its scalar source fields, and the context after its ring waits and
pops; none where it does not issue now (R64, R86). -/
def issueReads (s : State) (r : Ring) (fs : List (BitVec 6 × Bool)) : Option (List Word × Context) :=
  if s.free then (ringWait s.x .P (actRing s.x r)).bind (fun x => readGs x fs) else none

/-- The same for sources of any kind, as they are captured; `m` is the member whose ring waits are taken at issue: an operation of an
engine takes its own when it starts (R64, R83). -/
def issueCaptures (s : State) (m : Member) (r : Ring) (fs : List SrcF) : Option (List (Option Src) × Context) :=
  if s.free then (if m = .P then ringWait s.x .P (actRing s.x r) else some s.x).bind (fun x => readAs x fs) else none

/-- The captured form of scalar values. -/
def scalarCaps (ws : List Word) : List (Option Src) := ws.map (fun w => some (.s w))

/-- The entry of an instruction of member `m` that issues at the PC, its sources captured and the ring waits of member P consumed (R65). -/
def issueEntry (i : Instr) (s : State) (caps : List (Option Src)) (m : Member := .P) : Entry :=
  { pc := s.x.pc, words := encode i, exec := false, waited := decide (m = .P), caps := caps, cont := false, prog := 0 }

/-- The state in which an instruction has its effect: its ring waits and pops are done, and it is in progress. -/
def issued (i : Instr) (s : State) (caps : List (Option Src)) (x : Context) (m : Member := .P) : State :=
  { s with x := { x with cur := some (issueEntry i s caps m) } }

/-- Whether the access side passes an M instruction and the execute side has caught up with it. -/
def State.idle (s : State) : Bool := s.x.cur.isNone && !s.eside && !s.lag && s.x.stream.isEmpty

/-- Whether it is the execute side's turn and the M instruction `i` stands at the head of its stream with the captured sources `caps`,
its ring waits not consumed yet (R83). -/
def State.atHead (s : State) (i : Instr) (caps : List (Option Src)) : Prop :=
  s.eside = true ∧ ∃ (e : Entry) (l : List EItem), s.x.stream = EItem.instr e :: l ∧ e.words = encode i ∧ e.caps = caps ∧ e.waited = false

/-- The sources of the M instruction at the head of the stream as the execute side gets them: what was forwarded of them stands in `caps`,
the others are read in field order; and the context after the ring waits and the pops (R64, R83). -/
def headReads (s : State) (r : Ring) (fs : List SrcF) (caps : List (Option Src)) : Option (List (Option Src) × Context) :=
  (ringWait s.x .M (actRing s.x r)).bind (fun x =>
    match capture true false fs caps x with
    | (cs, y, .ok) => some (cs, y)
    | _ => none)

/-- Whether every g register among the sources is full, so that the access side forwards it (R83). -/
def forwarded (x : Context) (fs : List SrcF) : Bool :=
  fs.all (fun f => match f with
    | .g r _ => r = 0 || 60 ≤ r.toNat || !x.gEmpty.getLsbD r.toNat
    | _ => true)

/-- An M instruction with ring nibble `r` issues and executes at once, since the execute side has caught up: its source values, and the
context after its ring waits and its pops (R64, R83). -/
def executeReads (s : State) (r : Ring) (fs : List SrcF) : Option (List Src × Context) :=
  if s.idle && forwarded s.x fs then (ringWait s.x .M (actRing s.x r)).bind (fun x => readEs x fs) else none

/-! ### Retirement -/

/-- A context with the place of fetch, the loop stack, the branch queue and the record of what waits taken from another. -/
def Context.upon (x c : Context) : Context :=
  { x with pc := c.pc, xfer := c.xfer, loops := c.loops, stream := c.stream, cur := c.cur, ws := c.ws, blockA := c.blockA,
           blockE := c.blockE, since := c.since, readyA := c.readyA, readyE := c.readyE, promA := c.promA, promE := c.promE,
           got := c.got }

/-- Fetch stands at `t`: the PC, and the address of a transfer that does not fit it (R60). -/
def fetchesAt (y : Context) (t : Word) : Prop := y.pc = t.setWidth 48 ∧ y.xfer = if t.toNat < 2 ^ 48 then none else some t

/-- The PC has advanced past instruction `i` with end processing: `x` is the context before and `y` after. Each loop level whose body
ends at the instruction's address counts down, the exhausted ones leave the stack, and fetch stands behind the words or at the start of
the level that repeats (R179). Where the execute side has something before it to meet, or `exec` says that the instruction itself stood
there, the outcome of each end decision joins its stream (R84; log 30). -/
def fetchNext (i : Instr) (x y : Context) (exec : Bool := false) : Prop :=
  let next := x.pc.setWidth 64 + 4 * BitVec.ofNat 64 (encode i).length
  let r := endPass (x.pc.setWidth 64) x.loops
  y.cur = none ∧ y.loops = r.1 ∧ fetchesAt y (r.2.getD next) ∧
    y.stream = x.stream ++ (if exec || !x.stream.isEmpty then (endDecisions x.loops r.1 r.2 next).map EItem.outcome else [])

/-- `t` is the state after instruction `i` has retired in sequence with the flags `fl` and the ring signals `sigs`, where `s` holds its
effect: nothing but the flags, the signals, the place of fetch and a single-step halt is added (R64, R142, R475). `exec` marks an M
instruction that the execute side, which had caught up, executed at once. -/
def Retired (s : State) (i : Instr) (sigs : List Nat) (fl : Flags) (t : State) (exec : Bool := false) : Prop :=
  t = stepHalt { s with x := t.x } ∧ t.x = (sendSignals (s.x.orFlags fl) sigs).upon t.x ∧ fetchNext i s.x t.x exec

/-- `t` is the state after the execute side has completed the M instruction at the head of its stream with the flags `fl` and the ring
signals `sigs`, where `s` holds its effect: nothing but the flags, the signals and the head of the stream changes (R64, R83, R142). -/
def Executed (s : State) (sigs : List Nat) (fl : Flags) (t : State) : Prop :=
  t = { s with x := t.x } ∧ t.x = (sendSignals (s.x.orFlags fl) sigs).upon t.x ∧ t.x.stream = s.x.stream.tail ∧ t.x.cur = s.x.cur ∧
    t.x.pc = s.x.pc ∧ t.x.xfer = s.x.xfer ∧ t.x.loops = s.x.loops ∧ t.x.ws = s.x.ws ∧ t.x.got = s.x.got

/-- `t` is the state after an instruction has retired by a taken transfer of control to `target`, where `s` holds its effect: fetch is
sent there, the loop levels whose body does not contain it are popped, and the execute side learns the outcome (R60, R84, R180). -/
def Jumped (s : State) (sigs : List Nat) (target : Word) (t : State) : Prop :=
  t = stepHalt { s with x := t.x } ∧ t.x = (sendSignals s.x sigs).upon t.x ∧ t.x.cur = none ∧ fetchesAt t.x target ∧
    t.x.loops = s.x.loops.dropWhile (fun l => !inBody s target l) ∧
    t.x.stream = (if s.x.stream = [] then [] else s.x.stream ++ [EItem.outcome target])

/-- The signals of an instruction of member `m` with ring nibble `r` at its terminal state in `s` (R64, R457). -/
def sigsOf (s : State) (m : Member) (r : Ring) : List Nat := signalsOf m (actRing s.x r)

end Sys2Proof.Machine
end

