-- ==== Sys2Proof/Certificates/Slice0/Obligations.lean ====
section
/-!
DEFINITION. The statements about the Izloth model. Each docstring names the rules of the specification that the statement rests on.
The forms and tables that several statements share stand in the namespace `Claims`; they give results by the specification's formulas.
-/

namespace Sys2Proof.Claims

open Sys2Proof.Machine

/-! ### Scalar instructions of the access side -/

/-- What a rule gives for a scalar instruction: its ring nibble, its source fields in field order, its destination, and the result and
flags as a function of the source values. -/
structure Scalar where
  ring  : Ring
  reads : List (BitVec 6 × Bool)
  dest  : BitVec 6
  value : List Word → Word × Flags

/-- Source value `n`. -/
def arg (w : List Word) (n : Nat) : Word := w.getD n 0

/-- Two sources and an integer result: no flag (R161). -/
def rrr (f : RRR) (fn : Word → Word → Word) : Option Scalar :=
  some ⟨f.ring, [(f.a, f.ta), (f.b, f.tb)], f.d, fun w => (fn (arg w 0) (arg w 1), flagNone)⟩

/-- One source and an integer result. -/
def rr (f : RR) (fn : Word → Word) : Option Scalar := some ⟨f.ring, [(f.a, f.ta)], f.d, fun w => (fn (arg w 0), flagNone)⟩

/-- A source and an 8-bit immediate, sign-extended (R165). -/
def rri (f : RRI) (fn : Word → Word → Word) : Option Scalar :=
  some ⟨f.ring, [(f.a, f.ta)], f.d, fun w => (fn (arg w 0) (f.imm.signExtend 64), flagNone)⟩

/-- A source and a shift count (R165). -/
def rsh (f : RSh) (fn : Word → Nat → Word) : Option Scalar :=
  some ⟨f.ring, [(f.a, f.ta)], f.d, fun w => (fn (arg w 0) f.sh.toNat, flagNone)⟩

/-- A truth value: 1 or 0. -/
def bit (p : Prop) [Decidable p] : Word := if p then 1 else 0

/-- An integer clamped to the signed 64-bit range (R161). -/
def clamped (v : Int) : Word := BitVec.ofInt 64 (min (max v (-9223372036854775808)) 9223372036854775807)

/-- The count of a register shift: b[5:0] (R161). -/
def count (b : Word) : Nat := (b.extractLsb' 0 6).toNat

/-- The RRR integer table without DIV, DIVU, REM and REMU (R161, R163). -/
def integerTable : Instr → Option Scalar
  | .add f => rrr f (fun a b => a + b)
  | .adds f => rrr f (fun a b => clamped (a.toInt + b.toInt))
  | .sub f => rrr f (fun a b => a - b)
  | .subs f => rrr f (fun a b => clamped (a.toInt - b.toInt))
  | .mul f => rrr f (fun a b => (a.setWidth 128 * b.setWidth 128).extractLsb' 0 64)
  | .mulh f => rrr f (fun a b => (a.signExtend 128 * b.signExtend 128).extractLsb' 64 64)
  | .mulhu f => rrr f (fun a b => (a.setWidth 128 * b.setWidth 128).extractLsb' 64 64)
  | .and f => rrr f (fun a b => a &&& b)
  | .or f => rrr f (fun a b => a ||| b)
  | .xor f => rrr f (fun a b => a ^^^ b)
  | .andn f => rrr f (fun a b => a &&& ~~~b)
  | .shl f => rrr f (fun a b => a <<< count b)
  | .shr f => rrr f (fun a b => a >>> count b)
  | .sra f => rrr f (fun a b => a.sshiftRight (count b))
  | .rol f => rrr f (fun a b => (a <<< count b) ||| (a >>> (64 - count b)))
  | .min f => rrr f (fun a b => if a.toInt ≤ b.toInt then a else b)
  | .minu f => rrr f (fun a b => if a.toNat ≤ b.toNat then a else b)
  | .max f => rrr f (fun a b => if a.toInt ≤ b.toInt then b else a)
  | .maxu f => rrr f (fun a b => if a.toNat ≤ b.toNat then b else a)
  | .slt f => rrr f (fun a b => bit (a.toInt < b.toInt))
  | .sltu f => rrr f (fun a b => bit (a.toNat < b.toNat))
  | .seq f => rrr f (fun a b => bit (a = b))
  | .sne f => rrr f (fun a b => bit (a ≠ b))
  | .cmov f => some ⟨f.ring, [(f.a, f.ta), (f.b, f.tb), (f.d, false)], f.d, fun w => (if arg w 1 ≠ 0 then arg w 0 else arg w 2, flagNone)⟩
  | _ => none

/-- The long-latency divisions (R161, R162). -/
def divisionTable : Instr → Option Scalar
  | .div f => rrr f (fun a b => if b = 0 then BitVec.allOnes 64 else a.sdiv b)
  | .divu f => rrr f (fun a b => if b = 0 then BitVec.allOnes 64 else a.udiv b)
  | .rem f => rrr f (fun a b => if b = 0 then a else a.srem b)
  | .remu f => rrr f (fun a b => if b = 0 then a else a.umod b)
  | _ => none

/-- The unary table (R164). -/
def unaryTable : Instr → Option Scalar
  | .clz f => rr f BitVec.clz
  | .ctz f => rr f BitVec.ctz
  | .popc f => rr f BitVec.cpop
  | .brev f => rr f BitVec.reverse
  | .sextB f => rr f (fun a => (a.extractLsb' 0 8).signExtend 64)
  | .sextH f => rr f (fun a => (a.extractLsb' 0 16).signExtend 64)
  | .sextW f => rr f (fun a => (a.extractLsb' 0 32).signExtend 64)
  | .zextB f => rr f (fun a => a &&& 0xFF)
  | .zextH f => rr f (fun a => a &&& 0xFFFF)
  | .zextW f => rr f (fun a => a &&& 0xFFFFFFFF)
  | .abs f => rr f (fun a => BitVec.ofNat 64 a.toInt.natAbs)
  | .neg f => rr f (fun a => 0 - a)
  | _ => none

/-- The immediate instructions (R165, R166). -/
def immediateTable : Instr → Option Scalar
  | .addi f => rri f (fun a s => a + s)
  | .andi f => rri f (fun a s => a &&& s)
  | .ori f => rri f (fun a s => a ||| s)
  | .xori f => rri f (fun a s => a ^^^ s)
  | .slti f => rri f (fun a s => bit (a.toInt < s.toInt))
  | .sltiu f => rri f (fun a s => bit (a.toNat < s.toNat))
  | .shli f => rsh f (fun a n => a <<< n)
  | .shri f => rsh f (fun a n => a >>> n)
  | .srai f => rsh f (fun a n => a.sshiftRight n)
  | .bfx f => some ⟨f.ring, [(f.a, f.ta)], f.d, fun w =>
      let v := (arg w 0 >>> f.pos.toNat).setWidth (f.wm1.toNat + 1)
      (if f.sx then v.signExtend 64 else v.setWidth 64, flagNone)⟩
  | .bfi f => some ⟨f.ring, [(f.a, f.ta), (f.d, false)], f.d, fun w =>
      let m : Word := (BitVec.allOnes (f.wm1.toNat + 1)).setWidth 64 <<< f.pos.toNat
      ((arg w 1 &&& ~~~m) ||| ((arg w 0 <<< f.pos.toNat) &&& m), flagNone)⟩
  | .li f => some ⟨f.ring, [], f.d, fun _ => (f.imm.signExtend 64, flagNone)⟩
  | .lis f => some ⟨f.ring, [(f.a, f.ta)], f.d, fun w => (arg w 0 <<< 28 ||| f.imm.setWidth 64, flagNone)⟩
  | .addl f => some ⟨f.ring, [(f.a, f.ta)], f.d, fun w => (arg w 0 + f.imm.signExtend 64, flagNone)⟩
  | _ => none

/-- The instructions of a table complete: on their sources, with room for the destination, the next state is the one before it with the
destination written, the flags ORed in and the signals sent, and nothing else changed. -/
def results (table : Instr → Option Scalar) : Prop :=
  ∀ (i : Instr) (f : Scalar) (s : State) (ws : List Word) (x : Context),
    table i = some f → issueReads s f.ring f.reads = some (ws, x) → roomG x f.dest = true →
    ∃ t, exec i s = .next t ∧
      Retired { s with x := wroteG x f.dest (f.value ws).1 } i (sigsOf s .P f.ring) (f.value ws).2 t

/-- The FP32 value that a source holds in bits [31:0] (R160). -/
def fp (w : List Word) (n : Nat) : ExactNum := floatDecode fp32 ((arg w n).extractLsb' 0 32).toNat

/-- An FP32 instruction of two sources. -/
def frr (f : RRR) (fn : ExactNum → ExactNum → Word × Flags) : Option Scalar :=
  some ⟨f.ring, [(f.a, f.ta), (f.b, f.tb)], f.d, fun w => fn (fp w 0) (fp w 1)⟩

/-- An FP32 instruction of one source. -/
def fr (f : RR) (fn : List Word → Word × Flags) : Option Scalar := some ⟨f.ring, [(f.a, f.ta)], f.d, fn⟩

/-- FCVTI and FCVTIZ (R140, R168): a value rounded by `mode` and saturated; a NaN gives 0. -/
def intOf (mode : BitVec 2) : ExactNum → Word × Flags
  | .nan _ => (0, flagInvalid)
  | .inf n => (if n then BitVec.intMin 64 else BitVec.intMax 64, flagInvalid)
  | .fin n m e st =>
    let v := roundInt ⟨mode, 1, 0⟩ n m e st
    if v.1 < -9223372036854775808 ∨ 9223372036854775807 < v.1 then (clamped v.1, flagInvalid)
    else (BitVec.ofInt 64 v.1, if v.2 then flagInexact else flagNone)

/-- The FP32 instructions with a result at once (R167–R169). -/
def floatTable : Instr → Option Scalar
  | .fadd f => frr f (fun a b => round32 (numAdd a b))
  | .fsub f => frr f (fun a b => round32 (numAdd a b.flip))
  | .fmul f => frr f (fun a b => round32 (numMul a b))
  | .fma f => some ⟨f.ring, [(f.a, f.ta), (f.b, f.tb), (f.d, false)], f.d, fun w => round32 (numFma false (fp w 0) (fp w 1) (fp w 2))⟩
  | .fmin f => frr f (fun a b => round32 (numMinMax false a b))
  | .fmax f => frr f (fun a b => round32 (numMinMax true a b))
  | .flt f => frr f (fun a b => if a.isNan || b.isNan then (0, flagInvalid) else (bit (numCmp a b < 0), flagNone))
  | .fle f => frr f (fun a b => if a.isNan || b.isNan then (0, flagInvalid) else (bit (numCmp a b ≤ 0), flagNone))
  | .feq f => frr f (fun a b => if a.isNan || b.isNan then (0, if a.isSig || b.isSig then flagInvalid else flagNone)
      else (bit (numCmp a b = 0), flagNone))
  | .fabs f => fr f (fun w => (((arg w 0).extractLsb' 0 31).setWidth 64, flagNone))
  | .fneg f => fr f (fun w => (((arg w 0).extractLsb' 0 32 ^^^ 0x80000000#32).setWidth 64, flagNone))
  | .fcvti f => fr f (fun w => intOf 0 (fp w 0))
  | .fcvtiz f => fr f (fun w => intOf 1 (fp w 0))
  | .fcvtf f => fr f (fun w => round32 (ExactNum.ofInt (arg w 0).toInt, flagNone))
  | .fcvtfu f => fr f (fun w => round32 (ExactNum.ofInt (arg w 0).toNat, flagNone))
  | .fclass f => fr f (fun w => (1#64 <<< classOf fp32 ((arg w 0).extractLsb' 0 32).toNat, flagNone))
  | _ => none

/-- The long-latency FP32 instructions (R158, R167). -/
def floatLongTable : Instr → Option Scalar
  | .fdiv f => frr f (fun a b => round32 (numDiv a b))
  | .fsqrt f => fr f (fun w => round32 (numSqrt (fp w 0)))
  | _ => none

/-- The long-latency instructions of a table complete: they leave the access side with their destination owed, and the result of the unit, its
flags and its signals wait to land; nothing else changes (R158, R159). -/
def resultsLater (unit : Nat) (table : Instr → Option Scalar) : Prop :=
  ∀ (i : Instr) (f : Scalar) (s : State) (ws : List Word) (x : Context),
    table i = some f → issueReads s f.ring f.reads = some (ws, x) → mayOwe x f.dest = true →
    ∃ t, exec i s = .next t ∧
      Retired { s with x := owed x f.dest (f.value ws).1 (f.value ws).2 (sigsOf s .P f.ring) unit s.tick } i [] flagNone t

/-! ### Instructions of the execute side -/

/-- What a rule gives for an instruction that the execute side performs at once: its ring nibble, its sources in field order, whether its
destination has room, and the context that it leaves, with its flags. -/
structure Late where
  ring  : Ring
  reads : List SrcF
  room  : Context → Bool
  after : Context → List Src → Context × Flags

/-- What the access side forwards of the sources of an M instruction: the g registers (R83). -/
def sent (x : Context) (fs : List SrcF) : List (Option Src) :=
  fs.map (fun f => match f with
    | .g r _ => if r = 0 then some (.s 0) else if r.toNat < 60 then some (.s (vecGet x.g r.toNat 0)) else none
    | _ => none)

/-- The execute stream can take another instruction. -/
def streamRoom (x : Context) : Bool :=
  decide (x.outcomes < 16) && decide ((streamEntries x.stream).length < 30) && decide (streamSlots x.stream < 30)

/-- The access side passes the M instruction `i` to an execute side that has not caught up: the instruction joins the end of the stream with
the g registers that are forwarded to it, the PC advances, and nothing else changes (R83). -/
def joins (i : Instr) (fs : List SrcF) : Prop :=
  ∀ s : State, s.x.cur = none → s.eside = false → (s.lag = true ∨ s.x.stream ≠ []) → streamRoom s.x = true → forwarded s.x fs = true →
    ∃ t e, exec i s = .next t ∧ e.pc = s.x.pc ∧ e.words = encode i ∧ e.caps = sent s.x fs ∧ e.waited = false ∧
      t = stepHalt { s with x := t.x } ∧ t.x = s.x.upon t.x ∧ fetchNext i { s.x with stream := s.x.stream ++ [.instr e] } t.x true

/-- The M instruction `i` gets its sources `vs` and the context `x` after its ring waits and pops: at its turn at the head of the stream, with
`caps` captured of it before, or, where the execute side had caught up, at issue (R64, R79, R83). -/
def mReads (head : Bool) (caps : List (Option Src)) (i : Instr) (s : State) (r : Ring) (fs : List SrcF) (vs : List Src) (x : Context) : Prop :=
  if head then s.atHead i caps ∧ headReads s r fs caps = some (vs.map some, x) else executeReads s r fs = some (vs, x)

/-- `t` is the state after the M instruction has completed there, where `s` holds its effect. -/
def MDone (head : Bool) (s : State) (i : Instr) (sigs : List Nat) (fl : Flags) (t : State) : Prop :=
  if head then Executed s sigs fl t else Retired s i sigs fl t true

/-- The instructions of a table complete, at issue where the execute side has caught up and else at the head of its stream, when their
sources can be read. -/
def resultsLate (table : Instr → Option Late) : Prop :=
  ∀ (i : Instr) (f : Late), table i = some f → joins i f.reads ∧
    ∀ (head : Bool) (caps : List (Option Src)) (s : State) (vs : List Src) (x : Context),
      mReads head caps i s f.ring f.reads vs x → f.room x = true →
      ∃ t, exec i s = .next t ∧ MDone head { s with x := (f.after x vs).1 } i (sigsOf s .M f.ring) (f.after x vs).2 t

/-- A predicate register as it reads: p0 is all ones (R170). -/
def pred (x : Context) (p : BitVec 3) : Pred := if p = 0 then BitVec.allOnes 256 else vecGet x.p p.toNat 0

/-- The context with a predicate register written; p0 is never one (R72). -/
def wroteP (x : Context) (p : BitVec 3) (v : Pred) : Context := if p = 0 then x else { x with p := vecSet x.p p.toNat v }

/-- A scalar value of a source. -/
def word (vs : List Src) (n : Nat) : Word :=
  match vs[n]? with
  | some (.s w) => w
  | _ => 0

/-- A vector value of a source. -/
def vec (vs : List Src) (n : Nat) : Vec :=
  match vs[n]? with
  | some (.v w) => w
  | _ => 0

/-- An execute-to-access queue can take an entry. -/
def roomEA (x : Context) (n : Nat) : Bool := !pendingQs x true n && decide ((vecGet x.sEA n []).length < 32)

/-- The context with an entry pushed to an execute-to-access queue. -/
def pushedEA (x : Context) (n : Nat) (w : Word) : Context := { x with sEA := vecSet x.sEA n (vecGet x.sEA n [] ++ [w]) }

/-- A write of a predicate. -/
def toPred (r : Ring) (reads : List SrcF) (pd : BitVec 3) (v : Context → List Src → Pred) : Option Late :=
  some ⟨r, reads, fun _ => true, fun x vs => (wroteP x pd (v x vs), flagNone)⟩

/-- The predicate instructions (R170–R172). -/
def predTable : Instr → Option Late
  | .pand f => toPred f.ring [] f.pd (fun x _ => pred x f.pa &&& pred x f.pb)
  | .por f => toPred f.ring [] f.pd (fun x _ => pred x f.pa ||| pred x f.pb)
  | .pxor f => toPred f.ring [] f.pd (fun x _ => pred x f.pa ^^^ pred x f.pb)
  | .pnot f => toPred f.ring [] f.pd (fun x _ => ~~~pred x f.pa)
  | .pfrom f => toPred f.ring [.g (0x3C#6 + f.n.setWidth 6) f.tq] f.pd (fun x vs =>
      (BitVec.ofBoolListLE ((List.range 256).map (fun k =>
        if k / 64 = f.j.toNat then (word vs 0).getLsbD (k % 64) else !f.z && (pred x f.pd).getLsbD k))).setWidth 256)
  | .pto f => some ⟨f.ring, [], fun x => roomEA x f.n.toNat, fun x _ =>
      (pushedEA x f.n.toNat ((pred x f.ps >>> (64 * f.j.toNat)).setWidth 64), flagNone)⟩
  | _ => none

/-! ### Vector instructions -/

/-- What a rule gives for a lane-by-lane instruction: its ring nibble, sources and destination, the type of its destination's lanes and
whether it accepts it, which lanes it computes, whether they step their rounding state, the mode and policy, and the result of one
lane. -/
structure Lanes where
  ring  : Ring
  reads : List SrcF
  dest  : BitVec 5
  type  : Context → Nat
  takes : Nat → Bool
  on    : Context → Nat → Bool
  draws : Nat → Bool
  mode  : Context → BitVec 2
  ovf   : Context → BitVec 2
  lane  : Context → List Src → Nat → Rnd → Coded

/-- Whether lane `k` of width `w` bytes is active (R189). -/
def active (w : Nat) (p : Pred) (k : Nat) : Bool := p.getLsbD (k * w)

/-- The container bits of lane `k` of width `w` bytes (R189). -/
def lane (w : Nat) (v : Vec) (k : Nat) : Nat := (v.toNat / 2 ^ (8 * w * k)) % 2 ^ (8 * w)

/-- The old value of a destination: zero for a queue (R193). -/
def was (x : Context) (d : BitVec 5) : Vec := if d.toNat < 28 then vecGet x.v d.toNat 0 else 0

/-- The rounding of lane `k`: under the stochastic mode its state is stepped first (R131). -/
def laneRnd (x : Context) (f : Lanes) (k : Nat) : Rnd :=
  ⟨f.mode x, f.ovf x, if f.draws (f.type x) && f.mode x = 2 then lfsrStep (x.lane k) else 0⟩

/-- The result of lane `k`. -/
def laneAt (x : Context) (vs : List Src) (f : Lanes) (k : Nat) : Coded := f.lane x vs k (laneRnd x f k)

/-- The lanes that are computed. -/
def activeLanes (x : Context) (f : Lanes) : List Nat := (List.range (laneCount (f.type x))).filter (f.on x)

/-- `v`, `fl` and `y` are the vector, the flags and the context with the lane states that R193 gives: the lanes
that are computed by the operation, the others as they were, and only computed lanes step their state. -/
def LanesOk (x : Context) (vs : List Src) (f : Lanes) (v : Vec) (fl : Flags) (y : Context) : Prop :=
  (∀ k, k < laneCount (f.type x) → lane (contBytes (f.type x)) v k =
    if f.on x k then (laneAt x vs f k).get.1 % 2 ^ (8 * contBytes (f.type x))
    else lane (contBytes (f.type x)) (was x f.dest) k) ∧
  fl = (activeLanes x f).foldl (fun g k => g ||| (laneAt x vs f k).get.2) flagNone ∧
  y = { x with lanes := y.lanes } ∧
  ∀ k, y.lane k = if f.draws (f.type x) && f.mode x = 2 && (activeLanes x f).contains k then lfsrStep (x.lane k) else x.lane k

/-- No computed lane raises a cause. -/
def calm (x : Context) (vs : List Src) (f : Lanes) : Bool :=
  (activeLanes x f).all (fun k => match laneAt x vs f k with
    | .ok _ _ => true
    | .trap _ => false)

/-- The instructions of a table complete, at issue or at the head of the stream, when their sources can be read, their type is accepted, no
lane traps and the destination has room. -/
def resultsLanes (table : Instr → Option Lanes) : Prop :=
  ∀ (i : Instr) (f : Lanes), table i = some f → joins i f.reads ∧
    ∀ (head : Bool) (caps : List (Option Src)) (s : State) (vs : List Src) (x : Context),
      mReads head caps i s f.ring f.reads vs x → f.takes (f.type x) = true → calm x vs f = true → roomV x f.dest = true →
      ∃ t v fl y, exec i s = .next t ∧ LanesOk x vs f v fl y ∧
        MDone head { s with x := wroteV y f.dest v } i (sigsOf s .M f.ring) fl t

/-- The same for the long-latency functions: vd is owed until its result lands (R159, R195). -/
def resultsLanesLater (table : Instr → Option Lanes) : Prop :=
  ∀ (i : Instr) (f : Lanes), table i = some f → joins i f.reads ∧
    ∀ (head : Bool) (caps : List (Option Src)) (s : State) (vs : List Src) (x : Context),
      mReads head caps i s f.ring f.reads vs x → f.takes (f.type x) = true → calm x vs f = true → mayOweV x f.dest = true →
      ∃ t v fl y, exec i s = .next t ∧ LanesOk x vs f v fl y ∧
        MDone head { s with x := owedV y f.dest v fl (sigsOf s .M f.ring) s.tick } i [] flagNone t

/-- VTYPE's fields (R190). -/
def typeOf (x : Context) : Nat := (x.vtype.extractLsb' 0 4).toNat
def modeOf (x : Context) : BitVec 2 := x.vtype.extractLsb' 4 2
def policyOf (x : Context) : BitVec 2 := x.vtype.extractLsb' 6 2

/-- An integer result of `w` bytes under a policy (R194): SAT clamps, INF and NAN wrap, TRAP traps. -/
def intResult (w : Nat) (ovf : BitVec 2) (v : Int) : Coded :=
  let half : Int := (2 ^ (8 * w - 1) : Nat)
  if -half ≤ v ∧ v < half then .ok (v % (2 ^ (8 * w) : Nat)).toNat flagNone
  else match ovf.toNat with
    | 0 => .ok ((max (min v (half - 1)) (-half)) % (2 ^ (8 * w) : Nat)).toNat flagNone
    | 3 => .trap 0x020
    | _ => .ok (v % (2 ^ (8 * w) : Nat)).toNat flagNone

/-- The integer that a lane of `w` bytes holds. -/
def laneInt (w : Nat) (v : Vec) (k : Nat) : Int := (lane w v k : Int).bmod (2 ^ (8 * w))

/-- A lane of R196: the floating operation rounded once, or the integer one under the policy. -/
def arith (f : V3) (fop : ExactNum → ExactNum → ExactNum → NumF) (iop : Int → Int → Int → Int) : Option Lanes :=
  some { ring := f.ring, reads := [.v f.va f.ta, .v f.vb f.tb], dest := f.vd, type := typeOf
         takes := fun ty => [1, 2, 3, 9, 13, 14].contains ty, on := fun x => active (contBytes (typeOf x)) (pred x f.p), draws := fun ty => ty < 4, mode := modeOf, ovf := policyOf
         lane := fun x vs k r =>
           let w := contBytes (typeOf x)
           match floatFmt (typeOf x) with
           | some g => roundNum g r (fop (floatDecode g (lane w (vec vs 0) k)) (floatDecode g (lane w (vec vs 1) k)) (floatDecode g (lane w (was x f.vd) k)))
           | none => intResult w r.ovf (iop (laneInt w (vec vs 0) k) (laneInt w (vec vs 1) k) (laneInt w (was x f.vd) k)) }

/-- Lane arithmetic (R194, R196). -/
def arithTable : Instr → Option Lanes
  | .vadd f => arith f (fun a b _ => numAdd a b) (fun a b _ => a + b)
  | .vsub f => arith f (fun a b _ => numAdd a b.flip) (fun a b _ => a - b)
  | .vmul f => arith f (fun a b _ => numMul a b) (fun a b _ => a * b)
  | .vfma f => arith f (numFma false) (fun a b d => a * b + d)
  | .vfnma f => arith f (numFma true) (fun a b d => d - a * b)
  | .vmin f => arith f (fun a b _ => numMinMax false a b) (fun a b _ => min a b)
  | .vmax f => arith f (fun a b _ => numMinMax true a b) (fun a b _ => max a b)
  | _ => none

/-- An instruction that moves or combines container bits without rounding. -/
def bits (r : Ring) (reads : List SrcF) (vd : BitVec 5) (p : BitVec 3) (type : Context → Nat) (takes : Nat → Bool)
    (fn : Context → List Src → Nat → Nat → Nat) : Option Lanes :=
  some { ring := r, reads := reads, dest := vd, type := type, takes := takes
         on := fun x => active (contBytes (type x)) (pred x p), draws := fun _ => false
         mode := fun _ => 0, ovf := fun _ => 0, lane := fun x vs k _ => .ok (fn x vs (contBytes (type x)) k) flagNone }

/-- Every type code but 15 (R192). -/
def anyCode (ty : Nat) : Bool := ty < 15

/-- Moves and permutation (R199, R200, R203); VMOV here takes a register. -/
def moveTable : Instr → Option Lanes
  | .vbcast f => bits f.ring [.g f.s f.ts] f.vd f.p typeOf anyCode (fun _ vs w _ => (word vs 0).toNat % 2 ^ (8 * w))
  | .vmov f => if 28 ≤ f.va.toNat then none
      else bits f.ring [.v f.va f.ta] f.vd f.p typeOf anyCode (fun _ vs w k => lane w (vec vs 0) k)
  | .vperm f => bits f.ring [.v f.va f.ta, .v f.vb f.tb] f.vd f.p typeOf anyCode
      (fun _ vs w k => lane w (vec vs 0) (lane w (vec vs 1) k % (256 / w)))
  | _ => none

/-- A VX function that works on container bits (R209, R211). -/
def vx (f : VXF) (takes : Nat → Bool) (fn : List Src → Nat → Nat → Nat) : Option Lanes :=
  bits f.ring [.v f.va f.ta, .v f.vb f.tb] f.vd f.p (fun _ => f.st.toNat) takes (fun _ vs w k => fn vs w k)

/-- The same with one source. -/
def vx1 (f : VXF) (takes : Nat → Bool) (fn : List Src → Nat → Nat → Nat) : Option Lanes :=
  bits f.ring [.v f.va f.ta] f.vd f.p (fun _ => f.st.toNat) takes (fun _ vs w k => fn vs w k)

/-- A shift: its count is imm8, or lane k of vb modulo the container's width (R211). -/
def vxShl (f : VXF) (fn : Nat → Nat → Nat → Nat) : Option Lanes :=
  bits f.ring (if f.x then [.v f.va f.ta] else [.v f.va f.ta, .v f.vb f.tb]) f.vd f.p (fun _ => f.st.toNat) anyCode (fun _ vs w k =>
    fn w (lane w (vec vs 0) k) (if f.x then f.imm.toNat else lane w (vec vs 1) k % (8 * w)))

/-- The sign bit of a floating lane replaced; the bits above the element are zero (R104, R211). -/
def withSign (g : FloatFmt) (a : Nat) (neg : Bool) : Nat := a % 2 ^ (g.ebits + g.mbits) + (if neg then 2 ^ (g.ebits + g.mbits) else 0)

/-- The types of VABS and VNEG (R192). -/
def signed (ty : Nat) : Bool := [1, 2, 3, 4, 5, 6, 7, 8, 9, 13, 14].contains ty

/-- The bitwise functions, signs and classes (R211, R218). -/
def vxBitTable : Instr → Option Lanes
  | .vand f => vx f anyCode (fun vs w k => lane w (vec vs 0) k &&& lane w (vec vs 1) k)
  | .vor f => vx f anyCode (fun vs w k => lane w (vec vs 0) k ||| lane w (vec vs 1) k)
  | .vxor f => vx f anyCode (fun vs w k => lane w (vec vs 0) k ^^^ lane w (vec vs 1) k)
  | .vnot f => vx1 f anyCode (fun vs w k => lane w (~~~vec vs 0) k)
  | .vshl f => vxShl f (fun _ a c => a * 2 ^ c)
  | .vshr f => vxShl f (fun _ a c => a / 2 ^ c)
  | .vsra f => vxShl f (fun w a c => (((a : Int).bmod (2 ^ (8 * w)) / (2 ^ c : Nat)) % (2 ^ (8 * w) : Nat)).toNat)
  | .vabs f => vx1 f signed (fun vs w k => match floatFmt f.st.toNat with
      | some g => withSign g (lane w (vec vs 0) k) false
      | none => (laneInt w (vec vs 0) k).natAbs)
  | .vneg f => vx1 f signed (fun vs w k => match floatFmt f.st.toNat with
      | some g => withSign g (lane w (vec vs 0) k) (!(lane w (vec vs 0) k).testBit (g.ebits + g.mbits))
      | none => (-(laneInt w (vec vs 0) k) % (2 ^ (8 * w) : Nat)).toNat)
  | .vclass f => vx1 f (fun ty => 1 ≤ ty && ty ≤ 8) (fun vs w k => match floatFmt f.st.toNat with
      | some g => classOf g (lane w (vec vs 0) k % 2 ^ (1 + g.ebits + g.mbits))
      | none => 0)
  | _ => none

/-- A correctly rounded function of the lanes (R144, R212). -/
def func (f : VXF) (reads : List SrcF) (fn : FloatFmt → Rnd → Nat → Nat → Coded) : Option Lanes :=
  some { ring := f.ring, reads := reads, dest := f.vd, type := fun _ => f.st.toNat
         takes := fun ty => [1, 2, 3].contains ty, on := fun x => active (contBytes f.st.toNat) (pred x f.p), draws := fun _ => true, mode := fun _ => f.rnd, ovf := fun _ => f.ovf
         lane := fun _ vs k r =>
           let w := contBytes f.st.toNat
           match floatFmt f.st.toNat with
           | some g => fn g r (lane w (vec vs 0) k) (lane w (vec vs 1) k)
           | none => .ok 0 flagNone }

/-- The functions of one argument that are not algebraic: NaN, infinities and zeros by R145, the other values rounded once. -/
def exp2Lane (g : FloatFmt) (r : Rnd) (a : Nat) : Coded :=
  fnLane 0 g r (fun v => match v with
    | .inf n => some (if n then .zero false else .inf false, flagNone)
    | _ => none) (exp2Fin g r) a

def log2Lane (g : FloatFmt) (r : Rnd) (a : Nat) : Coded :=
  fnLane 1 g r (fun v => match v with
    | .inf n => some (if n then nanInvalid else (.inf false, flagNone))
    | .fin n m _ _ => if m = 0 then some (.inf true, flagDivZero) else if n then some nanInvalid else none
    | .nan _ => none) (fun _ m e => log2Fin g r m e) a

def sinPiLane (g : FloatFmt) (r : Rnd) (a : Nat) : Coded :=
  fnLane 2 g r (fun v => if v.isInf then some nanInvalid else none) (sinPiFin g r) a

def cosPiLane (g : FloatFmt) (r : Rnd) (a : Nat) : Coded :=
  fnLane 3 g r (fun v => if v.isInf then some nanInvalid else none) (fun _ m e => cosPiFin g r m e) a

def tanhLane (g : FloatFmt) (r : Rnd) (a : Nat) : Coded :=
  fnLane 4 g r (fun v => match v with
    | .inf n => some (.fin n 1 0 false, flagNone)
    | _ => none) (tanhFin g r) a

/-- The long-latency functions (R145, R212). -/
def funcTable : Instr → Option Lanes
  | .vdiv f => func f [.v f.va f.ta, .v f.vb f.tb] (fun g r a b => roundNum g r (numDiv (floatDecode g a) (floatDecode g b)))
  | .vsqrt f => func f [.v f.va f.ta] (fun g r a _ => roundNum g r (numSqrt (floatDecode g a)))
  | .vrcp f => func f [.v f.va f.ta] (fun g r a _ => roundNum g r (numDiv (.ofInt 1) (floatDecode g a)))
  | .vrsqrt f => func f [.v f.va f.ta] (fun g r a _ => roundNum g r (numRsqrt (floatDecode g a)))
  | .vexp2 f => func f [.v f.va f.ta] (fun g r a _ => exp2Lane g r a)
  | .vlog2 f => func f [.v f.va f.ta] (fun g r a _ => log2Lane g r a)
  | .vsinpi f => func f [.v f.va f.ta] (fun g r a _ => sinPiLane g r a)
  | .vcospi f => func f [.v f.va f.ta] (fun g r a _ => cosPiLane g r a)
  | .vtanh f => func f [.v f.va f.ta] (fun g r a _ => tanhLane g r a)
  | _ => none

/-- The segment that VCVT, VQUANT and VDEQ name (R213). -/
def segment (f : VXF) : Nat := (f.imm.extractLsb' 6 2).toNat

/-- The lanes of the smaller container that one conversion covers, and the first of them (R213): source and destination. -/
def cvtLanes (f : VXF) : Nat × Nat × Nat :=
  let cd := contBytes f.dt.toNat
  let cs := contBytes f.st.toNat
  let n := 256 / max cd cs
  (n, if cs < cd then segment f * n else 0, if cd < cs then segment f * n else 0)

/-- The conversions (R213, R215). -/
def convertTable : Instr → Option Lanes
  | .vcvt f => some { ring := f.ring, reads := [.v f.va f.ta], dest := f.vd, type := fun _ => f.dt.toNat
                      takes := fun _ => [f.dt.toNat, f.st.toNat].all ([1, 2, 3, 4, 5, 6, 7, 8, 9, 11, 13, 14].contains ·)
                      on := fun _ k => (cvtLanes f).2.2 ≤ k && k < (cvtLanes f).2.2 + (cvtLanes f).1
                      draws := fun _ => true, mode := fun _ => f.rnd, ovf := fun _ => f.ovf
                      lane := fun _ vs k r => toElem f.dt.toNat r
                        (elemDecode f.st.toNat (lane (contBytes f.st.toNat) (vec vs 0) ((cvtLanes f).2.1 + (k - (cvtLanes f).2.2)))) }
  | .vdeq f => some { ring := f.ring, reads := [.v f.va f.ta, .v f.vb f.tb], dest := f.vd, type := fun _ => f.dt.toNat
                      takes := fun _ => [1, 2, 3].contains f.dt.toNat && (4 ≤ f.st.toNat && f.st.toNat ≤ 12)
                      on := fun _ _ => true, draws := fun _ => true, mode := fun _ => f.rnd, ovf := fun _ => f.ovf
                      lane := fun _ vs k r =>
                        let n := 256 / contBytes f.dt.toNat
                        let g := (f.imm.extractLsb' 0 3).toNat
                        match floatFmt f.dt.toNat with
                        | some fm => roundNum fm r (scaledValue f.st.toNat g (lane 1 (vec vs 0) (segment f * n + k))
                            (lane 4 (vec vs 1) (segment f * (n / geomLen g) + k / geomLen g)))
                        | none => .ok 0 flagNone }
  | _ => none

/-- A vector from the values of its lanes of `w` bytes. -/
def build (w : Nat) (f : Nat → Nat) : Vec :=
  BitVec.ofNat 2048 ((List.range (256 / w)).foldr (fun k acc => f k % 2 ^ (8 * w) * 2 ^ (8 * w * k) + acc) 0)

/-- An unpredicated result for a vector destination. -/
def toVec (r : Ring) (reads : List SrcF) (vd : BitVec 5) (ok : Context → Bool) (v : Context → List Src → Vec × Flags) : Option Late :=
  some ⟨r, reads, fun x => ok x && roomV x vd, fun x vs => (wroteV x vd (v x vs).1, (v x vs).2)⟩

/-- The value that VEXTR pushes: sign-extended for the signed integer types (R217). -/
def extracted (ty : Nat) (v : Nat) : Word :=
  if [9, 11, 13, 14].contains ty then BitVec.ofInt 64 ((v : Int).bmod (2 ^ elemBits ty)) else BitVec.ofNat 64 v

/-- The lanes before lane `k` that are active (R218). -/
def activeBefore (w : Nat) (p : Pred) (k : Nat) : Nat := ((List.range k).filter (active w p)).length

/-- Comparison, selection, reduction, lane moves and counts (R197, R198, R201, R202, R217, R218). -/
def wholeTable : Instr → Option Late
  | .vcmp f => some ⟨f.ring, [.v f.va f.ta, .v f.vb f.tb], fun x => [1, 2, 3, 9, 13, 14].contains (typeOf x), fun x vs =>
      let w := contBytes (typeOf x)
      let on := (List.range (256 / w)).filter (active w (pred x f.p))
      let at_ (k : Nat) : Bool × Flags := cmpLane f.c.toNat (typeOf x) (lane w (vec vs 0) k) (lane w (vec vs 1) k)
      (wroteP x f.pd ((BitVec.ofBoolListLE ((List.range 256).map (fun b =>
          if on.contains (b / w) then (at_ (b / w)).1 else (pred x f.pd).getLsbD b))).setWidth 256),
        on.foldl (fun g k => g ||| (at_ k).2) flagNone)⟩
  | .vsel f => toVec f.ring [.v f.va f.ta, .v f.vb f.tb] f.vd (fun x => anyCode (typeOf x)) (fun x vs =>
      let w := contBytes (typeOf x)
      (build w (fun k => if active w (pred x f.p) k then lane w (vec vs 0) k else lane w (vec vs 1) k), flagNone))
  | .vred f => toVec f.ring [.v f.va f.ta] f.vd (fun x => [1, 2, 3, 9, 13, 14].contains (typeOf x)) (fun x vs =>
      match floatFmt (typeOf x) with
      | some g => let r := redFloat f.op.toNat (typeOf x) g (pred x f.p) (vec vs 0); (BitVec.ofNat 2048 r.1, r.2)
      | none => (BitVec.ofNat 2048 (redInt f.op.toNat (typeOf x) (pred x f.p) (vec vs 0)), flagNone))
  | .vsett f => some ⟨f.ring, [], fun _ => true, fun x _ =>
      ({ x with vtype := BitVec.ofNat 64 (f.type.toNat + 16 * f.rnd.toNat + 64 * f.ovf.toNat) }, flagNone)⟩
  | .vslide f => toVec f.ring [.v f.va f.ta, .v f.vb f.tb] f.vd (fun _ => anyCode f.st.toNat) (fun _ vs =>
      let w := contBytes f.st.toNat
      let n := 256 / w
      (build w (fun k => if k + f.imm.toNat < n then lane w (vec vs 0) (k + f.imm.toNat) else lane w (vec vs 1) (k + f.imm.toNat - n)),
        flagNone))
  | .vextr f => some ⟨f.ring, [.v f.va f.ta], fun x => anyCode f.st.toNat && roomEA x (f.vd.toNat % 4), fun x vs =>
      (pushedEA x (f.vd.toNat % 4) (extracted f.st.toNat (lane (contBytes f.st.toNat) (vec vs 0) f.imm.toNat)), flagNone)⟩
  | .vins f => toVec f.ring [.g f.s f.ts] f.vd (fun _ => anyCode f.st.toNat) (fun x vs =>
      let w := contBytes f.st.toNat
      (build w (fun k => if k = f.k.toNat then (word vs 0).toNat else lane w (was x f.vd) k), flagNone))
  | .viota f => toVec f.ring [] f.vd (fun _ => [9, 13, 14].contains f.st.toNat) (fun x _ =>
      (build (contBytes f.st.toNat) (activeBefore (contBytes f.st.toNat) (pred x f.p)), flagNone))
  | _ => none

/-- The bit position and width of element `e` of a packed stream of 6-bit elements under pattern 1, or of dense elements (R120, R216). -/
def packedBit (f : VXF) (e : Nat) : Nat × Nat := packedAt (vxPattern f) e

/-- VUNPK and VPACK (R216). -/
def packTable : Instr → Option Late
  | .vunpk f => toVec f.ring [.v f.va f.ta] f.vd (fun _ => [6, 7, 8, 11, 12].contains f.st.toNat) (fun _ vs =>
      (build 1 (fun k =>
        let q := packedBit f (256 * (f.imm.extractLsb' 7 1).toNat + k)
        if q.1 + q.2 ≤ 2048 then (vec vs 0).toNat / 2 ^ q.1 % 2 ^ q.2 else 0), flagNone))
  | .vpack f => toVec f.ring [.v f.va f.ta] f.vd (fun _ => [6, 7, 8, 11, 12].contains f.st.toNat) (fun x vs =>
      let p := vxPattern f
      let l := packedElems p (f.imm.extractLsb' 7 1).toNat
      let at_ (b : Nat) : Bool :=
        match l.find? (fun q => q.2.1 ≤ b && b < q.2.1 + q.2.2) with
        | some q => (lane 1 (vec vs 0) q.1).testBit (b - q.2.1)
        | none =>
          if l.any (fun q => q.2.1 / p.period = b / p.period) && !p.elems.any (fun e => e.1 ≤ b % p.period && b % p.period < e.1 + e.2)
          then false else (was x f.vd).getLsbD b
      ((BitVec.ofBoolListLE ((List.range 2048).map at_)).setWidth 2048, flagNone))
  | _ => none

/-! ### Instructions of the access side with an effect on the state -/

/-- What a rule gives for an instruction of the access side: its ring nibble, its sources in field order, when it need not wait any longer,
and the state that its effect leaves, from the state in which it has issued; `late` marks one whose result lands later, with its signals. -/
structure Effect where
  ring  : Ring
  reads : List SrcF
  late  : Bool
  ready : State → List (Option Src) → Bool
  after : State → List (Option Src) → List Nat → State

/-- The instructions of a table complete: they retire with their effect. -/
def resultsEffect (table : Instr → Option Effect) : Prop :=
  ∀ (i : Instr) (f : Effect) (s : State) (caps : List (Option Src)) (x : Context),
    table i = some f → issueCaptures s .P f.ring f.reads = some (caps, x) → f.ready (issued i s caps x) caps = true →
    ∃ t, exec i s = .next t ∧
      Retired (f.after (issued i s caps x) caps (sigsOf s .P f.ring)) i (if f.late then [] else sigsOf s .P f.ring) flagNone t

/-- The scalar value of source `n`. -/
def scal (caps : List (Option Src)) (n : Nat) : Word :=
  match caps[n]? with
  | some (some (.s w)) => w
  | _ => 0

/-- The vector value of source `n`. -/
def vect (caps : List (Option Src)) (n : Nat) : Vec :=
  match caps[n]? with
  | some (some (.v w)) => w
  | _ => 0

/-- Where an access of `n` bytes at `a` with its natural alignment lies, where R304 lets it through. -/
def home (s : State) (need : Need) (a n : Nat) : Option Loc :=
  match resolve s s.xid need a n n with
  | .ok t => some t.loc
  | .error _ => none

/-- No access of the context is held for fault service, and no copy still has to reach the bytes (R258, R343). -/
def undisturbed (s : State) (l : Loc) (n : Nat) (ld st : Bool) : Bool :=
  s.faults.isEmpty && (watermark s s.xid l n ld st).isNone

/-- The job key of the current continuation is that of the target's partition, where the access crosses a die-to-die link (R447). -/
def keyed (s : State) (l : Loc) : Bool := !foreign s (ctxCluster s.xid) l

/-- A read of `n` bytes at a location goes ahead: nothing of the context's own is on the way to them, its job key is admitted, and the lines
hold no error. -/
def readable (s : State) (l : Loc) (n : Nat) (both : Bool) : Bool :=
  undisturbed s l n true both && !shoalBlocks s s.xid l n && !netBlocks s s.xid l n && keyed s l && (readBad s l n).isNone

/-- A write to a location goes ahead at once: the shoal log holds nothing of the context, the pool is not frozen, and no line that it covers in
part is uncorrectable or fails its tag (R438, R477). -/
def writable (s : State) (l : Loc) (n : Nat) : Bool :=
  undisturbed s l n false true && (ownShoal s s.xid).isEmpty && !poolHeld s l && (writeBad s l n).all (fun e => e = 0x211)

/-- No load of the `n` bytes at a location stays performed early (R271; MODEL). -/
def forgets (s : State) (l : Loc) (n : Nat) : State :=
  { s with x := { s.x with early := s.x.early.filter (fun e => !overlaps l n e.1 e.2.length) } }

/-- What a home allows. -/
def homeIs (s : State) (need : Need) (a n : Nat) (ok : Loc → Bool) : Bool := (home s need a n).any ok

/-- The bytes of a store, lowest first (R4, R307). -/
def lowBytes (n : Nat) (w : Word) : List Byte := (List.range n).map (fun k => w.extractLsb' (8 * k) 8)

/-- A little-endian value (R4). -/
def valueOf : List Byte → Nat
  | [] => 0
  | b :: bs => b.toNat + 256 * valueOf bs

/-- Zero extension and sign extension of loaded bytes (R308). -/
def zeroExtended (bs : List Byte) : Word := BitVec.ofNat 64 (valueOf bs)
def signExtended (bs : List Byte) : Word := BitVec.ofInt 64 ((valueOf bs : Int).bmod (2 ^ (8 * bs.length)))

/-- A load: its address from its base, its size, how it extends what it reads, whether it may read now, and how it reads. -/
def load (r : Ring) (d b : BitVec 6) (tb : Bool) (n : Nat) (addr : Word → Word) (ext : List Byte → Word) (may : State → Loc → Bool)
    (rd : State → Loc → List Byte × State) : Option Effect :=
  some ⟨r, [.g b tb], true,
    fun s c => mayOwe s.x d && homeIs s needLoad (addr (scal c 0)).toNat n (fun l => readable s l n false && may s l),
    fun s c sigs => match home s needLoad (addr (scal c 0)).toNat n with
      | some l => let v := rd s l; { v.2 with x := owed v.2.x d (ext v.1) flagNone sigs 0 v.2.tick }
      | none => s⟩

/-- The address of LD, LDU and ST (R308). -/
def scaled (f : Mem) (b : Word) : Word := b + BitVec.ofNat 64 (f.m.toNat * 2 ^ f.sz.toNat)

/-- A plain read (R268, R279). -/
def plainly (n : Nat) (s : State) (l : Loc) : List Byte × State := plainBytes (forgets s l n) s.xid l n

/-- What a strong read sees: the home's bytes, own earlier stores to them performed first; the lines that it finds in the L1 data cache are
refreshed (R268, R271). -/
def strong (n : Nat) (s : State) (l : Loc) : List Byte × State :=
  let s := forgets s l n
  let s := if storesOverlap s.x l n then drainStores s s.xid else s
  (readHome s l n, refreshL1 s (ctxCore s.xid) l n)

/-- A strong read may be made: no own store to these bytes is still to leave for another module (R271). -/
def strongMay (n : Nat) (s : State) (l : Loc) : Bool :=
  match l with
  | .mem pa => !(isRemote s pa && storesOverlap s.x l n)
  | .pool _ _ => true

/-- A relaxed strong read: its value is the one that it had when it was performed early, if it was (R271). -/
def relaxed (n : Nat) (s : State) (l : Loc) : List Byte × State := ((earlyValue s.x l n).getD (strong n s l).1, (strong n s l).2)

/-- An acquire at the scope that the access has (R281, R311). -/
def acquiring (sc : BitVec 2) (n : Nat) (s : State) (l : Loc) : List Byte × State :=
  let v := strong n s l
  (v.1, acquire v.2 s.xid (widen v.2 s.xid l sc))

/-- The loads (R308, R311). -/
def loadTable : Instr → Option Effect
  | .ld f => load f.ring f.t f.b f.tb (2 ^ f.sz.toNat) (scaled f) signExtended (fun _ _ => true) (plainly (2 ^ f.sz.toNat))
  | .ldu f => load f.ring f.t f.b f.tb (2 ^ f.sz.toNat) (scaled f) zeroExtended (fun _ _ => true) (plainly (2 ^ f.sz.toNat))
  | .lds f => load f.ring f.t f.b f.tb (2 ^ f.sz.toNat) id zeroExtended (strongMay (2 ^ f.sz.toNat)) (relaxed (2 ^ f.sz.toNat))
  | .lda f => load f.ring f.t f.b f.tb (2 ^ f.sz.toNat) id zeroExtended (strongMay (2 ^ f.sz.toNat)) (acquiring f.sc (2 ^ f.sz.toNat))
  | _ => none

/-- A store: its address, its size and its effect at the home; `pre` is what it does before it looks for its home. -/
def store (r : Ring) (t b : BitVec 6) (tt tb : Bool) (n : Nat) (addr : Word → Word) (pre : State → State) (may : State → Loc → Bool)
    (wr : State → Loc → List Byte → Word → State) : Option Effect :=
  some ⟨r, [.g t tt, .g b tb], false,
    fun s c => home s needStore (addr (scal c 1)).toNat n = home (pre s) needStore (addr (scal c 1)).toNat n &&
      homeIs (pre s) needStore (addr (scal c 1)).toNat n (fun l => writable (pre s) l n && may (pre s) l),
    fun s c _ => match home (pre s) needStore (addr (scal c 1)).toNat n with
      | some l => wr (pre s) l (lowBytes n (scal c 0)) (addr (scal c 1))
      | none => s⟩

/-- The location is served by the memory of the own die, or lies in a pool. -/
def near (s : State) (l : Loc) : Bool :=
  match l with
  | .mem a => !isRemote s a
  | .pool _ _ => true

/-- A store that has retired and is still to be performed. -/
def awaits (s : State) (l : Loc) (bs : List Byte) (a : Word) : State :=
  let u := forgets s l bs.length
  { u with x := { u.x with stores := u.x.stores ++ [⟨l, bs, a, false⟩] } }

/-- The stores (R263, R271, R279, R280, R308, R311): one retires and is performed at its home later, in an order that the loads after it do
not wait for; a release one follows every earlier access of the context, and to another module it leaves as a release-class packet. -/
def storeTable : Instr → Option Effect
  | .st f => store f.ring f.t f.b f.tt f.tb (2 ^ f.sz.toNat) (scaled f) id (fun _ _ => true)
      awaits
  | .sts f => store f.ring f.t f.b f.tt f.tb (2 ^ f.sz.toNat) id id (fun _ _ => true)
      awaits
  | .stl f => store f.ring f.t f.b f.tt f.tb (2 ^ f.sz.toNat) id (fun s => drainStores s s.xid)
      (fun s l => releaseReady s s.xid l (widen s s.xid l f.sc))
      (fun s l bs a => if near s l then awaits s l bs a else performRelease s s.xid ⟨l, bs, a, false⟩)
  | _ => none

/-- An atomic operation (R312, R313): `fn` gives the new value from the old one, the operand and the comparand, all of `8n` bits; `host`
says that the host's memory supports it without CXL (R314). Its old value is owed to t unless it is a reduction. -/
def amo (f : Amo) (cmp : Bool) (host : Bool) (fn : Nat → Nat → Nat → Nat → Nat) : Option Effect :=
  let n := if f.dbl then 8 else 4
  let low (w : Word) : Nat := w.toNat % 2 ^ (8 * n)
  let rel := f.ord.getLsbD 1
  let pre (s : State) (l : Loc) : State :=
    let s := if f.nr then s else forgets s l n
    if rel || storesOverlap s.x l n then drainStores s s.xid else s
  let go (s : State) (l : Loc) (c : List (Option Src)) : Nat × State :=
    let s := pre s l
    let old := valueOf (readHome s l n)
    let bs := leBytes n (fn (8 * n) old (low (scal c 0)) (low (scal c 2)))
    let s := patchL1 (writeHome s l bs) (ctxCore s.xid) l bs
    (old, if f.ord.getLsbD 0 then acquire s s.xid (widen s s.xid l f.sc) else s)
  some ⟨f.ring, [.g f.t f.tt, .g f.b f.tb] ++ (if cmp then [.g f.c f.tc] else []), !f.nr,
    fun s c => (f.nr || mayOwe s.x f.t) && homeIs s needBoth (scal c 1).toNat n (fun l =>
      undisturbed s l n true true && (if f.nr then (ownShoal s s.xid).isEmpty else !shoalBlocks s s.xid l n) && !netBlocks s s.xid l n &&
      (host || amoSupported l 1) && keyed s l && keyed (pre s l) l && !lineBlocks (pre s l) s.xid l && !poolHeld (pre s l) l && (readBad (pre s l) l n).isNone &&
      !amoWaits (pre s l) s.xid l f.sc rel),
    fun s c sigs => match home s needBoth (scal c 1).toNat n with
      | some l => let r := go s l c
                  if f.nr then r.2 else { r.2 with x := owed r.2.x f.t (BitVec.ofNat 64 r.1) flagNone sigs 0 r.2.tick }
      | none => s⟩

/-- A value of `w` bits as a signed integer. -/
def sval (w v : Nat) : Int := (v : Int).bmod (2 ^ w)

/-- The atomic operations (R100, R313). -/
def amoTable : Instr → Option Effect
  | .aadd f => amo f false true (fun w old v _ => (old + v) % 2 ^ w)
  | .aand f => amo f false false (fun _ old v _ => old &&& v)
  | .aor f => amo f false false (fun _ old v _ => old ||| v)
  | .axor f => amo f false false (fun _ old v _ => old ^^^ v)
  | .amin f => amo f false false (fun w old v _ => if sval w v < sval w old then v else old)
  | .amax f => amo f false false (fun w old v _ => if sval w old < sval w v then v else old)
  | .aminu f => amo f false false (fun _ old v _ => min old v)
  | .amaxu f => amo f false false (fun _ old v _ => max old v)
  | .aswp f => amo f false true (fun _ _ v _ => v)
  | .acas f => amo f true true (fun _ old v cmp => if old = cmp then v else old)
  | .afadd f => amo f false false (fun _ old v _ => (roundNum fp32 rneInf (numAdd (floatDecode fp32 old) (floatDecode fp32 v))).get.1)
  | _ => none

/-- The access of a store or an atomic operation: what it needs, its address from the sources and its size (R308, R310, R312). -/
def storeAccess : Instr → Option (Need × (List (Option Src) → Word) × Nat)
  | .st f => some (needStore, fun c => scaled f (scal c 1), 2 ^ f.sz.toNat)
  | .sts f | .stl f => some (needStore, fun c => scal c 1, 2 ^ f.sz.toNat)
  | .aadd f | .aand f | .aor f | .axor f | .amin f | .amax f | .aminu f | .amaxu f | .aswp f | .acas f | .afadd f =>
    some (needBoth, fun c => scal c 1, if f.dbl then 8 else 4)
  | _ => none

/-- A byte that is none of the `n` bytes at a location. -/
def outside (l : Loc) (n : Nat) (m : Loc) : Bool :=
  match l, m with
  | .mem a, .mem b => b < a || a + n ≤ b
  | .pool c a, .pool d b => c ≠ d || b < a || a + n ≤ b
  | _, _ => true

/-- A fence that waits for the earlier accesses (R271, R319). -/
def fence (r : Ring) (sc : Nat) (acq : State → State) : Option Effect :=
  some ⟨r, [], false, fun s _ => accessesDone (drainStores s s.xid) sc, fun s _ _ => acq (drainStores s s.xid)⟩

/-- The fences (R290, R319). -/
def fenceTable : Instr → Option Effect
  | .fenceFull f => fence f.ring f.sc.toNat (fun s => acquire s s.xid f.sc)
  | .fenceRel f => fence f.ring f.sc.toNat id
  | .fenceIo f => some ⟨f.ring, [], false, fun s _ => (ownShoal (drainStores s s.xid) s.xid).all (fun e => !toHost (drainStores s s.xid) e),
      fun s _ _ => drainStores s s.xid⟩
  | .fenceAcq f => some ⟨f.ring, [], false, fun _ _ => true, fun s _ _ => acquire s s.xid f.sc⟩
  | .fenceShoal f => some ⟨f.ring, [], false, fun s _ => (ownShoal s s.xid).isEmpty, fun s _ _ => s⟩
  | _ => none

/-- A scalar result at once, and what else the instruction does. -/
def toG (r : Ring) (reads : List SrcF) (d : BitVec 6) (ok : State → List (Option Src) → Bool) (v : State → List (Option Src) → Word)
    (also : State → List (Option Src) → State) : Option Effect :=
  some ⟨r, reads, false, fun s c => ok s c && roomG s.x d,
    fun s c _ => also { s with x := wroteG s.x d (v s c) } c⟩

/-- Whether address `a` belongs to space `sp` (R323): 0 global, 1 LOCALW, 2 CLUSTW, 3 SHAREDW. -/
def inSpace (x : Context) (a sp : Nat) : Bool :=
  a < 2 ^ 57 && windowOf x a = sp && (sp = 0 || a - winBase (winCsr x sp) < winLimit (winCsr x sp))

/-- Address conversion (R323, R324). -/
def addressTable : Instr → Option Effect
  | .aspc f => toG f.ring [.g f.a f.ta, .g f.b f.tb] f.d (fun _ _ => true)
      (fun s c => bit (inSpace s.x (scal c 0).toNat ((scal c 1).toNat % 4) = true)) (fun s _ => s)
  | .cvta f => toG f.ring [.g f.a f.ta, .g f.b f.tb] f.d (fun _ _ => true) (fun s c =>
      let a := scal c 0
      let sp := (scal c 1).toNat % 4
      let base := BitVec.ofNat 64 (winBase (winCsr s.x sp))
      if (scal c 1).getLsbD 2 then
        if sp = 0 then (if inSpace s.x a.toNat 0 then a else BitVec.allOnes 64)
        else if a.toNat < winLimit (winCsr s.x sp) then base + a else BitVec.allOnes 64
      else if !inSpace s.x a.toNat sp then BitVec.allOnes 64
      else if sp = 0 then a else a - base) (fun s _ => s)
  | _ => none

/-- The own cluster's flag that a name selects (R320). -/
def ownFlag (s : State) (w : Word) : Option Nat :=
  match flagName s w with
  | .own e => some e
  | _ => none

/-- The value of an entry of the cluster's flag file. -/
def flag (s : State) (e : Nat) : BitVec 32 := tabGet 0 e (getCluster s s.cl).flags

/-- The context's earlier accesses are performed before a flag is written (R322). -/
def released (s : State) : State := drainStores s s.xid

/-- A suspending form may act: outside handler mode and hardware loops, when every earlier instruction of both streams has retired (R181,
R318, R403, R457). -/
def still (x : Context) : Bool := !x.handler && x.loops.isEmpty && x.stream.isEmpty && x.wbs.isEmpty

/-- Flags of the own cluster (R320–R322), and the packet to another cluster's (R287, R288). -/
def flagTable : Instr → Option Effect
  | .fset f => some ⟨f.ring, [.g f.f f.tf, .g f.v f.tv], false,
      fun s c => (ownFlag s (scal c 0)).isSome && (ownShoal (released s) s.xid).isEmpty && !unapplied (released s) s.xid,
      fun s c _ => flagPut (released s) s.cl ((ownFlag s (scal c 0)).getD 0) ((scal c 1).setWidth 32)⟩
  | .frd f => toG f.ring [.g f.f f.tf] f.d (fun s c => (ownFlag s (scal c 0)).isSome)
      (fun s c => (flag s ((ownFlag s (scal c 0)).getD 0)).setWidth 64) (fun s _ => s)
  | .finc f => some ⟨f.ring, [.g f.f f.tf, .g f.v f.tv], false,
      fun s c => (ownShoal (released s) s.xid).isEmpty && (match flagName s (scal c 0) with
        | .own _ => !unapplied (released s) s.xid
        | .far die _ _ => mayRelease (released s).x die
        | .bad => false),
      fun s c _ => match flagName s (scal c 0) with
        | .own e => flagPut (released s) s.cl e (flag (released s) e + (scal c 1).setWidth 32)
        | .far die cl e =>
          let u := sendPacket (released s) s.xid die true (causalVec (released s).x.pend die) (.flag (die * 12 + cl) e ((scal c 1).setWidth 32))
          { u with x := { u.x with fincs := u.x.fincs + 1 } }
        | .bad => s⟩
  | .fwait f => some ⟨f.ring, [.g f.f f.tf, .g f.v f.tv], false,
      fun s c => (!f.sus || still s.x) && s.x.ws.isNone && (ownFlag s (scal c 0)).any (fun e =>
        waitMet f.cond.toNat 32 (flag s e).toNat ((scal c 1).setWidth 32).toNat (flag s e).toNat true),
      fun s _ _ => acquire s s.xid 0⟩
  | _ => none

/-- A wait on memory whose first read meets its condition (R316, R317): the read acquires where the instruction says so, and the status
0 is written. -/
def waitTable : Instr → Option Effect
  | .waita f =>
      let n := if f.dbl then 8 else 4
      let got (s : State) (l : Loc) : List Byte × State := if f.acq then acquiring f.sc n s l else relaxed n s l
      some ⟨f.ring, [.g f.t f.tt, .g f.b f.tb, .g f.o f.te], false,
        fun s c => (!f.sus || still s.x) && s.x.ws.isNone && homeIs s needLoad (scal c 1).toNat n (fun l => readable s l n false && strongMay n s l &&
          roomG (got s l).2.x f.d &&
          waitMet f.cond.toNat (8 * n) (valueOf (got s l).1) ((scal c 0).toNat % 2 ^ (8 * n)) (valueOf (got s l).1) true),
        fun s c _ => match home s needLoad (scal c 1).toNat n with
          | some l => { (got s l).2 with x := wroteG (got s l).2.x f.d 0 }
          | none => s⟩
  | _ => none

/-- Plain loads one after another, of `n` bytes each: what they read and the state they leave; none where one of them does not go ahead. -/
def loads (n : Nat) : List Nat → State → Option (List (List Byte) × State)
  | [], s => some ([], s)
  | a :: rest, s =>
    match plainBytesAt s a n with
    | .ok bs s => (loads n rest s).map (fun r => (bs :: r.1, r.2))
    | _ => none

/-- Plain stores one after another. -/
def stores : List (Nat × List Byte) → State → Option State
  | [], s => some s
  | (a, bs) :: rest, s =>
    match plainStore s s.xid a bs.length bs with
    | .ok _ s => stores rest s
    | _ => none

/-- The addresses of the elements of LDM and STM (R187). -/
def elements (m : BitVec 4) (a : Word) : List Nat := (List.range (m.toNat + 1)).map (fun k => (a + BitVec.ofNat 64 (8 * k)).toNat)

/-- LDM and STM (R186, R187): each destination of LDM is empty until its element lands, and the last one to land sends the signals. -/
def blockTable : Instr → Option Effect
  | .ldm f => some ⟨f.ring, [.g f.b f.tb], true,
      fun s c => (List.range (f.m.toNat + 1)).all (fun k => f.t.toNat + k = 0 || !s.x.gEmpty.getLsbD (f.t.toNat + k)) && (loads 8 (elements f.m (scal c 0)) s).isSome,
      fun s c sigs => match loads 8 (elements f.m (scal c 0)) s with
        | some (vs, u) =>
          let ds := (List.range (f.m.toNat + 1)).zip (vs.map zeroExtended)
          let x := ds.foldr (fun d x => x.markG (f.t.toNat + d.1) true) u.x
          { u with x := { x with wbs := x.wbs ++ ds.map (fun d => ⟨[.g (f.t.toNat + d.1) d.2], flagNone, sigs, false, x.handler, 3, u.tick⟩) } }
        | none => s⟩
  | .stm f => some ⟨f.ring, [.run f.t (f.m.toNat + 1) f.tt, .g f.b f.tb], false,
      fun s c =>
        (stores ((elements f.m (scal c 1)).zip ((List.range (f.m.toNat + 1)).map (fun k => lowBytes 8 (s.x.gval (f.t.toNat + k))))) s).isSome,
      fun s c _ => (stores ((elements f.m (scal c 1)).zip ((List.range (f.m.toNat + 1)).map (fun k => lowBytes 8 (s.x.gval (f.t.toNat + k))))) s).getD s⟩
  | _ => none

/-! ### Vector memory -/

/-- Room for a push of the access side to vector queue `n`. -/
def roomAV (x : Context) (n : Nat) : Bool := !pendingQv x false n && decide ((vecGet x.vAE n []).length < 8)

/-- The context with an entry pushed to an access-to-execute vector queue. -/
def pushedAV (x : Context) (n : Nat) (v : Vec) : Context := { x with vAE := vecSet x.vAE n (vecGet x.vAE n [] ++ [v]) }

/-- The bytes of a vector, lowest first. -/
def lowBytesV (v : Vec) : List Byte := (List.range 256).map (fun k => v.extractLsb' (8 * k) 8)

/-- A vector loaded into a queue: `rd` reads its bytes. -/
def vload (r : Ring) (reads : List SrcF) (n : Nat) (rd : State → List (Option Src) → Option (List Byte × State)) : Option Effect :=
  some ⟨r, reads, false, fun s c => roomAV s.x n && (rd s c).isSome,
    fun s c _ => match rd s c with
      | some v => { v.2 with x := pushedAV v.2.x n (BitVec.ofNat 2048 (valueOf v.1)) }
      | none => s⟩

/-- Whether an address is global (R245). -/
def global (s : State) (a : Nat) : Bool := windowOf s.x a = 0

/-- The parts of 256 bytes at `a`: two where a page ends inside a global access; an access through a window is whole (R245). -/
def parts (s : State) (a : Nat) : List (Nat × Nat) :=
  let m := 16384 - a % 16384
  if global s a = true ∧ m < 256 then [(a, m), (a + m, 256 - m)] else [(a, 256)]

/-- Plain loads of parts with an alignment, one after another, of which `pos` bytes come before; `g` says that the access they belong to is
global. A part is read in its 8-byte parts, in one turn or, where the pace tears it, over several (R207, R270). -/
def partLoads (g : Bool) (al : Nat) (pos : Nat) : List (Nat × Nat) → State → Option (List Byte × State)
  | [], s => some ([], s)
  | (a, n) :: rest, s =>
    match wideLoadAt s s.xid a n pos (pieceHome s g needLoad a n al) with
    | .ok r s => (partLoads g al (pos + n) rest s).map (fun q => (r ++ q.1, q.2))
    | _ => none

/-- The lanes of an index vector that name an element (R206). -/
def indexed (idx : Vec) : List (Nat × Nat) := ((List.range 64).map (fun k => (k, lane 4 idx k))).filter (fun e => e.2 ≠ 0xFFFFFFFF)

/-- The lanes of `n` bytes that a gather fills; the others are zero (R206). -/
def laneBytes (n : Nat) (l : List (Nat × List Byte)) : List Byte :=
  (List.range 64).flatMap (fun k => match l.find? (fun e => e.1 = k) with
    | some e => e.2
    | none => List.replicate n 0)

/-- Plain stores that do not enter the shoal log and do not wait, one after another. -/
def storesAll (g : Bool) (l : List VStore) (s : State) : Option State :=
  match storeAll g l s with
  | .ok u _ => some u
  | _ => none

/-- The vector loads and stores (R204–R207). -/
def vectorMemoryTable : Instr → Option Effect
  | .vld f =>
    let addr (c : List (Option Src)) : Nat := (scal c 0 + 256 * f.off.setWidth 64).toNat
    vload f.ring [.g f.b f.tb] (f.q.toNat - 28) (fun s c =>
      if f.dc then (match loadDecoded s (addr c) with
        | .ok bs u => some (bs, u)
        | _ => none)
      else partLoads (global s (addr c)) 16 0 (parts s (addr c)) s)
  | .vldg f => vload f.ring [.v f.q false, .g f.b f.tb] (f.q.toNat - 28) (fun s c =>
      let l := indexed (vect c 0)
      (loads (2 ^ f.sz.toNat) (l.map (fun e => (scal c 1 + BitVec.ofNat 64 e.2).toNat)) s).map (fun r =>
        (laneBytes (2 ^ f.sz.toNat) ((l.map (·.1)).zip r.1), r.2)))
  | .vst f => some ⟨f.ring, [.v f.q false, .g f.b f.tb], false,
      fun s c =>
        let a := (scal c 1 + 256 * f.off.setWidth 64).toNat
        a % 16 = 0 && (storesAll (global s a) ((parts s a).map (fun p => (p.1, 1, ((lowBytesV (vect c 0)).drop (p.1 - a)).take p.2))) s).isSome,
      fun s c _ =>
        let a := (scal c 1 + 256 * f.off.setWidth 64).toNat
        (storesAll (global s a) ((parts s a).map (fun p => (p.1, 1, ((lowBytesV (vect c 0)).drop (p.1 - a)).take p.2))) s).getD s⟩
  | .vsts f => some ⟨f.ring, [.v f.q false, .v f.q false, .g f.b f.tb], false,
      fun s c => (storesAll false ((indexed (vect c 0)).map (fun e => ((scal c 2 + BitVec.ofNat 64 e.2).toNat, 2 ^ f.sz.toNat,
        ((lowBytesV (vect c 1)).drop (2 ^ f.sz.toNat * e.1)).take (2 ^ f.sz.toNat)))) s).isSome,
      fun s c _ => (storesAll false ((indexed (vect c 0)).map (fun e => ((scal c 2 + BitVec.ofNat 64 e.2).toNat, 2 ^ f.sz.toNat,
        ((lowBytesV (vect c 1)).drop (2 ^ f.sz.toNat * e.1)).take (2 ^ f.sz.toNat)))) s).getD s⟩
  | _ => none

/-! ### Tokens, tasks, handles and system registers -/

/-- The token of k register `k`. -/
def token (s : State) (k : BitVec 4) : Tok := vecGet s.x.k k.toNat 0

/-- The table entry that a token of the current job names: its slot's, unless the generation has moved on or the job is another (R395,
R399). -/
def entry (s : State) (t : Tok) : Option (Nat × TokEntry) :=
  match tabFind (t.toNat % 512) (getCluster s s.cl).toks with
  | some e => if tabGet 1 (t.toNat % 512) (getCluster s s.cl).gens = t.toNat / 512 ∧ e.bundle = s.x.cont.bundle then some (t.toNat % 512, e) else none
  | none => none

/-- A status word (R402): state in [2:0], priority in [4:3], detached in [5], cause in [15:6], steps done in [47:16]. -/
def status (e : Option (Nat × TokEntry)) : Word :=
  match e with
  | none => 7
  | some (_, t) =>
    let code : BitVec 3 := match t.state with
      | .queued => 0
      | .running => 1
      | .done => 2
      | .faulted => 3
      | .cancelled => 4
    let cause : BitVec 10 := match t.state with
      | .faulted => t.fr.cause
      | .cancelled => t.fr.cause
      | _ => 0
    0#16 ++ BitVec.ofNat 32 t.done ++ cause ++ BitVec.ofBool t.owner.isNone ++ t.pri ++ code

/-- The acquire that joins an operation which has ended (R295, R403). -/
def joined (s : State) (e : Option (Nat × TokEntry)) : State :=
  match e with
  | some (_, t) => if t.state.terminal then acquire s s.xid t.scope else s
  | none => s

/-- The current continuation may act on an entry: it owns it, or nothing does (R405, R407). -/
def acts (s : State) (t : TokEntry) : Bool := t.owner.isNone || t.owner = some s.x.cont.cid

/-- No matrix operation that the execute side has still to issue writes k register `k`. -/
def kFree (s : State) (k : BitVec 4) : Bool := !streamOwesK s.x k

/-- The token instructions (R402–R409); OPWAIT here ends at once. -/
def tokenTable : Instr → Option Effect
  | .optest f => toG f.ring [] f.d (fun s _ => kFree s f.k) (fun s _ => status (entry s (token s f.k)))
      (fun u _ => joined u (entry u (token u f.k)))
  | .opwait f => toG f.ring [] f.d (fun s _ => (!f.sus || still s.x) && kFree s f.k && (entry s (token s f.k)).all (fun e => e.2.state.terminal))
        (fun s _ => status (entry s (token s f.k)))
        (fun u _ => let v := joined u (entry u (token u f.k)); { v with x := { v.x with cont := { v.x.cont with wtok := none } } })
  | .opcancel f => toG f.ring [] f.d (fun s _ => kFree s f.k) (fun s _ => status (entry s (token s f.k)))
      (fun u _ => match entry u (token u f.k) with
        | some (slot, _) => stopOp u u.cl slot 0x310 0
        | none => u)
  | .opdetach f => toG f.ring [] f.d (fun s _ => kFree s f.k && (entry s (token s f.k)).any (fun e => acts s e.2))
      (fun s _ => (token s f.k).setWidth 64)
      (fun u _ => match entry u (token u f.k) with
        | some (slot, _) => modTok u u.cl slot (fun t => { t with owner := none })
        | none => u)
  | .opadopt f => some ⟨f.ring, [.g f.a f.ta], false,
      fun s c => kFree s f.k && (entry s ((scal c 0).setWidth 16)).any (fun e => acts s e.2),
      fun s c _ =>
        let t := (scal c 0).setWidth 16
        let u := modTok s s.cl (t.toNat % 512) (fun e => if e.owner.isNone then { e with owner := some s.x.cont.cid, released := false } else e)
        { u with x := { u.x with k := vecSet u.x.k f.k.toNat t } }⟩
  | .oppri f => some ⟨f.ring, [], false,
      fun s _ => kFree s f.k && (entry s (token s f.k)).all (fun e => e.2.state.terminal || acts s e.2),
      fun s _ _ => match entry s (token s f.k) with
        | some (slot, t) => if t.state.terminal then s else modTok s s.cl slot (fun t => { t with pri := f.pri })
        | none => s⟩
  | .oprel f => some ⟨f.ring, [], false,
      fun s _ => kFree s f.k && (entry s (token s f.k)).all (fun e => acts s e.2),
      fun s _ _ => match entry s (token s f.k) with
        | some (slot, _) => releaseTok s s.cl slot
        | none => s⟩
  | .opfault f => some ⟨f.ring, [], false,
      fun s _ => kFree s f.k && [0, 1, 2].all (fun j => s.x.gfull (f.d.toNat + j)),
      fun s _ _ =>
        let w : Word × Word × Word := match entry s (token s f.k) with
          | some (_, t) => (t.fr.loc, BitVec.ofNat 64 (t.fr.detail.toNat * 2 ^ 42 + t.fr.cause.toNat * 2 ^ 32 + t.fr.step.toNat),
              BitVec.ofNat 64 (t.done % 2 ^ 32 * 2 ^ 32 + (if t.total = 0 then opSteps t else t.total) % 2 ^ 32))
          | none => (0, 0, 0)
        { s with x := ((s.x.setG f.d.toNat w.1).setG (f.d.toNat + 1) w.2.1).setG (f.d.toNat + 2) w.2.2 }⟩
  | _ => none

/-- The earlier accesses of the context are performed at device scope (R271, R413). -/
def releasedDevice (s : State) : Bool := accessesDone (drainStores s s.xid) 1

/-- The current continuation synchronises alone (R419). -/
def alone (s : State) : Bool := s.x.cont.grp = 0 || s.x.cont.spawned

/-- The current continuation has arrived at its next barrier. -/
def atBar (s : State) : State := { s with x := { s.x with cont := { s.x.cont with bars := s.x.cont.bars + 1 } } }

/-- Every live member of the current group has arrived at the barrier at which the current continuation stands (R419). -/
def arrived (s : State) : Bool := (liveConts s).all (fun k => k.grp ≠ s.x.cont.grp || s.x.cont.bars ≤ k.bars)

/-- The task instructions that go on in their context, and BAR of a continuation alone (R410, R413–R419). -/
def taskTable : Instr → Option Effect
  | .widf f => toG f.ring [] f.d (fun _ _ => true) (fun s _ =>
      let k := s.x.cont
      if f.n = 6 then k.wid
      else if f.n = 7 then BitVec.ofNat 64 (k.wid.toNat % gsizeOf s k.bundle k.node)
      else
        let w := ((nodeOf s k.bundle k.node).map Node.widths).getD []
        BitVec.ofNat 64 ((k.wid.toNat >>> (w.take f.n.toNat).sum) % 2 ^ w.getD f.n.toNat 0)) (fun s _ => s)
  | .nextok f => some ⟨f.ring, [], false, fun _ _ => true,
      fun s _ _ => modBundle s s.x.cont.bundle (fun v => { v with nextok := true })⟩
  | .prevwait f => some ⟨f.ring, [], false, fun s _ => !predResident s s.x.cont.bundle, fun s _ _ => acquire s s.xid 1⟩
  | .depdec f => some ⟨f.ring, [], false,
      fun s _ => releasedDevice s && decide (f.mask.toNat < 2 ^ nodeCount (drainStores s s.xid) (drainStores s s.xid).x.cont.bundle),
      fun s _ _ => decMask (drainStores s s.xid) (drainStores s s.xid).x.cont.bundle f.mask⟩
  | .krange f => some ⟨f.ring, [.g f.a f.ta, .g f.b f.tb], false,
      fun s _ => releasedDevice s && roomG (drainStores s s.xid).x f.d,
      fun s c _ =>
        let u := drainStores s s.xid
        let lo := (scal c 0).toNat
        let hi := (scal c 1).toNat
        let bad := hi < lo || (lo ≠ hi && lo % gsizeOf s s.x.cont.bundle s.x.cont.node ≠ 0)
        let v := { u with x := wroteG u.x f.d (if bad then 2 else 0) }
        if bad || lo = hi then v
        else addPiece v s.x.cont.bundle s.x.cont.node lo hi ((branchTarget v f.off).setWidth 48) v.cl⟩
  | .kspawn f => some ⟨f.ring, [.g f.w f.tw], false,
      fun s _ => [1, 2, 3].all s.x.gfull && releasedDevice s && roomG (drainStores s s.xid).x f.d,
      fun s c _ =>
        let u := drainStores s s.xid
        if storeFull u u.x.cont.bundle then { u with x := wroteG u.x f.d 1 }
        else
          let v := { u with x := wroteG u.x f.d 0 }
          placeReady (takeId v).2 v.cl (spawnCont u f v.nextId (scal c 0))⟩
  | .knext f => some ⟨f.ring, [], false, fun s _ => roomG s.x f.d, fun s _ _ =>
      let u := { s with x := wroteG s.x f.d 0 }
      if u.x.cont.range then nextStep f.d u else u⟩
  | .bar f => some ⟨f.ring, [], false,
      fun s _ => accessesDone (drainStores s s.xid) 0 && (alone s || (s.x.cont.bars ≤ s.x.cont.barsOut && arrived (atBar (drainStores s s.xid)))),
      fun s _ _ =>
        let u := drainStores s s.xid
        if alone s then acquire u s.xid 0
        else
          let v := atBar u
          acquire { v with x := { v.x with cont := { v.x.cont with barsOut := v.x.cont.bars } } } s.xid 0⟩
  | _ => none

/-- No matrix operation that the execute side has still to issue reads an h register. -/
def hFree (s : State) : Bool := !streamOwesH s.x

/-- The context with an h register written. -/
def wroteH (s : State) (r : BitVec 5) (h : HReg) : State := { s with x := { s.x with h := vecSet s.x.h r.toNat h } }

/-- A plain load of 32 bytes, in its 8-byte parts (R270, R431). -/
def load32 (s : State) (a : Word) : Option (List Byte × State) :=
  match wideLoadAt s s.xid a.toNat 32 0 (resolve s s.xid needLoad a.toNat 32 32) with
  | .ok r u => some (r, u)
  | _ => none

/-- The field of a handle that HINFO gives (R433). -/
def infoOf (h : HReg) (n : Nat) : Word :=
  match n with
  | 0 => h.bits.extractLsb' 0 64
  | 1 => (h.bits.extractLsb' 64 48).setWidth 64
  | 2 => ((h.bits.extractLsb' 120 8) ++ (h.bits.extractLsb' 112 8)).setWidth 64
  | 3 => ((h.bits.extractLsb' 144 8) ++ (h.bits.extractLsb' 128 16)).setWidth 64
  | 4 => ((h.bits.extractLsb' 172 20) ++ (h.bits.extractLsb' 152 20)).setWidth 64
  | _ => h.status.setWidth 64

/-- The h register `r`. -/
def handle (s : State) (r : BitVec 5) : HReg := vecGet s.x.h r.toNat {}

/-- The handle instructions (R428–R433). -/
def handleTable : Instr → Option Effect
  | .hld f => some ⟨f.ring, [.g f.b f.tb], false, fun s c => (f.y || hFree s) && (load32 s (scal c 0)).isSome,
      fun s c _ => match load32 s (scal c 0) with
        | some (bs, u) =>
          let b := BitVec.ofNat 256 (valueOf bs)
          if f.y then { u with x := { u.x with y := vecSet u.x.y f.reg.toNat b } } else wroteH u f.reg (loadHandle u u.x.space b)
        | none => s⟩
  | .hst f => some ⟨f.ring, [.g f.b f.tb], false,
      fun s c => (f.y || ((handle s f.reg).status = 0 && (handle s f.reg).bits.getLsbD 119)) &&
        homeIs s needStore (scal c 0).toNat 32 (fun l => writable s l 32),
      fun s c _ => match home s needStore (scal c 0).toNat 32 with
        | some l =>
          let b := if f.y then vecGet s.x.y f.reg.toNat 0 else (handle s f.reg).bits
          let ps : List PStore := (List.range 4).map (fun j =>
            ⟨l.plus (8 * j), (List.range 8).map (fun k => b.extractLsb' (64 * j + 8 * k) 8), scal c 0 + BitVec.ofNat 64 (8 * j), false⟩)
          { s with x := { s.x with stores := s.x.stores ++ ps
                                   early := s.x.early.filter (fun e => !ps.any (fun p => overlaps p.loc p.bytes.length e.1 e.2.length)) } }
        | none => s⟩
  | .hnarrow f => some ⟨f.ring, [.g f.go f.te, .g f.gl f.tl], false,
      fun s c => hFree s && narrowCheck s (handle s f.hs) (scal c 0).toNat (scal c 1).toNat = 0,
      fun s c _ => wroteH s f.hd ⟨narrowed s (handle s f.hs).bits (scal c 0).toNat (scal c 1).toNat f.mask, 0⟩⟩
  | .hinfo f => toG f.ring [] f.d (fun _ _ => true) (fun s _ => infoOf (handle s f.h) f.n.toNat) (fun s _ => s)
  | .hchk f => toG f.ring [.g f.a false] f.d (fun _ _ => true)
      (fun s c => (handleCheck s s.x.space (handle s f.h) ((scal c 0).extractLsb' 0 8)).setWidth 64) (fun s _ => s)
  | .hdrop f => some ⟨f.ring, [], false, fun s _ => hFree s, fun s _ _ => wroteH s f.h ⟨0, 0x200⟩⟩
  | .hreq f => some ⟨f.ring, [.g f.a false], false,
      fun s c => hFree s && mayOwe s.x f.d && (load32 s (scal c 0)).any (fun r => roomG r.2.x f.d),
      fun s c _ => match load32 s (scal c 0) with
        | some (bs, u) =>
          let st := reqStatus u bs
          wroteH { u with x := wroteG u.x f.d (BitVec.ofNat 64 st) } f.h
            (if st = 0 then ⟨mintBits u u.x.space (reqOf bs), 0⟩ else ⟨0, 0x200⟩)
        | none => s⟩
  | _ => none

/-- The numbers of the CSR table (R102). -/
def csrKnown (n : Nat) : Bool := n ≤ 0x00A || (0x010 ≤ n && n ≤ 0x015) || n = 0x020 || n = 0x021 || n = 0x030

/-- The read-only ones: POOLPW, CTXID, WIDHDR, NODEID, TENANT and RINGCNT (R102, R464). -/
def csrFixed (n : Nat) : Bool := [0x003, 0x007, 0x008, 0x009, 0x00A, 0x014].contains n

/-- The trap that an access of CSR `n` raises: a number outside the table, a write of a read-only CSR, or a write of TVEC outside handler
mode while it is not zero (R102, R456, R464). -/
def csrTrap (x : Context) (n : BitVec 12) (write : Bool) : Option Cause :=
  if !csrKnown n.toNat then some 0x011
  else if write && csrFixed n.toNat then some 0x010
  else if write && n = 0x013 && !x.handler && x.tvec ≠ 0 then some 0x012
  else none

/-- An access of CSR `n` is carried out now: it raises no trap, and no M instruction before it is open where VTYPE, FSTAT or SEED is
accessed (R143). -/
def csrOpen (s : State) (n : BitVec 12) (write : Bool) : Bool :=
  (csrTrap s.x n write).isNone && !(n.toNat ≤ 0x002 && !((streamEntries s.x.stream).isEmpty && !s.x.wbs.any Writeback.exec))

/-- Entries of the token table that the current continuation owns (R398). -/
def ownedToks (s : State) : Nat := ((getCluster s s.cl).toks.filter (fun e => e.2.owner = some s.x.cont.cid)).length

/-- The value of CSR `n` (R66, R121, R131, R142, R181, R190, R244, R248, R398, R450, R456, R464). -/
def csrRead (s : State) (n : BitVec 12) : Word :=
  match n.toNat with
  | 0x000 => s.x.vtype
  | 0x001 => s.x.fstat
  | 0x002 => s.x.seed
  | 0x003 => s.x.poolpw
  | 0x004 => s.x.localw
  | 0x005 => s.x.clustw
  | 0x006 => s.x.sharedw
  | 0x007 => BitVec.ofNat 64 (64 * ctxCluster s.xid + 16 * ctxLocalCore s.xid + ctxIndex s.xid)
  | 0x008 => s.x.widhdr
  | 0x009 => s.x.nodeid
  | 0x00A => s.x.tenant
  | 0x010 => s.x.cause
  | 0x011 => s.x.epc
  | 0x012 => s.x.tfp
  | 0x013 => s.x.tvec
  | 0x014 => BitVec.ofNat 64 (leNat s.x.ring.toList)
  | 0x015 => BitVec.ofNat 64 s.x.loops.length
  | 0x020 => if s.x.pmstat then 1 else 0
  | 0x021 => BitVec.ofNat 64 (65536 * ownedToks s + (getCluster s s.cl).freeToks)
  | 0x030 => s.x.pkbase
  | _ => 0

/-- The base of an aperture written, its size kept (R244). -/
def rebased (old v : Word) : Word := v.extractLsb' 24 40 ++ old.extractLsb' 0 24

/-- The context after a write of `v` to CSR `n` (R121, R131, R142, R181, R190, R244, R398, R456, R464): reserved bits are dropped, TOKFREE takes
no write, a write of SEED reloads the lanes, and a write of LOOPD pops the innermost levels. -/
def csrWrote (x : Context) (n : BitVec 12) (v : Word) : Context :=
  match n.toNat with
  | 0x000 => { x with vtype := v &&& 0xFF }
  | 0x001 => { x with fstat := v &&& 0x3F }
  | 0x002 => { x with seed := v &&& 0xFFFFFFFF, lanes := [] }
  | 0x004 => { x with localw := rebased x.localw v }
  | 0x005 => { x with clustw := rebased x.clustw v }
  | 0x006 => { x with sharedw := rebased x.sharedw v }
  | 0x010 => { x with cause := v &&& 0xFFFFFFFF800003FF }
  | 0x011 => { x with epc := v &&& 0xFFFFFFFFFFFF }
  | 0x012 => { x with tfp := v &&& 0xFFFFFFFFFFFFF000 }
  | 0x013 => { x with tvec := v &&& 0xFFFFFFFFFFFF }
  | 0x015 => { x with loops := x.loops.drop (x.loops.length - v.toNat % 8) }
  | 0x020 => { x with pmstat := v.getLsbD 0 }
  | 0x030 => { x with pkbase := v &&& 0xFFFFFFFFFFFFF800 }
  | _ => x

/-- The CSR that a CSR instruction names, and whether it writes it. -/
def csrNamed : Instr → Option (Ring × List SrcF × BitVec 12 × Bool)
  | .csrr f => some (f.ring, [], f.csr, false)
  | .csrw f => some (f.ring, [.g f.a false], f.csr, true)
  | .csrx f => some (f.ring, [.g f.a f.ta], f.csr, true)
  | _ => none

/-- The system instructions (R463–R465). -/
def systemTable : Instr → Option Effect
  | .csrr f => toG f.ring [] f.d (fun s _ => csrOpen s f.csr false) (fun s _ => csrRead s f.csr) (fun s _ => s)
  | .csrw f => some ⟨f.ring, [.g f.a false], false, fun s _ => csrOpen s f.csr true,
      fun s c _ => { s with x := csrWrote s.x f.csr (scal c 0) }⟩
  | .csrx f => some ⟨f.ring, [.g f.a f.ta], false, fun s _ => csrOpen s f.csr true && roomG s.x f.d,
      fun s c _ =>
        let old := csrRead s f.csr
        { s with x := csrWrote (wroteG s.x f.d old) f.csr (match f.op.toNat with
          | 0 => scal c 0
          | 1 => old ||| scal c 0
          | _ => old &&& ~~~scal c 0) }⟩
  | .pmcrd f => some ⟨f.ring, [.g f.a f.ta], false, fun s _ => roomG s.x f.d, fun s c _ =>
      if (scal c 0).toNat < 0x380 && (s.x.fn = 0 || (getFn s s.x.fn).allow.getLsbD (scal c 0).toNat) then
        let u := (takeFresh s).2
        let key := spacePart s.x.space * 1024 + (scal c 0).toNat
        let v := tabGet 0 key s.hub.perf + Config.freeWord (takeFresh s).1
        { u with hub := { u.hub with perf := tabPut key v u.hub.perf }, x := wroteG s.x f.d v }
      else { s with x := { wroteG s.x f.d 0 with pmstat := true } }⟩
  | .timerd f => toG f.ring [] f.d (fun _ _ => true)
      (fun s _ => podTick s + (if s.x.fn = 0 then 0 else (getFn s s.x.fn).offset)) (fun s _ => s)
  | _ => none

/-! ### Transfers of control, traps and departures -/

/-- What a rule gives for a branch or jump: its ring nibble and sources, whether it is taken, its target from the address of word 0, and the
link it writes. -/
structure Branch where
  ring   : Ring
  reads  : List (BitVec 6 × Bool)
  taken  : List Word → Bool
  target : Word → List Word → Word
  link   : Option (BitVec 6 × Word)

/-- A branch of the BR family: P + 4 × SignExtend(off14) (R173). -/
def brc (f : BrC) (c : Word → Bool) : Option Branch :=
  some ⟨f.ring, [(f.a, f.ta)], fun w => c (arg w 0), fun p _ => p + 4 * f.off.signExtend 64, none⟩

/-- Branches and jumps at address `p` (R173, R174). -/
def branchTable (p : Word) : Instr → Option Branch
  | .br f => some ⟨f.ring, [], fun _ => true, fun p _ => p + 4 * f.off.signExtend 64, none⟩
  | .bz f => brc f (fun a => a = 0)
  | .bnz f => brc f (fun a => a ≠ 0)
  | .bltz f => brc f (fun a => a.toInt < 0)
  | .bgez f => brc f (fun a => 0 ≤ a.toInt)
  | .jl f => some ⟨f.ring, [(f.a, f.ta)], fun _ => true, fun _ w => arg w 0, some (f.d, p + 4)⟩
  | .brl f => some ⟨f.ring, [], fun _ => true, fun p _ => p + 4 * f.imm.signExtend 64, some (f.d, p + 8)⟩
  | _ => none

/-- The address of word 0 of the next instruction. -/
def at0 (s : State) : Word := s.x.pc.setWidth 64

/-- The context with a link written. -/
def linked (x : Context) : Option (BitVec 6 × Word) → Context
  | none => x
  | some l => wroteG x l.1 l.2

/-- LOOP and LOOPI: the ring nibble, the sources, the count from them and the end offset (R177). -/
def loopTable : Instr → Option (Ring × List (BitVec 6 × Bool) × (List Word → Word) × BitVec 11)
  | .loop f => some (f.ring, [(f.a, f.ta)], fun w => arg w 0, f.endo)
  | .loopi f => some (f.ring, [], fun _ => f.count.setWidth 64, f.endo)
  | _ => none

/-- `t` has issued a loop instruction in `u` and goes on at `to` with the loop stack `ls` (R178). -/
def Looped (u : State) (sigs : List Nat) (te : Word) (ls : List LoopLevel) (t : State) : Prop :=
  t = stepHalt { u with x := t.x } ∧ t.x = (sendSignals u.x sigs).upon t.x ∧ t.x.cur = none ∧ fetchesAt t.x te ∧ t.x.loops = ls

/-- TRAP and SVC: the ring nibble, the cause and its detail (R182, R183). -/
def trapTable : Instr → Option (Ring × Cause × BitVec 32)
  | .trap f => some (f.ring, f.code, 0)
  | .svc f => some (f.ring, 0x00F, f.svc.setWidth 32)
  | _ => none

/-- `t` is a context state at the entry of a trap with cause word `c` that has saved `epc` (R457 step 5). -/
def InHandler (x : Context) (c epc : Word) (t : Context) : Prop :=
  t.handler = true ∧ t.cause = c ∧ t.epc = epc ∧ t.pc = x.tvec.setWidth 48 ∧ t.tvec = x.tvec ∧ t.tfp = x.tfp ∧
    t.loops = [] ∧ t.stream = [] ∧ t.replay = [] ∧ t.cur = none ∧ t.gEmpty = 0 ∧ t.vEmpty = 0 ∧
    t.ring = Vector.replicate 8 0 ∧ t.sAE = Vector.replicate 4 [] ∧ t.sEA = Vector.replicate 4 [] ∧
    t.vAE = Vector.replicate 4 [] ∧ t.vEA = Vector.replicate 4 []

/-! ### Operations of the engines -/

/-- What a rule gives for an instruction that issues an operation: its ring nibble, k register, priority and detach bit, its engine
(0 load copy, 1 store copy, 2 matrix), its sources, and the handle and layout registers it captures. -/
structure Operation where
  ring  : Ring
  k     : BitVec 4
  pri   : BitVec 2
  dt    : Bool
  eng   : Context → Nat
  reads : List SrcF
  hs    : List (BitVec 5)
  ys    : List (BitVec 3)

/-- The engine that a copy's destination handle selects: the load engine for a pool region, else the store engine (R329). -/
def copyEngine (hd : BitVec 5) (x : Context) : Nat := if hKind (vecGet x.h hd.toNat {}).bits = 1 then 0 else 1

/-- The copy and channel operations (R329, R337–R345). -/
def copyTable : Instr → Option Operation
  | .cpy f => some ⟨f.ring, f.k, f.pri, f.dt, copyEngine f.hd, [.g f.gd f.td, .g f.gs f.ts, .g f.gn f.tn], [f.hd, f.hs], [f.yd, f.ys]⟩
  | .cpyr f => some ⟨f.c.ring, f.c.k, f.c.pri, f.c.dt, copyEngine f.c.hd, [.g f.c.gd f.c.td, .g f.c.gs f.c.ts, .g f.c.gn f.c.tn],
      [f.c.hd, f.c.hs], [f.c.yd, f.c.ys]⟩
  | .cpyg f => some ⟨f.c.ring, f.c.k, f.c.pri, f.c.dt, fun _ => 0,
      [.g f.c.gd f.c.td, .g f.c.gs f.c.ts, .g f.c.gn f.c.tn, .g f.gi f.ti, .g f.gc f.tc], [f.c.hd, f.c.hs, f.hi], [f.c.yd, f.c.ys]⟩
  | .cpys f => some ⟨f.c.ring, f.c.k, f.c.pri, f.c.dt, fun _ => 1,
      [.g f.c.gd f.c.td, .g f.c.gs f.c.ts, .g f.c.gn f.c.tn, .g f.gi f.ti, .g f.gc f.tc], [f.c.hd, f.c.hs, f.hi], [f.c.yd, f.c.ys]⟩
  | .cfill f => some ⟨f.ring, f.k, f.pri, f.dt, copyEngine f.hd, [.g f.gv f.tv, .g f.gd f.td, .g f.gn f.tn], [f.hd], [f.yd]⟩
  | .chbind f => some ⟨f.ring, f.k, f.pri, f.dt, fun _ => f.se.toNat, [.g f.go f.te, .g f.gl f.tl], [f.h], []⟩
  | .chrd f => some ⟨f.ring, f.k, f.pri, f.dt, fun _ => f.se.toNat, [.g f.gp f.tp], [], []⟩
  | .chunb f => some ⟨f.ring, f.k, f.pri, f.dt, fun _ => f.se.toNat, [], [], []⟩
  | .pkset f => some ⟨f.ring, f.k, f.pri, f.dt, fun _ => 0, [], [], []⟩
  | _ => none

/-- A collective operation (R351). -/
def coll (f : CollF) : Option Operation :=
  some ⟨f.ring, f.k, f.pri, f.dt, fun _ => 1, [.g f.gd f.td, .g f.gs f.ts, .g f.gn f.tn, .g f.groot f.troot], [f.hd, f.hs], [f.yd, f.ys]⟩

/-- The operations on other clusters, modules and hosts (R347–R358). -/
def fabricTable : Instr → Option Operation
  | .xst f => some ⟨f.ring, f.k, f.pri, f.dt, fun _ => 1, [.g f.gd f.td, .g f.gs f.ts, .g f.gf f.tf, .g f.gn f.tn], [f.hd, f.hs], [f.yd, f.ys]⟩
  | .xld f => some ⟨f.ring, f.k, f.pri, f.dt, fun _ => 0, [.g f.gd f.td, .g f.gs f.ts, .g f.gn f.tn], [f.hd, f.hs], [f.yd, f.ys]⟩
  | .xamo f => some ⟨f.ring, f.k, f.pri, f.dt, fun _ => 1, [.g f.go f.te, .g f.gv f.tv, .g f.gc f.tc, .g f.gp f.tp], [f.h], []⟩
  | .car f => coll f
  | .cag f => coll f
  | .crs f => coll f
  | .ca2a f => coll f
  | .cbc f => coll f
  | .cbar f => some ⟨f.ring, f.k, f.pri, f.dt, fun _ => 1, [.g f.gn f.tn], [], []⟩
  | .nsend f => some ⟨f.ring, f.k, f.pri, f.dt, fun _ => 1, [.g f.gp f.tp, .g f.gs f.ts, .g f.gt f.tt, .g f.gn f.tn], [f.he, f.hs], [f.ys]⟩
  | .nrecv f => some ⟨f.ring, f.k, f.pri, f.dt, fun _ => 0, [.g f.gp f.tp, .g f.gd f.td, .g f.gt f.tt, .g f.gn f.tn, .g f.gm f.tm],
      [f.he, f.hd], [f.yd]⟩
  | .nwrite f => some ⟨f.ring, f.k, f.pri, f.dt, fun _ => 1, [.g f.gp f.tp, .g f.gl f.tl, .g f.gr f.tr, .g f.gn f.tn], [f.he, f.hl], [f.yl]⟩
  | .nread f => some ⟨f.ring, f.k, f.pri, f.dt, fun _ => 0, [.g f.gp f.tp, .g f.gl f.tl, .g f.gr f.tr, .g f.gn f.tn], [f.he, f.hl], [f.yl]⟩
  | _ => none

/-- A matrix multiplication (R232). -/
def mm (f : MmaF) : Option Operation :=
  some ⟨f.ring, f.k, f.pri, f.dt, fun _ => 2, [.g f.ga f.ta, .g f.gb f.tb, .g f.gs f.ts, .g f.gsa f.tsa, .g f.gsb f.tsb], [f.ha, f.hb], []⟩

/-- A tile move (R238). -/
def tile (f : MTileF) : Option Operation :=
  some ⟨f.ring, f.k, f.pri, f.dt, fun _ => 2, [.g f.gt f.tt, .g f.gs f.ts], [f.h], []⟩

/-- The operations of the matrix sequencer (R225, R226, R232, R237, R238). -/
def matrixTable : Instr → Option Operation
  | .mlease f => if f.sus then none else some ⟨f.ring, f.k, f.pri, false, fun _ => 2, [.g f.b f.tb], [], []⟩
  | .mrel f => some ⟨f.ring, f.k, f.pri, false, fun _ => 2, [], [], []⟩
  | .mma f => mm f
  | .mmaq f => mm f
  | .mmv f => mm f
  | .mzero f => some ⟨f.ring, f.k, f.pri, f.dt, fun _ => 2, [], [], []⟩
  | .mdrain f => tile f
  | .mldacc f => tile f
  | _ => none

/-- The slot of the token table that the next operation takes: one never used, in ascending order, else the one free for longest (R395). -/
def nextFree (c : Cluster) : Option Nat := if c.fresh < 512 then some c.fresh else c.freed.head?

/-- The queue of the current context's control core into an engine (R386). -/
def queueOf (s : State) (eng : Nat) : List Nat := tabGet [] (4 * eng + ctxLocalCore s.xid) (getCluster s s.cl).queues

/-- `t` has issued operation `i` from `u`, whose sources were captured as `ws`: its token is in k register `k`, its entry is QUEUED at the end
of its engine's queue with what issue captures, the issuer's pending set among it, owned by the continuation or, detached, by its job (R83,
R288, R386, R395–R397). -/
def Issued (i : Instr) (o : Operation) (ws : List Word) (u t : State) : Prop :=
  ∃ slot e, nextFree (getCluster u u.cl) = some slot ∧
    vecGet t.x.k o.k.toNat 0 = BitVec.ofNat 16 (tabGet 1 slot (getCluster u u.cl).gens * 512 + slot) ∧
    tabFind slot (getCluster t u.cl).toks = some e ∧
    tabFind (4 * o.eng u.x + ctxLocalCore u.xid) (getCluster t u.cl).queues = some (queueOf u (o.eng u.x) ++ [slot]) ∧
    e.state = .queued ∧ e.pri = o.pri ∧ e.bundle = u.x.cont.bundle ∧ e.owner = (if o.dt then none else some u.x.cont.cid) ∧
    e.released = false ∧ e.done = 0 ∧ e.op.instr = i ∧ e.op.member = o.eng u.x ∧ e.op.cid = u.x.cont.cid ∧ e.op.gs = ws ∧
    e.op.hs = o.hs.map (fun r => vecGet u.x.h r.toNat {}) ∧ e.op.ys = o.ys.map (fun r => vecGet u.x.y r.toNat 0) ∧
    e.op.ring = actRing u.x o.ring ∧ e.op.seed = u.x.seed ∧ e.op.pkbase = u.x.pkbase ∧ e.op.pend = u.x.pend

/-- Room for an operation: in the engine's queue and in the token table (R386, R398). -/
def roomOp (s : State) (eng : Nat) : Bool := decide ((queueOf s eng).length < 32) && (nextFree (getCluster s s.cl)).isSome

/-- What issue of an operation leaves unchanged (R83): memories, every other register and flag of the context, and every other entry
of the token table. -/
def Kept (o : Operation) (u t : State) : Prop :=
  t.mem = u.mem ∧ t.x = { u.x with k := t.x.k, pc := t.x.pc, xfer := t.x.xfer, loops := t.x.loops, stream := t.x.stream, cur := t.x.cur, ws := t.x.ws,
                                   blockA := t.x.blockA, blockE := t.x.blockE, since := t.x.since, readyA := t.x.readyA,
                                   readyE := t.x.readyE, promA := t.x.promA, promE := t.x.promE, tokA := t.x.tokA, tokE := t.x.tokE,
                                   got := t.x.got } ∧
    (∀ r : BitVec 4, r ≠ o.k → vecGet t.x.k r.toNat 0 = vecGet u.x.k r.toNat 0) ∧
    (∀ c, (getCluster t c).pool = (getCluster u c).pool ∧ (getCluster t c).tiles = (getCluster u c).tiles) ∧
    ∀ slot, nextFree (getCluster u u.cl) ≠ some slot → tabFind slot (getCluster t u.cl).toks = tabFind slot (getCluster u u.cl).toks

/-- The operations of a table, issued from the access side, complete. -/
def issuesAccess (table : Instr → Option Operation) : Prop :=
  ∀ (i : Instr) (o : Operation) (s : State) (caps : List (Option Src)) (x : Context),
    table i = some o → issueCaptures s (engMember (o.eng s.x)) o.ring o.reads = some (caps, x) →
    streamOwesK x o.k = false → roomOp { s with x := x } (o.eng x) = true →
    ∃ t, exec i s = .next t ∧ Issued i o (capWords caps) { s with x := x } t ∧ Kept o { s with x := x } t ∧ fetchNext i x t.x

/-- An instruction of the matrix sequencer that the execute side issues at once: its source values and the context after its pops. -/
def executeOp (s : State) (fs : List SrcF) : Option (List Src × Context) :=
  if s.idle && forwarded s.x fs then readEs s.x fs else none

/-- The same at its turn at the head of the stream, with `caps` captured of it before; the ring waits of an operation are taken when it starts
(R64, R83). -/
def mOpReads (head : Bool) (caps : List (Option Src)) (i : Instr) (s : State) (fs : List SrcF) (vs : List Src) (x : Context) : Prop :=
  if head then s.atHead i caps ∧ capture true false fs caps s.x = (vs.map some, x, .ok) else executeOp s fs = some (vs, x)

/-- The execute side has passed the head of its stream: the place of fetch and what the access side has in progress stay. -/
def Passed (x y : Context) : Prop :=
  y.stream = x.stream.tail ∧ y.cur = x.cur ∧ y.pc = x.pc ∧ y.xfer = x.xfer ∧ y.loops = x.loops ∧ y.ws = x.ws ∧ y.got = x.got

/-- The operations of a table, issued from the execute side, complete: where the execute side has caught up when the access side passes them,
and else at the head of the stream that they join. -/
def issuesExecute (table : Instr → Option Operation) : Prop :=
  ∀ (i : Instr) (o : Operation), table i = some o → joins i o.reads ∧
    ∀ (head : Bool) (caps : List (Option Src)) (s : State) (vs : List Src) (x : Context),
      mOpReads head caps i s o.reads vs x → roomOp { s with x := x } (o.eng x) = true →
      ∃ t, exec i s = .next t ∧ Issued i o (capWords (vs.map some)) { s with x := x } t ∧ Kept o { s with x := x } t ∧
        if head then Passed x t.x else fetchNext i x t.x true


/-! ### Steps of other agents -/

/-- What a rule gives for a step of another agent: when it may be taken, and what it leaves. -/
structure Move where
  may  : State → Prop
  does : State → State → Prop

/-- The steps of a table are taken, and leave what their rules give. -/
def moves (table : Instr → Option Move) : Prop :=
  ∀ (i : Instr) (m : Move) (s : State), table i = some m → m.may s → ∃ t, exec i s = .next t ∧ m.does s t

/-- No L1 data cache holds a line of one of some frames (R263). -/
def uncached (t : State) (frames : List (Nat × Nat)) : Prop :=
  ∀ k fr, fr ∈ frames → ∀ e ∈ (getCore t k).l1, ¬ (fr.1 ≤ 64 * e.1 ∧ 64 * e.1 < fr.1 + fr.2)

/-- The frames that the page of a held record has. -/
def framesOf (s : State) (f : Fault1) : List (Nat × Nat) := (pageFrame s f.space f.va.toNat).toList

/-- A held record that the memory processor may serve and whose handler a skerry runs, under ticket `n` (R256, R390). -/
def inService (s : State) (f : Fault1) (n : Nat) : Prop := mayServe f = true ∧ f.seq = some n ∧ handled s 1 n = true

/-- The write-through that context `c` holds at place `n`. -/
def through (s : State) (c n : Nat) : Option PStore := (getCtx s c).stores[n]?

/-- The bytes of a log entry that one step of its drain performs: a part of at most 8 (R260, R270). -/
def part (e : Shoal) : Nat := min 8 e.bytes.length

/-- What is left of an entry when its next part has been performed. -/
def later (e : Shoal) : Shoal :=
  { e with va := e.va + BitVec.ofNat 64 (part e), bytes := e.bytes.drop (part e), loc := e.loc.map (fun l => l.add (part e)) }

/-- A log without the next part of its entry `e`. -/
def withoutPart (e : Shoal) : List Shoal → List Shoal
  | [] => []
  | d :: l => if d = e then (if e.bytes.length ≤ 8 then l else later e :: l) else d :: withoutPart e l

/-- The state in which the retired write-throughs to memory have reached their homes or left for them (R262, R263). -/
def stored (s : State) : State := (ctxNumbers s).foldl drainMem s

/-- The bytes that a host's request reads and writes: an AtomicOp has 4 or 8 of them, and an operand of that length, or two for CAS (R314, R484). -/
def hostBytes (req : HostReq) (bs : List Byte) (len : Nat) : Nat :=
  match req with
  | .read => len
  | .write => bs.length
  | .fetchAdd | .swap => if (len = 4 ∨ len = 8) ∧ bs.length = len then len else 0
  | .cas => if (len = 4 ∨ len = 8) ∧ bs.length = 2 * len then len else 0

/-- What it leaves where memory holds `old` (R314, R484). -/
def hostValue (req : HostReq) (bs old : List Byte) : List Byte :=
  match req with
  | .read => old
  | .write | .swap => bs
  | .fetchAdd => leBytes old.length ((valueOf old + valueOf bs) % 2 ^ (8 * old.length))
  | .cas => if bs.take old.length = old then bs.drop old.length else old

/-- A host's request of `n` bytes is served: the module's memory is there, or it is the host's own, and no line of it fails. -/
def hostServed (s : State) (req : HostReq) (pa n : Nat) : Bool :=
  n ≠ 0 && pa + n ≤ 2 ^ 52 && (isHost pa || s.hub.boot != .off) && !isRemote s pa &&
    (if req = .write then writeBad s (.mem pa) n else readBad s (.mem pa) n).isNone

/-- Steps on accesses of contexts: results that land (R159), write-throughs (R263, R280), the drain of a shoal log (R260), fault service
(R256, R258, R391), page requests (R257), invalidation (R262), and writes through the host port (R291). -/
def memoryMoves : Instr → Option Move
  | .evLongLatencyWriteback c n => some {
      may := fun s => (getCtx s c).run = true ∧ (getCore s (ctxCore c)).halt = false ∧
        ∃ w r v, (getCtx s c).wbs[n]? = some w ∧ w.hm = (getCtx s c).handler ∧ w.dsts = [.g r v] ∧ dividerOwes s c w = false
      does := fun s t => t.mem = s.mem ∧ ∀ w r v, (getCtx s c).wbs[n]? = some w → w.dsts = [.g r v] →
        getCtx t c = sendSignals (((({ getCtx s c with wbs := (getCtx s c).wbs.eraseIdx n, blockA := false, blockE := false, since := s.tick } : Context).setG r v).markG r false).orFlags w.flags)
          (if ((getCtx s c).wbs.eraseIdx n).any (sameLdm w) then [] else w.sigs) }
  | .evWriteThroughReachesHome c n => some {
      may := fun s => ∃ st, through s c n = some st ∧ poolHeld s st.loc = false ∧
        ((getCtx s c).stores.take n).any (fun e => overlaps e.loc e.bytes.length st.loc st.bytes.length) = false ∧
        foreign s (ctxCluster c) st.loc = false ∧ writeBad (storeReplaces s st) st.loc st.bytes.length = none ∧ (match st.loc with
          | .mem pa => isRemote s pa = false
          | .pool _ _ => True)
      does := fun s t => (getCtx t c).stores = (getCtx s c).stores.eraseIdx n ∧ ∀ st, through s c n = some st →
        readHome t st.loc st.bytes.length = st.bytes ∧
        ∀ l k, overlaps l k st.loc st.bytes.length = false → readHome t l k = readHome s l k }
  | .evShoalDrain u n => some {
      may := fun s => u < 192 ∧ ∃ e a, (getCore s u).shoal[n]? = some e ∧ e.refused = false ∧ e.red = none ∧ e.order.getLsbD 1 = false ∧
        ((getCore s u).shoal.take n).any (fun d => d.ctx = e.ctx) = false ∧ shoalTarget s e = .ok a ∧ poolHeld s a.loc = false ∧
        netBlocks s e.ctx a.loc e.bytes.length = false ∧ watermark s e.ctx a.loc e.bytes.length false true = none ∧
        storesOverlap (getCtx s e.ctx) a.loc (part e) = false
      does := fun s t => ∀ e a, (getCore s u).shoal[n]? = some e → shoalTarget s e = .ok a →
        t = performStore (modCore (dropLogged s e.ctx e.va.toNat) u (fun k => { k with shoal := withoutPart e k.shoal })) e.ctx
          ⟨a.loc, e.bytes.take (part e), e.va, (locKey a.loc).2 % 64 = 0 && 64 ≤ e.bytes.length⟩ }
  | .evFaultService n (.map l) => some {
      may := fun s => ∃ f, s.faults[n]? = some f ∧ ((mayServe f = true ∧ f.seq = none) ∨
        ∃ k, inService s f k ∧ inFlight (stored s) (framesOf s f) = false)
      does := fun s t => ∀ f, s.faults[n]? = some f →
        (f.seq = none → t.hub.events = s.hub.events ++ [⟨1, f.fn, memProcSource, f.cause, s.nextId, faultPayload f, 0, false⟩] ∧
          t.faults = s.faults.map (fun g => if g = f then { g with seq := some s.nextId } else g) ∧ t.mem = s.mem) ∧
        (∀ k, f.seq = some k → t.faults = s.faults.erase f ∧ uncached t (framesOf s f) ∧ handled t 1 k = false ∧
          ∀ pa e, l = [(pa, e)] → pa < 2 ^ 52 → memRead t.mem pa 16 = leBytes 16 e.toNat) }
  | .evFaultService n (.refuse _) => some {
      may := fun s => ∃ f k c, s.faults[n]? = some f ∧ inService s f k ∧ f.ctx = some c ∧ f.kind ≠ 1
      does := fun s t => ∀ f k, s.faults[n]? = some f → f.seq = some k →
        t = { endHandler s 1 k with faults := s.faults.map (fun g => if g = f then { g with refused := some f.cause } else g) } }
  | .evTranslationHoldTimeout n => some {
      may := fun s => ∃ f k, s.faults[n]? = some f ∧ f.ctx = some k ∧ f.kind ≠ 1 ∧ f.refused = none ∧ f.grace ≤ s.tick - f.since
      does := fun s t => ∀ f, s.faults[n]? = some f →
        t = { s with faults := s.faults.map (fun g => if g = f then { g with refused := some 0x110 } else g) } }
  | .evPageRequestGroupSend => some {
      may := fun s => ∃ f ∈ s.faults, wantsPage f = true ∧ groupOf s.hub (faultPage f) = none ∧ 2000 ≤ s.tick - f.since
      does := fun s t => t.faults.length = s.faults.length ∧ (∀ f ∈ t.faults, wantsPage f = true → groupOf t.hub (faultPage f) = none) ∧
        if outRequests s.hub < Config.priAllowance then
          t.hub.prgNext = s.hub.prgNext + 1 ∧ outRequests s.hub < outRequests t.hub ∧ outRequests t.hub ≤ outRequests s.hub + 32 ∧
          outRequests t.hub ≤ Config.priAllowance ∧ ∃ f ∈ t.faults, f.prg = some s.hub.prgNext
        else t.hub = s.hub }
  | .evPriResponse g code => some {
      may := fun _ => True
      does := fun s t => (code = 0 → ∀ f ∈ t.faults, f.prg ≠ some g) ∧
        ∀ f c, s.faults.filter (fun f => f.prg = some g) = [f] → f.ctx = some c → f.kind ≠ 1 → code ≠ 0 →
          t.faults = s.faults.map (fun h => if h = f then { h with refused := some 0x106 } else h) ∧
          (getFn t f.fn).priDead = ((getFn s f.fn).priDead || code = 15) }
  | .evAtsInvalidation va l => some {
      may := fun s => s.hub.boot = .ready ∧ s.hub.invals.length < 32
      does := fun s t => ∀ v0 l0 rest, s.hub.invals ++ [(va, l)] = (v0, l0) :: rest →
        let frames := s.roots.filterMap (fun r => pageFrame s r.1 v0)
        let u := stored { s with hub := { s.hub with invals := (v0, l0) :: rest } }
        if inFlight u frames = true then t = u
        else t.hub.invals = rest ∧ uncached t frames ∧ (∀ c st, st ∈ (getCtx t c).stores → ∃ k o, st.loc = .pool k o) ∧
          ∀ r ∈ s.roots, tabGet 0 (atsKey r.1 v0) s.ats < tabGet 0 (atsKey r.1 v0) t.ats }
  | .evHostPortRequest _ pa req bs len => some {
      may := fun s => hostServed s req pa (hostBytes req bs len) = true
      does := fun s t =>
        let n := hostBytes req bs len
        let old := memRead s.mem pa n
        (∀ a k, (a + k ≤ pa ∨ pa + n ≤ a) → memRead t.mem a k = memRead s.mem a k) ∧
        memRead t.mem pa n = hostValue req bs old ∧ (req ≠ .write → t.hub.reply = old) }
  | _ => none

/-- The operation at the head of the execute stream waited the whole limit for a token entry; and so did the one of the access side (R398). -/
def fullE (s : State) : Bool := s.x.tokE.any (fun w => 65536 ≤ s.tick - w) && s.x.stream.head?.any (fun i => match i with
  | .instr _ => true
  | _ => false)
def fullA (s : State) : Bool := s.x.tokA.any (fun w => 65536 ≤ s.tick - w) && s.x.cur.isSome

/-- Steps on a context: a suspended wait wakes (R318), two streams that block each other trap (R176), a trap is entered (R457), a token table
that stays full traps (R398), debug (R475, R476), errors of its state (R477), and issue promotion (R385). -/
def contextMoves : Instr → Option Move
  | .evWaitaWake cid => some {
      may := fun s => ∃ cl k, suspCluster s cid = some cl ∧ (getCluster s cl).susp.find? (fun k => k.cid = cid) = some k ∧ k.cur.any Entry.cont = false ∧
        k.bound = true ∧ ∃ w, k.ws = some w ∧ (watchHit s cl w.watch = true ∨ (w.due ≠ 0 ∧ w.due ≤ s.tick))
      does := fun s t => ∀ cl k, suspCluster s cid = some cl → (getCluster s cl).susp.find? (fun k => k.cid = cid) = some k →
        (∀ j ∈ (getCluster t cl).susp, j.cid ≠ cid) ∧ { k with state := 0, since := s.tick } ∈ (getCluster t k.cluster).ready }
  | .evDecouplingDeadlock c => some {
      may := fun s => c = s.xid ∧ s.x.run = true ∧ s.x.raised = none ∧ coreStopped s = false ∧ s.x.blockA = true ∧
        (s.x.blockE = true ∨ s.x.stream = []) ∧
        4096 ≤ s.tick - s.x.since
      does := fun s t => t = raise s { cause := 0x00A, detail := 0, faddr := 0, fpc := s.x.pc, async := true, keep := false } }
  | .evTrapEntry c => some {
      may := fun s => c = s.xid ∧ s.x.run = true ∧ s.x.raised.isSome = true ∧ coreStopped s = false ∧ trapWaits s = false
      does := fun s t => ∀ r, s.x.raised = some r → t = trapEntry s r }
  | .evTokenIssueTimeout c => some {
      may := fun s => c = s.xid ∧ (fullE s = true ∨ fullA s = true)
      does := fun s t =>
        (∀ e l, fullE s = true → s.x.stream = .instr e :: l →
          t = raise { s with x := { s.x with tokE := none } }
            { cause := 0x084, detail := 0, faddr := 0, fpc := e.pc, async := false, keep := false }) ∧
        (∀ e, fullE s = false → fullA s = true → s.x.cur = some e →
          t = raise { s with x := { s.x with tokA := none } }
            { cause := 0x084, detail := 0, faddr := 0, fpc := e.pc, async := false, keep := true }) }
  | .evDebugHalt k on => some {
      may := fun s => s.hub.boot = .ready ∧ muted s 0 = false ∧ k < 192
      does := fun s t => getCore t k = { getCore s k with halt := on, one := false } ∧ t.x = s.x ∧ t.mem = s.mem }
  | .evDebugStep k => some {
      may := fun s => s.hub.boot = .ready ∧ muted s 0 = false ∧ k < 192
      does := fun s t => getCore t k = { getCore s k with halt := false, one := true } ∧ t.x = s.x ∧ t.mem = s.mem }
  | .evBreakpointArm k on => some {
      may := fun s => s.hub.boot = .ready ∧ muted s 0 = false ∧ k < 192
      does := fun s t => (getCore t k).arm = on ∧ (getCore t k).one = (getCore s k).one ∧ t.x = s.x ∧ t.mem = s.mem }
  | .evEngineFreeze cl on => some {
      may := fun s => s.hub.boot = .ready ∧ muted s 0 = false ∧ cl < 48
      does := fun s t => (getCluster t cl).freeze = on ∧ (on = false → (getCluster t cl).ack = false) ∧
        (on = true → (getCluster s cl).ack = false → (getCluster s cl).toks.any (fun e => inStep e.2) = false →
          (getCluster t cl).ack = true) }
  | .evContextStateError c => some {
      may := fun s => (getCtx s c).run = true
      does := fun s t => (getCtx t c).run = false ∧ ∃ e ∈ t.hub.events, e.cause = 0x113 ∧ e.payload = leBytes 2 c }
  | .evL1ParityDrop k line ins => some {
      may := fun _ => True
      does := fun s t => t.mem = s.mem ∧ (ins = true → tabFind line (getCore t k).ic = none ∧ (getCore t k).l1 = (getCore s k).l1) ∧
        (ins = false → tabFind line (getCore t k).l1 = none ∧ (getCore t k).ic = (getCore s k).ic) }
  | .evIssuePromotion c ex => some {
      may := fun s => (getCtx s c).run = true ∧ ∃ w, readySince (getCtx s c) ex = some w ∧ 1024 ≤ s.tick - w
      does := fun s t => t.mem = s.mem ∧
        getCtx t c = (if ex then { getCtx s c with promE := true } else { getCtx s c with promA := true }) }
  | _ => none

/-- The packet at place `n` of the fabric. -/
def packet (s : State) (n : Nat) : Option Packet := s.net[n]?

/-- A write packet may be applied: nothing that it must follow is still on its way, and a route leads to its home (R286, R289, R20). -/
def mayApply (s : State) (p : Packet) (rel : Bool) : Prop :=
  p.applied = false ∧ p.release = rel ∧ lineEarlier s p = false ∧ (rel = true → vecMet s p = true) ∧ routeOpen s (ctxCluster p.ctx) p.dst = true

/-- A write packet reaches its home. -/
def applies (n : Nat) (rel : Bool) : Move where
  may s := ∃ p pa bs, packet s n = some p ∧ p.kind = .write pa bs ∧ mayApply s p rel ∧ writeBad s (.mem pa) bs.length = none
  does s t := ∀ p pa bs, packet s n = some p → p.kind = .write pa bs →
    packet t n = some { p with applied := true } ∧ (memRead t.mem pa bs.length = bs ∧
      ∀ a k, (a + k ≤ pa ∨ pa + bs.length ≤ a) → memRead t.mem a k = memRead s.mem a k)

/-- Steps of the fabric: FINCs (R322), remote writes and their acknowledgements (R286, R288, R289), multicast tables (R301), packets of
other modules (R447) and the escape of a blocked one (R394). -/
def fabricMoves : Instr → Option Move
  | .evFincArrival n => some {
      may := fun s => ∃ p cl e v d, packet s n = some p ∧ p.kind = .flag cl e v ∧ p.applied = false ∧ p.refused = false ∧ vecMet s p = true ∧
        moduleDie s (cl / 12) = some d ∧ routeOpen s (ctxCluster p.ctx) p.dst = true
      does := fun s t => ∀ p cl e v d, packet s n = some p → p.kind = .flag cl e v → moduleDie s (cl / 12) = some d →
        if runsJob s (d * 12 + cl % 12) p.bundle = true then
          packet t n = some { p with applied := true } ∧
          flagGet t (d * 12 + cl % 12) e = flagGet s (d * 12 + cl % 12) e + v
        else t = { s with net := s.net.modify n (fun p => { p with refused := true }) } }
  | .evFincRefusal n => some {
      may := fun s => ∃ p, packet s n = some p ∧ p.refused = true ∧ p.ctx = s.xid ∧ s.x.run = true ∧ s.x.cont.cid = p.cid
      does := fun s t => t.net = s.net.eraseIdx n ∧ t.x.fincs = s.x.fincs - 1 ∧ t.x.asyncs = s.x.asyncs ++ [⟨0x108, 0, 0, s.x.handler⟩] }
  | .evRemoteWriteApply n => some (applies n false)
  | .evReleasePacketApply n => some (applies n true)
  | .evRemoteWriteAck n => some {
      may := fun s => ∃ p, packet s n = some p ∧ p.applied = true
      does := fun s t => t.net = s.net.eraseIdx n ∧ ∀ p, packet s n = some p →
        t.x.pend = s.x.pend.filter (fun e => !(e.src = p.src && e.dst = p.dst && e.count = p.count)) }
  | .evMulticastRewrite g l => some {
      may := fun _ => True
      does := fun s t => t.x = s.x ∧ t.mem = s.mem ∧ let old := tabGet {} g s.groups; let new := tabGet {} g t.groups
        if old.waiting = [] ∧ old.versions.length < 4 then
          new.installed = old.next ∧ new.versions = ⟨old.next, l, []⟩ :: old.versions.filter (fun v => v.refs ≠ []) ∧
            new.drained = ((old.versions.filter (fun v => v.refs = [])).head?.map Version.no).getD old.drained
        else new = { old with waiting := old.waiting ++ [l] } }
  | .evFabricPacketArrival st key cl pa bs => some {
      may := fun s => (tabGet {} st s.straits).state = .opened
      does := fun s t => (keyOk s st key (if cl < 48 then clusterPart s cl else some (granulePart s pa)) = false →
          t.mem = s.mem ∧ (tabGet {} st t.straits).drops = ((tabGet {} st s.straits).drops + 1) % 2 ^ 48 ∧
          ∃ e ∈ t.hub.events, e.cause = 0x380 ∧ e.payload = leBytes 4 key) ∧
        (keyOk s st key (if cl < 48 then clusterPart s cl else some (granulePart s pa)) = true → 48 ≤ cl → bs ≠ [] → isHost pa = false →
          writeBad s (.mem pa) bs.length = none → memRead t.mem pa bs.length = bs) }
  | .evEscapeMove n => some {
      may := fun s => ∃ p, packet s n = some p ∧ p.applied = false ∧ p.refused = false ∧ p.escaped = false ∧ p.limit ≤ s.tick - p.since ∧
        buffered s n p = false
      does := fun s t => t.net = s.net.modify n (fun p => { p with escaped := true }) ∧
        (∀ p, packet s n = some p → (getDie t (ctxCluster p.ctx / 12)).moves = (getDie s (ctxCluster p.ctx / 12)).moves + 1) ∧
        (s.hub.femode.getLsbD 6 = false → t.hub = s.hub) ∧
        (s.hub.femode.getLsbD 6 = true → t.hub.events.length = s.hub.events.length + 1) }
  | _ => none

/-- The entry in slot `k` of a cluster's token table. -/
def tok (s : State) (cl k : Nat) : Option TokEntry := tabFind k (getCluster s cl).toks

/-- The operation of entry `e` has ended: the entry stands in its terminal state with its cause, and one that was released is free (R396,
R397, R404). -/
def EndedAs (t : State) (cl k : Nat) (e : TokEntry) (st : OpState) (cause : Cause) : Prop :=
  if e.released = true then tok t cl k = none else ∃ e', tok t cl k = some e' ∧ e'.state = st ∧ e'.fr.cause = cause

/-- The operation of entry `e` has made its last step in state `u`: it is DONE, or FAULTED where its notify write meets a line that fails its
checks (R334, R477). -/
def EndedWell (u t : State) (cl k : Nat) (e : TokEntry) : Prop :=
  match notifyBad u cl e.op with
  | none => EndedAs t cl k e .done 0
  | some b => EndedAs t cl k e .faulted b.1

/-- The operation of entry `e` runs from now on, with `n` steps (R396). -/
def Begun (t : State) (cl k n : Nat) : Prop := ∃ e', tok t cl k = some e' ∧ e'.state = .running ∧ e'.started = true ∧ e'.total = n

/-- The operation of entry `e` waits on where it stands. -/
def Waits (t : State) (cl k : Nat) (e : TokEntry) : Prop := ∃ e', tok t cl k = some e' ∧ e'.state = e.state ∧ e'.started = e.started

/-- The lease of a cluster's array (R222). -/
def lease (s : State) (cl : Nat) : Lease := (getCluster s cl).lease

/-- The state in which the operation that an engine serves next starts: its ring waits and its issuer's stores are done (R64, R293, R386). -/
def served (s : State) (cl eng : Nat) (h : Nat × Nat × TokEntry) : State := serveHead s cl eng h.1 h.2.1 h.2.2

/-- The rows that a block step leaves in its tile, with their flags: the sums of a tile row's old values, or zero at the first chunk of
a fresh one, and the products of the chunk (R228–R236); none where the operands cannot be read now. -/
def blockRows (s : State) (cl slot : Nat) (e : TokEntry) (f : MmaF) : Option (List (List Nat × Flags)) :=
  let kcs := shK (opG e.op 2)
  let tms := tilesOfDim (shM (opG e.op 2))
  let ti := e.done / kcs
  let kc := e.done % kcs
  let rows := blockDim (shM (opG e.op 2)) (ti % tms)
  let cols := blockDim (shN (opG e.op 2)) (ti / tms)
  match rowsOfA s cl slot e rows (ti % tms) kc with
  | .ok ra u =>
    match engReadAll u cl slot e (opH e.op 1) (operandRuns (opG e.op 1) (opG e.op 4) kcs kc (128 * (ti / tms)) cols) [] with
    | .ok rb u =>
      some ((operandRows (opG e.op 0) (opG e.op 3) kc ra).zipIdx.map (fun r =>
        rowSums r.1 (operandRows (opG e.op 1) (opG e.op 4) kc rb)
          (if f.z && kc = 0 then List.replicate cols 0 else tileRow (getCluster u cl) (f.acc.toNat + ti) r.2 cols) flagNone))
    | _ => none
  | _ => none

/-- A step of a running multiplication `e` in `slot`, which `key` counts among those served in turn. -/
def block (cl key : Nat) (sel : State → TokEntry → Bool) : Move where
  may s := enginesRun s cl = true ∧ ∃ k e f, pickRunning s cl key (sel s) = some (k, e) ∧ tok s cl k = some e ∧ mmaForm e.op.instr = some f ∧
    e.stop = none ∧ (blockRows (noteServed s cl key k) cl k e f).isSome = true
  does s t := ∀ k e f rs, pickRunning s cl key (sel s) = some (k, e) → mmaForm e.op.instr = some f →
    blockRows (noteServed s cl key k) cl k e f = some rs →
    (if e.total ≤ e.done + 1 then EndedAs t cl k e .done 0
      else ∃ e', tok t cl k = some e' ∧ e'.done = e.done + 1 ∧ e'.state = .running) ∧
    (∀ i r, rs[i]? = some r → i < 128 → r.1.length ≤ 128 → (∀ v ∈ r.1, v < 2 ^ 32) →
      tileRow (getCluster t cl) (f.acc.toNat + e.done / shK (opG e.op 2)) i r.1.length = r.1)

/-- The lease of a holder that asks again has its new budget, and any other request joins the tail of its FIFO (R225). -/
def leaseAsked (u t : State) (cl k : Nat) (e : TokEntry) (sus : Bool) : Prop :=
  let b := leaseBudget (opG e.op 0)
  if holdsLease (lease u cl) e.op.cid = true then
    EndedAs t cl k e .done 0 ∧ ((lease u cl).releasing = [] →
      (lease t cl).holders = (lease u cl).holders.map (fun h => if h.1 = e.op.cid then (e.op.cid, b, e.pri.toNat) else h))
  else (lease t cl).fifo = (lease u cl).fifo ++ [⟨e.op.cid, e.pri, b, some k, u.tick, sus⟩] ∧ (lease t cl).holders = (lease u cl).holders

/-- The lease of a holder is released once its matrix operations that have started are terminal; one that holds none is done at once
(R224, R226). -/
def leaseReleased (u t : State) (cl k : Nat) (e : TokEntry) : Prop :=
  if holdsLease (lease u cl) e.op.cid = false then EndedAs t cl k e .done 0
  else (lease u cl).releasing = [] →
    if matrixBusy u cl e.op.cid true = true then (lease t cl).releasing = [(e.op.cid, some k)] ∧ (lease t cl).holders = (lease u cl).holders
    else EndedAs t cl k e .done 0 ∧ (∀ h ∈ (lease t cl).holders, h.1 ≠ e.op.cid) ∧ (lease t cl).possess ≠ some e.op.cid

/-- An operation that has passed its other checks runs, unless another continuation's operation uses its tiles (R241). -/
def tilesFree (u t : State) (cl k : Nat) (e : TokEntry) (n : Nat) : Prop :=
  if tilesBusy (getCluster u cl) k e.op = true then EndedAs t cl k e .faulted 0x305 else Begun t cl k n

/-- What the start of a matrix operation does (R235, R237, R238): it fails with the cause of the first check that it breaks, waits for
possession of the array or for a translation, or runs. -/
def matrixStarts (u t : State) (cl k : Nat) (e : TokEntry) : Prop :=
  let mma (f : MmaF) : Prop :=
    match mmaChecks u cl e f with
    | some (0x306, _) => (match mmvTranslates u cl k e with
      | .hold _ => Waits t cl k e
      | .fail _ c _ => EndedAs t cl k e .faulted c
      | .ok _ _ => EndedAs t cl k e .faulted 0x306)
    | some c => EndedAs t cl k e .faulted c.1
    | none =>
      if usesArray e.op.instr = true ∧ (lease u cl).possess ≠ some e.op.cid then Waits t cl k e
      else tilesFree u t cl k e (tilesOfDim (shM (opG e.op 2)) * tilesOfDim (shN (opG e.op 2)) * shK (opG e.op 2))
  let tile (f : MTileF) (rights : BitVec 8) : Prop :=
    match tileChecks u cl e f rights with
    | some c => EndedAs t cl k e .faulted c.1
    | none => tilesFree u t cl k e (tilesOfDim (shM (opG e.op 1)) * tilesOfDim (shN (opG e.op 1)))
  match e.op.instr with
  | .mlease f => leaseAsked u t cl k e f.sus
  | .mrel _ => leaseReleased u t cl k e
  | .mma f => mma f
  | .mmaq f => mma f
  | .mmv f => mma f
  | .mzero f =>
    if tileLimit (getCluster u cl) < f.acc.toNat + (f.cnt.toNat + 1) then EndedAs t cl k e .faulted 0x304
    else tilesFree u t cl k e (f.cnt.toNat + 1)
  | .mdrain f => tile f rightW
  | .mldacc f => tile f rightR
  | _ => True

/-- The running tile operation that is served next. -/
def tileSel (s : State) (cl : Nat) : Option (Nat × TokEntry) :=
  pickRunning s cl 6 (fun e => seqOpen s cl e && isMatrixOp e.op.instr && (mmaForm e.op.instr).isNone)

/-- The pieces of memory that hold the tile of a step of MDRAIN or MLDACC (R227, R238). -/
def tilePieces (e : TokEntry) : List (Nat × Nat) :=
  let gt := opG e.op 0
  let tms := tilesOfDim (shM (opG e.op 1))
  (storedRuns gt (shM (opG e.op 1)) (shN (opG e.op 1)) (e.done % tms) (e.done / tms) (contBytes (tpFmt gt))).flatMap
    (fun r => pageRuns (hAddr (opH e.op 0) r.1) r.2)

/-- Rows and columns of the tile of a step of MDRAIN or MLDACC. -/
def tileShape (e : TokEntry) : Nat × Nat :=
  let tms := tilesOfDim (shM (opG e.op 1))
  (blockDim (shM (opG e.op 1)) (e.done % tms), blockDim (shN (opG e.op 1)) (e.done / tms))

/-- The codes that a step of MDRAIN gives, row by row, or the cause of the TRAP policy (R133, R239). -/
def drainCodes (s : State) (cl : Nat) (e : TokEntry) (f : MTileF) : Except Cause (List (List Nat)) :=
  let z := tileShape e
  (drainRows (tpFmt (opG e.op 0)) f.rnd f.ovf e.op.seed (128 * (e.done / tilesOfDim (shM (opG e.op 1))))
    ((List.range z.1).map (fun i => tileRow (getCluster s cl) (f.acc.toNat + e.done) i z.2)) e.lanes flagNone).map (·.1)

/-- A step that did its work in `u`: it is the operation's next one, and the operation ends after its last (R404). -/
def stepOver (t u : State) (cl k n : Nat) : Prop := t = endStep u cl k ∧ ∃ e', tok u cl k = some e' ∧ e'.done = n

/-- What a step of MZERO, MDRAIN or MLDACC does (R237–R239): a tile of zeros, the converted tile in memory, or a tile from memory. -/
def tileMoves (s t : State) (cl k : Nat) (e : TokEntry) : Prop :=
  let z := tileShape e
  match e.op.instr with
  | .mzero f => ∃ u, stepOver t u cl k (e.done + 1) ∧ ∀ i, i < 128 → tileRow (getCluster u cl) (f.acc.toNat + e.done) i 128 = List.replicate 128 0
  | .mdrain f => (match drainCodes s cl e f with
    | .error c => EndedAs t cl k e .faulted c
    | .ok codes =>
      match engCanWrite s cl k e (kindOf (opH e.op 0)) (tilePieces e) [] with
      | .hold _ => Waits t cl k e
      | .fail _ c _ => EndedAs t cl k e .faulted c
      | .ok locs _ =>
        let ps := locs.zip ((tilePieces e).map (·.2))
        let bs := codes.flatten.flatMap (leBytes (contBytes (tpFmt (opG e.op 0))))
        ∃ u, stepOver t u cl k (e.done + 1) ∧
          (ps.Pairwise (fun a b => overlaps a.1 a.2 b.1 b.2 = false) → (ps.map (·.2)).sum = bs.length →
            ps.flatMap (fun p => readHome u p.1 p.2) = bs) ∧
          (∀ l n, (∀ p ∈ ps, overlaps l n p.1 p.2 = false) → readHome u l n = readHome s l n) ∧
          ∀ i, i < z.1 → tileRow (getCluster u cl) (f.acc.toNat + e.done) i z.2 =
            if f.z = true then List.replicate z.2 0 else tileRow (getCluster s cl) (f.acc.toNat + e.done) i z.2)
  | .mldacc f => (match engReadRuns s cl k e (kindOf (opH e.op 0)) (tilePieces e) [] with
    | .hold _ => Waits t cl k e
    | .fail _ c _ => EndedAs t cl k e .faulted c
    | .ok bs _ =>
      let fmt := tpFmt (opG e.op 0)
      let els := (chunks (contBytes fmt) (z.1 * z.2) bs).map (fun c => (loadCode fmt (leNat c)).1)
      ∃ u, stepOver t u cl k (e.done + 1) ∧ ∀ i, i < z.1 → (∀ v ∈ els, v < 2 ^ 32) →
        tileRow (getCluster u cl) (f.acc.toNat + e.done) i z.2 = (els.drop (i * z.2)).take z.2)
  | _ => True

/-- Steps of the matrix sequencer: the lease of the array (R222–R225), the start of an operation (R386) and its steps (R228–R238). -/
def matrixMoves : Instr → Option Move
  | .evLeaseGrant cl => some {
      may := fun s => (lease s cl).possess = none ∧ (lease s cl).reserved = none ∧ (lease s cl).fifo ≠ [] ∧ (lease s cl).releasing = [] ∧
        ∀ r ∈ (lease s cl).fifo, contLive s cl r.cid = true
      does := fun s t => ∃ r ∈ (lease s cl).fifo, (∀ q ∈ (lease s cl).fifo, q.pri.toNat ≤ r.pri.toNat) ∧ (lease t cl).fifo = (lease s cl).fifo.erase r ∧
        if r.sus = true ∧ ctxOfCont s r.cid = none then (lease t cl).reserved = some (r, s.tick)
        else (lease t cl).possess = some r.cid ∧ (lease t cl).used = 0 ∧ ∀ slot, r.tok = some slot →
          (lease t cl).holders = (lease s cl).holders ++ [(r.cid, r.budget, r.pri.toNat)] ∧
          ∀ e, tok s cl slot = some e → e.state.terminal = false → EndedWell s t cl slot e }
  | .evIdlePossessionTimeout cl => some {
      may := fun s => ∃ c, (lease s cl).possess = some c ∧ 256 ≤ s.tick - (lease s cl).idle ∧
        ((lease s cl).fifo.any (fun r => 256 ≤ s.tick - r.since)) = true ∧ arrayWork s cl c = false
      does := fun s t => (lease t cl).possess = none ∧ (lease t cl).used = 0 ∧ ∀ c h, (lease s cl).possess = some c →
        (lease s cl).holders.find? (fun h => h.1 = c) = some h →
        (lease t cl).fifo = (lease s cl).fifo ++ [⟨c, BitVec.ofNat 2 h.2.2, h.2.1, none, s.tick, false⟩] }
  | .evLeaseRequestAging cl => some {
      may := fun s => ∃ r ∈ (lease s cl).fifo, 65536 ≤ s.tick - r.since ∧ r.pri ≠ 3
      does := fun s t => (lease t cl).possess = (lease s cl).possess ∧ ∃ r ∈ (lease s cl).fifo, 65536 ≤ s.tick - r.since ∧ r.pri ≠ 3 ∧
        (lease t cl).fifo = (lease s cl).fifo.erase r ++ [{ r with pri := 3 }] }
  | .evLeaseReservationLapse cl => some {
      may := fun s => ∃ r t0, (lease s cl).reserved = some (r, t0) ∧ 10000 ≤ s.tick - t0
      does := fun s t => (lease t cl).reserved = none ∧ ∀ r t0, (lease s cl).reserved = some (r, t0) →
        (lease t cl).fifo = (lease s cl).fifo ++ [{ r with since := s.tick }] }
  | .evMatrixOpStart cl => some {
      may := fun s => enginesRun s cl = true ∧ ∃ h, pickHead s cl 2 (fun _ e => matrixMay s cl e) = some h ∧ h.2.2.state.terminal = false ∧
        inMatrixQueue h.2.2.op.instr = true
      does := fun s t => ∀ h, pickHead s cl 2 (fun _ e => matrixMay s cl e) = some h → matrixStarts (served s cl 2 h) t cl h.2.1 h.2.2 }
  | .evMatrixBlockStep cl => some (block cl 4 (fun s e => seqOpen s cl e && usesArray e.op.instr && (getLease s cl).possess = some e.op.cid))
  | .evMmvGroupStep cl => some (block cl 5 (fun s e => seqOpen s cl e && (mmaForm e.op.instr).isSome && !usesArray e.op.instr))
  | .evTileMoveStep cl => some {
      may := fun s => enginesRun s cl = true ∧ ∃ k e, tileSel s cl = some (k, e) ∧ tok s cl k = some e ∧ e.stop = none
      does := fun s t => ∀ k e, tileSel s cl = some (k, e) → tileMoves (noteServed s cl 6 k) t cl k e }
  | _ => none

/-- The operation in progress of a copy engine. -/
def current (s : State) (cl eng : Nat) : Option (Nat × TokEntry) := activeOp s cl eng

/-- The pattern record that a step of PKSET reads, if it is read now and holds valid patterns (R118, R345). -/
def patternAt (s : State) (e : TokEntry) (n : Nat) : Option Nat :=
  match resolve s e.op.ctx needLoad ((e.op.pkbase.toNat + 128 * n) % 2 ^ 64) 128 8 with
  | .ok a => if readBad s a.loc 128 = none then some (leNat (readHome s a.loc 128)) else none
  | .error _ => none

/-- The pieces that a step reads now. -/
def stepReads (s : State) (cl k : Nat) (e : TokEntry) (v : CopyView) : Option (List (Nat × Nat × List Byte) × State) :=
  match e.todo, stepRead s cl k e v e.done with
  | none, .ok (l, _, _, _) u => some (l, u)
  | _, _ => none

/-- The pieces that a step writes now: those it reads, or, of a multicast transfer, those it read before (R301). -/
def stepPieces (s : State) (cl k : Nat) (e : TokEntry) (v : CopyView) : Option (List (Nat × Nat × List Byte) × State) :=
  match e.todo with
  | some l => if hKind v.d.h.bits = 2 then some (l, s) else none
  | none => if xstGroup e.op.instr = 0 then stepReads s cl k e v else none

/-- The pieces that a step of a multicast transfer reads, at which the group's table is latched (R301). -/
def stepLatches (s : State) (cl k : Nat) (e : TokEntry) (v : CopyView) : Option (List (Nat × Nat × List Byte)) :=
  if xstGroup e.op.instr = 0 then none else (stepReads s cl k e v).map (·.1)

/-- The pool place and the bytes that a step moves without combining, where it writes them now and they are one piece for one scratchpad of
this module, its own or that of a remote tensor (R346), without an error. -/
def stepMoves (s : State) (cl k : Nat) (e : TokEntry) (v : CopyView) : Option (Loc × List Byte) :=
  match stepPieces s cl k e v with
  | some ([(a, _, bs)], u) =>
    let l : Option Loc :=
      if hKind v.d.h.bits = 1 then some (.pool cl (scratchBase (getCluster u cl).poolpw + a))
      else if hKind v.d.h.bits = 2 then
        match destDies u cl k e.op.instr (hAddr v.d.h v.d.off) with
        | some [m] => match remoteAt u cl e.bundle (onDie m a) bs.length with
          | .ok l => l
          | .error _ => none
        | _ => none
      else none
    if (combOf v).isNone = true then
      l.bind (fun l => if writeBad u l bs.length = none then some (l, bs) else none)
    else none
  | _ => none

/-- A step of a copy or transfer whose operation goes on after it: it has all been written, it is read now, or it is written now. -/
def stepReady (s : State) (cl k : Nat) (e : TokEntry) (v : CopyView) : Prop :=
  e.stop = none ∧ e.done + 1 < e.total ∧ opLogged (getCluster s cl) k = false ∧
    (e.todo = some [] ∨ (stepLatches s cl k e v).isSome = true ∨ (stepMoves s cl k e v).isSome = true)

/-- The step is done and its bytes are in place, or, of a multicast transfer, it has read them. -/
def stepEnds (s t : State) (cl k : Nat) (e : TokEntry) : Prop :=
  match (copyView e.op).bind (stepLatches s cl k e) with
  | some l => ∃ e', tok t cl k = some e' ∧ e'.done = e.done ∧ e'.todo = some l
  | none => (∃ e', tok t cl k = some e' ∧ e'.done = e.done + 1 ∧ e'.todo = none) ∧
    ∀ v l bs, copyView e.op = some v → stepMoves s cl k e v = some (l, bs) → readHome t l bs.length = bs

/-- The home of an XAMO's target (R313, R349): a place that can be read now, that no earlier write of its die awaits (R286) and whose unit
knows the operation, or `some none` on another module; none where a release must wait (R288). -/
def xamoHome (s : State) (cl k : Nat) (e : TokEntry) (f : XAmoF) : Option (Option Loc) :=
  let a := hAddr (opH e.op 0) (opG e.op 0).toNat
  let known (l : Loc) : Option (Option Loc) :=
    if amoSupported l f.op.toNat = true ∧ readBad s l (xamoBytes f) = none ∧ dieBlocks s (podDie s (cl / 12)) l (xamoBytes f) = false then
      some (some l)
    else none
  let free (dst : Nat) : Bool := xamoReleases s e f dst
  if kindOf (opH e.op 0) = 2 then
    if !free (farDie a) then none
    else match remoteAt s cl e.bundle a (xamoBytes f) with
    | .ok none => some none
    | .ok (some l) => known l
    | .error _ => none
  else match engTarget s cl k e 0 needBoth a with
    | .ok g _ => if free (locDie s g.loc) then known g.loc else none
    | _ => none

/-- The place in the scratchpad that the old value of an XAMO goes to (R349). -/
def xamoOld (s : State) (cl : Nat) (e : TokEntry) : Loc := .pool cl (scratchBase (getCluster s cl).poolpw + (opG e.op 3).toNat)

/-- The bytes of the destination stream that a step of a collective gives, where the rank reads its source now and has those of the other
ranks (R352, R353). -/
def collGives (s : State) (cl k : Nat) (e : TokEntry) (op : CollOp) (f : CollF) (p : PeerData) : Option (List Byte) :=
  let comm := f.comm.toNat
  let ranks := commRanks s e.bundle comm
  let self := (rankOf s cl ranks).getD 0
  let key := collKey e.bundle comm (collNo s cl e.bundle comm - 1)
  match collSource s cl k key self (readsSource op self (opG e.op 3).toNat) e f with
  | .ok _ u =>
    match rankSources u (tabGet {} key u.colls) ranks p with
    | some srcs =>
      match collBytes e op f (roundOf u key e).1 self (e.done * 65536) (min 65536 (lyBytes (collSides e f).1.y - e.done * 65536)) srcs with
      | .ok (bs, _, _) => some bs
      | .error _ => none
    | none => none
  | _ => none

/-- The pool address and the bytes of stream bytes `bs` from position `p`, where they are one piece of this cluster's scratchpad without an
error. -/
def onePiece (s : State) (cl : Nat) (d : Side) (p : Nat) (bs : List Byte) : Option (Nat × List Byte) :=
  match streamWrites d p bs with
  | [(a, _, l)] =>
    let q := scratchBase (getCluster s cl).poolpw + a
    if hKind d.h.bits = 1 ∧ writeBad s (.pool cl q) l.length = none then some (q, l) else none
  | _ => none

/-- The stream that an answer gives a read: its bytes, then zeros (R358). -/
def answer (d : Side) (bs : List Byte) : List Byte := (bs ++ List.replicate (lyBytes d.y) 0).take (lyBytes d.y)

/-- An operation fails with the cause of the first check that it breaks, or runs with `n` steps. -/
def checkedRun (t : State) (cl k : Nat) (e : TokEntry) (bad : Option (Cause × Word)) (n : Nat) : Prop :=
  match bad with
  | some c => EndedAs t cl k e .faulted c.1
  | none => Begun t cl k n

/-- No receive of a cluster waits for its turn to end (R400). -/
def noRecv (s : State) (cl : Nat) : Prop := ∀ d ∈ (getCluster s cl).toks, recvMatched d.2 = false

/-- CHBIND (R342): the kind, the handle, the bytes and the channel are checked in this order; then the channel is bound. -/
def binds (u t : State) (cl k : Nat) (e : TokEntry) (f : ChBindF) : Prop :=
  let h := opH e.op 0
  let (b, l, base) := ((opG e.op 0).toNat, (opG e.op 1).toNat, (hBase h.bits).toNat)
  let key := chanKey e.op.member f.c.toNat
  match (if kindOf h ≠ 1 then some (0x309 : Cause) else match checkHandle u cl e h f.h rightW 0 0 with
    | some c => some c.1
    | none =>
      if l < 1 ∨ 2 ^ 25 < l ∨ b < base ∨ base + hExtent h.bits < b + l then some 0x308
      else if (tabFind key (getCluster u cl).chans).isSome = true then some 0x30B else none) with
  | some c => EndedAs t cl k e .faulted c
  | none => EndedAs t cl k e .done 0 ∧ ∃ ch, tabFind key (getCluster t cl).chans = some ch ∧
      ch.lo = scratchBase (getCluster u cl).poolpw + b ∧ ch.len = l ∧ ch.owner = e.op.cid

/-- CHRD (R344): the channel's word reaches the scratchpad, where its address is good. -/
def channelRead (u t : State) (cl k : Nat) (e : TokEntry) (f : ChRdF) : Prop :=
  let p := (opG e.op 0).toNat
  let pw := (getCluster u cl).poolpw
  let l := Loc.pool cl (scratchBase pw + p)
  if p % 8 ≠ 0 ∨ scratchLen pw < p + 8 then EndedAs t cl k e .faulted 0x30E
  else match writeBad u l 8 with
    | some c => EndedAs t cl k e .faulted c
    | none => EndedAs t cl k e .done 0 ∧
        (noRecv u cl → readHome t l 8 = leBytes 8 (chanWord (getCluster u cl) (chanKey e.op.member f.c.toNat)))

/-- CHUNB (R344): the channel is free, where the continuation has it bound. -/
def unbinds (u t : State) (cl k : Nat) (e : TokEntry) (f : ChUnbF) : Prop :=
  let key := chanKey e.op.member f.c.toNat
  if (tabFind key (getCluster u cl).chans).any (fun ch => ch.owner = e.op.cid) = true then
    EndedAs t cl k e .done 0 ∧ tabFind key (getCluster t cl).chans = none
  else EndedAs t cl k e .faulted 0x30B

/-- The cluster has counted the collective that it dequeued (R350). -/
def counted (u : State) (cl : Nat) (e : TokEntry) : State :=
  let comm := commOf e.op.instr
  modCluster u cl (fun c => { c with colls := tabPut (commKey e.bundle comm) (collNo u cl e.bundle comm + 1) c.colls })

/-- The check that the start of a collective or CBAR breaks first (R331, R351, R352). -/
def collBad (u : State) (cl : Nat) (e : TokEntry) : Option (Cause × Word) :=
  let ranks := commRanks u e.bundle (commOf e.op.instr)
  match collForm e.op.instr with
  | some q => collChecks (counted u cl e) cl e q.1 q.2 ranks (rankOf u cl ranks)
  | none => if rankOf u cl ranks = none then some (0x30C, 0) else if notifyOk (counted u cl e) cl e.op = false then some (0x30E, 0) else none

/-- A collective joins the k-th one of its communicator, where it is the k-th that its cluster dequeues; one that differs from those that
joined before fails it (R350). -/
def collStarts (u t : State) (cl k : Nat) (e : TokEntry) : Prop :=
  let comm := commOf e.op.instr
  let key := collKey e.bundle comm (collNo u cl e.bundle comm)
  let old := tabGet {} key u.colls
  let new := tabGet {} key t.colls
  let n := match collForm e.op.instr with
    | some q => (lyBytes (collSides e q.2).1.y + 65535) / 65536
    | none => 1
  checkedRun t cl k e (collBad u cl e) n ∧
    (collBad u cl e = none → tabFind ((rankOf u cl (commRanks u e.bundle comm)).getD 0) new.ranks = some (cl, k, e.op.seq) ∧
      (old.sig ≠ [] → old.sig ≠ collSig e → new.failed = some 0x30C))

/-- An Ethernet operation (R356, R357, R492): it fails, also over a disabled port, is posted as a receive, or runs with one step. A receive that
fails ends once no earlier one of its continuation is open (R400). -/
def netStarts (u t : State) (cl k : Nat) (e : TokEntry) : Prop :=
  match netSide e with
  | none => True
  | some (d, r) =>
    let ep := epOf (opH e.op 0)
    let bad := match netChecks u cl e d r with
      | some c => some c.1
      | none => if portOff u ep = true then some 0x382 else none
    match bad with
    | some c => (isRecv e.op.instr = false → EndedAs t cl k e .faulted c) ∧
        (isRecv e.op.instr = true → (getCluster u cl).ack = false → (∀ d ∈ (getCluster u cl).toks, d.1 = k ∨ recvMatched d.2 = false) →
          (getCluster u cl).toks.Pairwise (fun a b => a.1 < b.1) →
          (∀ d ∈ (getCluster u cl).toks, d.2.op.cid = e.op.cid → isRecv d.2.op.instr = true → d.2.op.seq < e.op.seq → d.2.state.terminal = true) →
          EndedAs t cl k e .faulted c)
    | none =>
      if isRecv e.op.instr = true then
        ((tabGet {} ep u.endpoints).waiting.find? (fun m => recvTakes e (m.1 % 1024) (m.1 / 1024) m.2.1) = none →
          (tabGet {} ep t.endpoints).posted = (tabGet {} ep u.endpoints).posted.filter (· != (cl, k)) ++ [(cl, k)] ∧
          ∃ e', tok t cl k = some e' ∧ e'.state = e.state ∧ e'.started = true)
      else Begun t cl k 1

/-- What the start of an operation of a copy engine does (R331, R341–R357). -/
def copyStarts (u t : State) (cl k : Nat) (e : TokEntry) : Prop :=
  match e.op.instr with
  | .chbind f => binds u t cl k e f
  | .chrd f => channelRead u t cl k e f
  | .chunb f => unbinds u t cl k e f
  | .pkset f => Begun t cl k (f.cnt.toNat + 1)
  | .xamo f => checkedRun t cl k e (xamoChecks u cl e f) 1
  | .car _ | .cag _ | .crs _ | .ca2a _ | .cbc _ | .cbar _ => collStarts u t cl k e
  | .nsend _ | .nrecv _ | .nwrite _ | .nread _ => netStarts u t cl k e
  | i =>
    match copyView e.op with
    | none => True
    | some v =>
      if isCopyOp i = true then
        (if copyChecks u cl e v = none ∧ copySteps v = 0 then EndedWell u t cl k e else checkedRun t cl k e (copyChecks u cl e v) (copySteps v))
      else checkedRun t cl k e (transferChecks u cl e v) (copySteps v)

/-- Steps of the copy engines: starts and queue order (R386), copies (R331–R336), pattern records (R345), transfers (R347–R349),
collectives (R350–R354), messages (R355–R358). -/
def copyMoves : Instr → Option Move
  | .evCopyStart cl eng => some {
      may := fun s => enginesRun s cl = true ∧ eng < 2 ∧ ∃ h, pickHead s cl eng (fun _ e => copyMay s cl eng e) = some h ∧
        h.2.2.state.terminal = false ∧ h.2.2.todo = none
      does := fun s t => ∀ h, pickHead s cl eng (fun _ e => copyMay s cl eng e) = some h → copyStarts (served s cl eng h) t cl h.2.1 h.2.2 }
  | .evCopyStep cl eng => some {
      may := fun s => ∃ k e v, current s cl eng = some (k, e) ∧ copyView e.op = some v ∧ isCopyOp e.op.instr = true ∧ opMoves s cl e = true ∧
        stepReady s cl k e v
      does := fun s t => ∀ k e, current s cl eng = some (k, e) → stepEnds s t cl k e }
  | .evPksetStep cl => some {
      may := fun s => enginesRun s cl = true ∧ ∃ k e f, current s cl 0 = some (k, e) ∧ e.op.instr = .pkset f ∧ e.stop = none ∧
        e.state.terminal = false ∧
        issuerRuns s e.op = true ∧ (patternAt s e (f.n.toNat + e.done)).isSome = true
      does := fun s t => ∀ k e f r, current s cl 0 = some (k, e) → e.op.instr = .pkset f → patternAt s e (f.n.toNat + e.done) = some r →
        if f.n.toNat + e.done < 4 then EndedAs t cl k e .faulted 0x303
        else if recValid r then f.n.toNat + e.done < 16 → vecGet (getCtx t e.op.ctx).pats (f.n.toNat + e.done - 4) none = some (BitVec.ofNat 1024 r)
        else EndedAs t cl k e .faulted 0x303 }
  | .evRemoteTransferStep cl eng ok => some {
      may := fun s => ∃ k e, current s cl eng = some (k, e) ∧ opMoves s cl e = true ∧ farHeld s cl k e.op.instr (opH e.op 0) = false ∧
        e.state.terminal = false ∧
        ((farRefused s cl k e).isSome = true ∨ (∃ f, e.op.instr = .xamo f ∧ (ok = false ∨ (e.stop = none ∧ (xamoHome s cl k e f).isSome = true ∧
            (f.gp ≠ 0 → writeBad s (xamoOld s cl e) 8 = none)))) ∨
          ∃ v, copyView e.op = some v ∧ isCopyOp e.op.instr = false ∧ (ok = false ∨ stepReady s cl k e v))
      does := fun s t => ∀ k e, current s cl eng = some (k, e) →
        (∀ c, farRefused s cl k e = some c → EndedAs t cl k e .faulted c.1) ∧
        (farRefused s cl k e = none → ok = false → ∃ c, EndedAs t cl k e .faulted c ∧ (c = 0x381 ∨
          (0x200 ≤ c.toNat ∧ c.toNat ≤ 0x204 ∧ ∃ h m, farHandle e = some h ∧ m ∈ farDies s cl k e h.1 ∧ moduleDie s m = none))) ∧
        (farRefused s cl k e = none → ok = true → ∀ f h, e.op.instr = .xamo f → xamoHome s cl k e f = some h →
          let n := xamoBytes f
          ∃ u, stepOver t u cl k (e.done + 1) ∧ (∀ l, h = some l →
            let old := leNat (readHome s l n)
            (f.gp = 0 → readHome u l n =
              leBytes n (amoNew f.op.toNat n old ((opG e.op 1).toNat % 2 ^ (8 * n)) ((opG e.op 2).toNat % 2 ^ (8 * n)))) ∧
            (f.gp ≠ 0 → readHome u (xamoOld s cl e) 8 = leBytes 8 old))) ∧
        (farRefused s cl k e = none → ok = true → (copyView e.op).isSome = true → stepEnds s t cl k e) }
  | .evCollectiveStep cl p => some {
      may := fun s => ∃ k e q, current s cl 1 = some (k, e) ∧ opMoves s cl e = true ∧ collForm e.op.instr = some q ∧ e.stop = none ∧
        e.todo = none ∧ e.state.terminal = false ∧ opLogged (getCluster s cl) k = false ∧
        let c := tabGet {} (collKey e.bundle q.2.comm.toNat (collNo s cl e.bundle q.2.comm.toNat - 1)) s.colls
        (p.agree = false ∧ c.failed = none) ∨ (collCause s c p = none ∧
          ((collGives s cl k e q.1 q.2 p).bind (fun bs => onePiece s cl (collSides e q.2).1 (e.done * 65536) bs)).isSome = true)
      does := fun s t => ∀ k e, current s cl 1 = some (k, e) →
        (p.agree = false → EndedAs t cl k e .faulted 0x30C) ∧
        (p.agree = true → ∃ u, stepOver t u cl k (e.done + 1) ∧ ∀ q bs a l, collForm e.op.instr = some q → collGives s cl k e q.1 q.2 p = some bs →
          onePiece s cl (collSides e q.2).1 (e.done * 65536) bs = some (a, l) → readHome u (.pool cl a) l.length = l) }
  | .evCbarComplete cl ok => some {
      may := fun s => enginesRun s cl = true ∧ ∃ k e f, current s cl 1 = some (k, e) ∧ e.op.instr = .cbar f ∧ ok = true ∧
        e.state.terminal = false ∧
        (localRanks s (commRanks s e.bundle f.comm.toNat)).all
          (fun r => (tabFind r.1 (tabGet {} (collKey e.bundle f.comm.toNat (collNo s cl e.bundle f.comm.toNat - 1)) s.colls).ranks).isSome) = true ∧
        collCause s (tabGet {} (collKey e.bundle f.comm.toNat (collNo s cl e.bundle f.comm.toNat - 1)) s.colls) ⟨true, false, []⟩ = none
      does := fun s t => ∀ k e, current s cl 1 = some (k, e) → EndedWell s t cl k e }
  | .evMessageArrival cl ep p tag bs => some {
      may := fun s => ∃ q, clusterPart s cl = some q ∧ (portOff s (epKey q ep) = true ∨ (tabGet {} (epKey q ep) s.endpoints).posted = [])
      does := fun s t => ∀ q, clusterPart s cl = some q → t.mem = s.mem ∧ (portOff s (epKey q ep) = true → t = s) ∧
        (portOff s (epKey q ep) = false →
          let old := tabGet {} (epKey q ep) s.endpoints
          let new := tabGet {} (epKey q ep) t.endpoints
          (new.waiting = old.waiting ++ [(p, tag, bs)] ∧ new.lost = old.lost) ∨ (new.waiting = old.waiting ∧ new.lost = old.lost + 1)) }
  | .evRemoteRegionAccess ep rg off wr bs n => some {
      may := fun s => wr = true → (regionTarget s ep rg off (min n bs.length) true).isSome = true
      does := fun s t => ((wr = false ∨ (packetTaken s ep).1 = false) → t = (packetTaken s ep).2) ∧
        (wr = true → (packetTaken s ep).1 = true → ∀ l : List Loc, regionTarget s ep rg off (min n bs.length) true = some l →
          (∀ a ∈ l, poolHeld s a = false ∧ readBad s a 1 = none) → l.Nodup →
          ∀ (j : Nat) (a : Loc) (b : Byte), l[j]? = some a → bs[j]? = some b → readHome t a 1 = [b]) }
  | .evEthernetRetryExhausted cl eng => some {
      may := fun s => ∃ k e, current s cl eng = some (k, e) ∧ e.state.terminal = false ∧
        ((netSide e).isSome = true ∨ (((collForm e.op.instr).isSome = true ∨ (∃ f, e.op.instr = .cbar f)) ∧
          (commRec s e.bundle (commOf e.op.instr)).eth = true))
      does := fun s t => ∀ k e, current s cl eng = some (k, e) → EndedAs t cl k e .faulted 0x382 }
  | .evMessageAcknowledged cl eng ok bs => some {
      may := fun s => enginesRun s cl = true ∧ ∃ k e d, activeNet s cl eng = some (k, e) ∧ e.stop = none ∧ netSide e = some d ∧
        e.state.terminal = false ∧ (ok = false ∨ (netWrites e.op.instr = true ∧ opLogged (getCluster s cl) k = false ∧
            (onePiece s cl d.1 0 (answer d.1 bs)).isSome = true) ∨
          (netWrites e.op.instr = false ∧ ∃ l u, readStream s cl k e d.1 0 (lyBytes d.1.y) = .ok l u))
      does := fun s t => ∀ k e d, activeNet s cl eng = some (k, e) → netSide e = some d →
        (ok = false → EndedAs t cl k e .faulted 0x384) ∧
        (ok = true → ∃ u, stepOver t u cl k 1 ∧ (∀ a l, netWrites e.op.instr = true → onePiece s cl d.1 0 (answer d.1 bs) = some (a, l) →
            readHome u (.pool cl a) l.length = l) ∧
          (e.total ≤ 1 → EndedWell u t cl k e)) }
  | .evEngineHeadAging cl eng => some {
      may := fun _ => True
      does := fun s t => ∀ h e, h ∈ engHeads (getCluster s cl) eng → tok s cl h.2 = some e →
        tabFind (engQueue eng h.1) (getCluster t cl).aged =
          if 2048 ≤ s.tick - e.op.since then some h.2 else tabFind (engQueue eng h.1) (getCluster s cl).aged }
  | _ => none

/-- The handler of the function of FEMODE bit `b` runs for `key`: a skerry has it, or the host has served its part (R390, R391). -/
def inHand (s : State) (b key : Nat) : Bool := handled s b key || s.hub.answers.contains (b, key)

/-- The state in which that handler acts: its skerry is idle again, or the host's answer is used. -/
def inHandler (s : State) (b key : Nat) : State := (assist s b 0 0 key).2

/-- The launch of queue `q` that may become resident on `places` now, with the nodes of its records; `early` while its predecessor is
still resident (R374, R378, R387). -/
def launchable (s : State) (q : Nat) (places : NatPairs) (early : Bool) : Option (PLaunch × Except Cause (List Node)) :=
  match (getQueue s q).launch with
  | none => none
  | some l =>
    if (getQueue s q).state = .active ∧ (getQueue s q).resetting = false ∧ (getQueue s q).stopped = false ∧ muted s (queueOwner s q).1 = false ∧
      s.hub.boot = .ready ∧ l.gang = none ∧ l.wait = none ∧ firstLaunch s q l = true ∧ inHand s 0 (dispatchKey q) = true ∧
      placesOk s (getFn s (queueOwner s q).1).tenant (queueOwner s q).2 l.nodes places = true ∧
      (if early then (residents s q).length = 1 ∧ (residents s q).all (fun b => b.2.nextok) = true ∧ l.clean = true ∧ l.count = none
        else (residents s q).isEmpty = true ∨ (l.count.isSome = true ∧ (residents s q).length ≤ 1))
    then match feRead (inHandler s 0 (dispatchKey q)) (queueWho s q .launch) l.addr.toNat (64 * l.nodes) with
      | .ok bs _ => some (l, recordNodes l.nodes l.nodes 0 bs)
      | _ => none
    else none

/-- A launch becomes resident, or its queue enters ERROR at the launch when a node record is invalid (R373–R375). -/
def resident (q : Nat) (places : NatPairs) (early : Bool) : Move where
  may s := (launchable s q places early).isSome = true
  does s t := (∀ l ns, launchable s q places early = some (l, .ok ns) →
      (getQueue t q).launch = none ∧ ∃ b v, (b, v) ∈ t.bundles ∧ v.queue = q ∧ v.addr = l.addr ∧ v.recAddr = l.recAddr ∧ v.key = l.key ∧
        v.nodes.length = ns.length ∧ v.resident = podTick s ∧ v.retired = false ∧ v.pred = ((residents s q).getLast?).map (·.1) ∧
        ∀ p ∈ places, (getCluster t p.2).node = some (b, p.1)) ∧
    ∀ l c, launchable s q places early = some (l, .error c) →
      (getQueue t q).state = .error ∧ (getQueue t q).cause = c ∧ (getQueue t q).ridx = l.idx

/-- The handles of a node's table, where they can be loaded now (R427). -/
def handlesOf (s : State) (b n tag cl : Nat) : Option (List HReg) :=
  match startHandles s (startWho s b tag) b n cl with
  | .ok l _ => some l
  | _ => none

/-- Continuation `k` runs on context `c` as R384 loads it. -/
def Runs (t : State) (c : Nat) (k : Cont) : Prop :=
  (getCtx t c).run = true ∧ (getCtx t c).cont.cid = k.cid ∧ (getCtx t c).cont.wid = k.wid ∧ (getCtx t c).pc = k.pc ∧
    (getCtx t c).handler = false ∧ (getCtx t c).gEmpty = 0 ∧ (getCtx t c).stream = [] ∧
    (getCtx t c).gval 1 = k.g1 ∧ (getCtx t c).gval 2 = k.g2 ∧ (getCtx t c).gval 3 = k.g3

/-- The entry that place `n` past the ready pools names on a cluster's list (R382). -/
def listed (s : State) (n : Nat) : Option (Nat × Cont) :=
  if n < s.ready.length then none else (s.clusters.flatMap (fun c => c.2.ready.map (fun k => (c.1, k))))[n - s.ready.length]?

/-- Steps of the scheduler: work for free contexts (R381–R385, R415), bundles that become resident (R374, R377, R387) and that retire
(R379). -/
def workMoves : Instr → Option Move
  | .evReadyEntryAging n => some {
      may := fun s => (∃ e, s.ready[n]? = some e ∧ 65536 ≤ s.tick - e.2.since ∧ e.2.pri ≠ 3) ∨
        ∃ e, listed s n = some e ∧ 65536 ≤ s.tick - e.2.since ∧ e.2.pri ≠ 3
      does := fun s t =>
        (∀ e, s.ready[n]? = some e → t = { s with ready := s.ready.eraseIdx n ++ [(e.1, { e.2 with pri := 3 })] }) ∧
        ∀ e, listed s n = some e →
          (getCluster t e.1).ready = (getCluster s e.1).ready.filter (fun j => j.cid ≠ e.2.cid) ++ [{ e.2 with pri := 3 }] }
  | .evWorkRequest core => some {
      may := fun s => mayStart s (core / 4) = true ∧ (freeOf s core).isEmpty = false ∧
        ∃ k, localReady s (core / 4) = some k ∧ (handlesOf s k.bundle k.node k.cid (core / 4)).isSome = true
      does := fun s t => ∀ c k, (freeOf s core).head? = some c → ctxCluster c = core / 4 → localReady s (core / 4) = some k → Runs t c k }
  | .evRangeTaskStart n core => some {
      may := fun s => mayStart s (core / 4) = true ∧ noDispatch s (core / 4) = false ∧ localReady s (core / 4) = none ∧ (freeOf s core).isEmpty = false ∧
        ∃ p v, s.pieces[n]? = some p ∧ p.cur < p.hi ∧
          mostLeft s ((nodePieces s (core / 4) (fun q => q = core / 4)).filter (canStart s core)) = some p ∧
          nodeOf s p.bundle p.node = some v ∧ kindRuns v.kind.toNat = true ∧ v.gsize = 1 ∧ (handlesOf s p.bundle p.node p.id (core / 4)).isSome = true
      does := fun s t => ∀ p c, s.pieces[n]? = some p → (freeOf s core).head? = some c →
        (getCtx t c).run = true ∧ (getCtx t c).cont.wid = BitVec.ofNat 64 p.cur ∧ (getCtx t c).pc = p.pc ∧ (getCtx t c).cont.range = true }
  | .evContinuationResume c cid => some {
      may := fun s => mayStart s (ctxCluster c) = true ∧ (freeOf s (ctxCore c)).contains c = true ∧
        ∃ k, localReady s (ctxCluster c) = some k ∧ k.cid = cid ∧
          (handlesOf s k.bundle k.node cid (ctxCluster c)).isSome = true
      does := fun s t => ∀ k, localReady s (ctxCluster c) = some k → Runs t c k ∧
        ∀ j ∈ (getCluster t (ctxCluster c)).ready, j.cid ≠ cid }
  | .evBundleResident q places => some (resident q places false)
  | .evEarlyStart q places => some (resident q places true)
  | .evXNodeReady b n ps => some {
      may := fun s => ∃ v, nodeOf s b n = some v ∧ v.isX = true ∧ v.deps = 0 ∧ v.ready = false
      does := fun s t => (∃ v, nodeOf t b n = some v ∧ v.ready = true) ∧ ∀ v, nodeOf s b n = some v →
        (∀ r, r ∈ commRanks t b (4095 - n) ↔ (∃ cl ∈ v.clusters, r = (podDie s (cl / 12), cl % 12)) ∨ r ∈ ps) ∧
        (commRanks t b (4095 - n)).Pairwise (fun a c => a.1 < c.1 ∨ (a.1 = c.1 ∧ a.2 < c.2)) }
  | .evNodeRetire b n => some {
      may := fun s => ∃ v, nodeOf s b n = some v ∧ v.ready = true ∧ v.retired = false ∧ v.held = false ∧ nodeDone s b n = true ∧ v.succ.getLsbD n = false
      does := fun s t => (∃ v, nodeOf t b n = some v ∧ v.retired = true) ∧ (∀ p ∈ t.pieces, p.bundle = b → p.node ≠ n) ∧
        ∀ v, nodeOf s b n = some v → ∀ cl ∈ v.clusters, (getCluster t cl).node = none }
  | .evBundleRetire b => some {
      may := fun s => ∃ v, tabFind b s.bundles = some v ∧ v.nodes.all Node.retired = true ∧
        s.net.any (fun p => p.bundle = b && !p.applied && !p.refused) = false ∧
        (muted s (jobFn s b) = true ∨ ∃ u, feWrite s (queueWho s v.queue .record) v.recAddr.toNat (completionRecord s v) = .ok () u)
      does := fun _ t => tabFind b t.bundles = none ∧ ∀ c ∈ t.comms, c.1 / 4096 ≠ b }
  | _ => none

/-- The packet of type `ty` at the head of a queue, with the values of its fields after delta coding (R370–R372); none while parsing holds
or its handler does not run yet. -/
def packetAt (s : State) (q ty : Nat) : Option (State × Nat × List RWord) :=
  match headPacket s q with
  | .ok u y n mask ws =>
    if y = ty ∧ inHand u 0 q = true then
      some (inHandler u 0 q, n, deltaFields ((fieldSizes ty).getD []) mask ws (tabGet [] ty (getQueue u q).bases))
    else none
  | _ => none

/-- A packet that is parsed: `err` gives the cause that refuses its fields, `hold` that it waits; a parsed one is passed and has the
effect `eff` on its queue, a refused one puts the queue into ERROR (R371–R373). -/
def parses (q ty : Nat) (err : State → List RWord → Option Cause) (hold : State → List RWord → Bool)
    (eff : State → List RWord → Queue → Prop) : Move where
  may s := ∃ u n ws, packetAt s q ty = some (u, n, ws) ∧ (getQueue u q).state = .active ∧ ((err u ws).isSome = true ∨ hold u ws = false)
  does s t := ∀ u n ws, packetAt s q ty = some (u, n, ws) →
    match err u ws with
    | some c => (getQueue t q).state = .error ∧ (getQueue t q).cause = c ∧ (getQueue t q).ridx = (getQueue u q).ridx
    | none => (getQueue t q).ridx = (getQueue u q).ridx + BitVec.ofNat 32 n ∧ tabGet [] ty (getQueue t q).bases = ws ∧ eff u ws (getQueue t q)

/-- The launch of a LAUNCH or INDIRECT packet. -/
def launchOf (u : State) (q : Nat) (ws : List RWord) (l : PLaunch) : Prop :=
  l.idx = (getQueue u q).ridx ∧ l.addr = word2 ws 0 ∧ l.nodes = (ws.getD 2 0).toNat % 16 ∧ l.key = (ws.getD 2 0).extractLsb' 16 16 ∧
    l.recAddr = word2 ws 3 ∧ l.gang = (getQueue u q).gang ∧ l.count = none

/-- The host port lets a function's command through (R479, R485). -/
def portOpen (s : State) (q : Nat) : Prop := s.hub.boot = .ready ∧ muted s (queueOwner s q).1 = false

/-- Steps of the hardware queues: announcements (R367–R369), commands (R366, R392), packets (R370–R373, R388, R389), and what waits for
them (R295, R379, R498). -/
def queueMoves : Instr → Option Move
  | .evLaunchr q bs _ => some {
      may := fun s => portOpen s q ∧ (getQueue s q).state = .active ∧ 4 ≤ bs.length
      does := fun s t =>
        let w : BitVec 32 := leWord 32 (bs.take 4)
        let v := getQueue s q
        if w = v.widx then t = s
        else if (w - v.widx).msb || v.ringWords < (w - v.ridx).toNat then
          (getQueue t q).state = .error ∧ (getQueue t q).cause = 0x0A2 ∧ (getQueue t q).widx = v.widx
        else (getQueue t q).widx = w ∧ (getQueue t q).ridx = v.ridx ∧ (getQueue t q).state = .active }
  | .evEnable q => some {
      may := fun s => portOpen s q ∧ (getQueue s q).state = .disabled
      does := fun s t =>
        let v := getQueue s q
        if v.qbase.toNat % (4 * v.ringWords) = 0 && v.qcfg.toNat % 16 != 15 && v.qcfg.toNat / 16 = 0 && fnRuns s (queueOwner s q).1 then
          (getQueue t q).state = .active ∧ (getQueue t q).widx = 0 ∧ (getQueue t q).ridx = 0 ∧ (getQueue t q).bases = [] ∧ (getQueue t q).cause = 0
        else (getQueue t q).state = .disabled ∧ (getQueue t q).cause = 0x0A2 }
  | .evReset q => some {
      may := fun s => portOpen s q ∧ ((getQueue s q).state = .active ∨ (getQueue s q).state = .error)
      does := fun s t => (getQueue t q).launch = none ∧ if (residents s q).isEmpty then
          (getQueue t q).state = .active ∧ (getQueue t q).widx = 0 ∧ (getQueue t q).ridx = 0 ∧ (getQueue t q).cause = 0
        else (getQueue t q).resetting = true ∧ (getQueue t q).state = (getQueue s q).state }
  | .evDestroy q => some {
      may := fun s => portOpen s q ∧ ((getQueue s q).state = .active ∨ (getQueue s q).state = .error)
      does := fun s t => (getQueue t q).launch = none ∧
        (getQueue t q).state = (if (residents s q).isEmpty then .disabled else .draining) ∧
        ∀ b ∈ residents s q, ∀ p ∈ t.pieces, p.bundle = b.1 → p.hi ≤ p.cur }
  | .evDestroyWithDeadline q => some {
      may := fun s => portOpen s q ∧ ((getQueue s q).state = .active ∨ (getQueue s q).state = .error)
      does := fun s t => (getQueue t q).launch = none ∧
        (getQueue t q).state = (if (residents s q).isEmpty then .disabled else .draining) ∧
        ((residents s q).isEmpty = false → (getQueue t q).armed = true) }
  | .evDestroyDeadlineExpiry q => some {
      may := fun s => (getQueue s q).state = .draining ∧ (getQueue s q).armed = true ∧ (getQueue s q).deadline.toNat ≤ podTick s
      does := fun s t => (getQueue t q).armed = false ∧ ∀ c, (getCtx t c).run = true → (getCtx t c).cont.bundle ∉ (residents s q).map (·.1) }
  | .evPad q => some (parses q 0 (fun _ _ => none) (fun _ _ => false) (fun _ _ _ => True))
  | .evNopPacket q => some (parses q 7 (fun _ _ => none) (fun _ _ => false) (fun _ _ _ => True))
  | .evLaunch q => some (parses q 1 (fun u ws => launchCause u q ws) (fun u _ => !launchRoom u q) (fun u ws v =>
      ∃ l, v.launch = some l ∧ launchOf u q ws l ∧ l.wait = none ∧ v.gang = none))
  | .evIndirect q => some (parses q 5
      (fun u ws => if (word2 ws 5).toNat % 4 ≠ 0 ∨ (word2 ws 7).toNat % 4 ≠ 0 ∨ 5 < (ws.getD 9 0).toNat then some 0x0A3 else launchCause u q ws)
      (fun u _ => !((getQueue u q).launch.isNone && decide ((residents u q).length ≤ 1)))
      (fun u ws v => ∃ l, v.launch = some l ∧ launchOf u q ws l ∧
        l.wait = some ⟨word2 ws 5, word2 ws 7, (ws.getD 9 0).toNat, (ws.getD 10 0).toNat⟩))
  | .evGang q => some (parses q 4 (fun _ _ => none) (fun _ _ => false) (fun u ws v =>
      if (word2 ws 0).toNat < (podTick u).toNat then v.gang = none ∧ v.gangLate = true else v.gang = some (word2 ws 0) ∧ v.gangLate = false))
  | .evSignal q => some (parses q 3 (fun _ ws => if (word2 ws 0).toNat % 8 ≠ 0 ∨ 2 < (ws.getD 4 0).toNat then some 0x0A3 else none)
      (fun _ _ => false) (fun u ws v => v.clean = false ∧ ∃ n, v.acts = (getQueue u q).acts ++
        [⟨(getQueue u q).ridx, n, word2 ws 0, word2 ws 2, some (ws.getD 4 0).toNat⟩]))
  | .evTimestamp q => some (parses q 6 (fun _ ws => if (word2 ws 0).toNat % 8 ≠ 0 then some 0x0A3 else none)
      (fun _ _ => false) (fun u ws v => ∃ n, v.acts = (getQueue u q).acts ++ [⟨(getQueue u q).ridx, n, word2 ws 0, 0, none⟩]))
  | .evFencePacket q => some {
      may := fun s => ∃ u n mask ws, headPacket s q = .ok u 2 n mask ws ∧ inHand u 0 q = true ∧
        (fenceCounters 16 mask ws).all (fun c => c.1.toNat % 4 = 0 && c.2.1 ≤ 5) = true
      does := fun s t => ∀ u n mask ws, headPacket s q = .ok u 2 n mask ws → (getQueue t q).hold = some (fenceCounters 16 mask ws, n) ∧
        (getQueue t q).ridx = (getQueue u q).ridx }
  | .evFenceCountersMet q => some {
      may := fun s => (getQueue s q).state = .active ∧ (getQueue s q).resetting = false ∧
        ∃ l n u, (getQueue s q).hold = some (l, n) ∧ countersMet (queueWho s q .parse) l s = .ok true u
      does := fun s t => ∀ l n u, (getQueue s q).hold = some (l, n) → countersMet (queueWho s q .parse) l s = .ok true u →
        (getQueue t q).hold = none ∧ (getQueue t q).ridx = (getQueue u q).ridx + BitVec.ofNat 32 n ∧ (getQueue t q).clean = false }
  | .evSignalPerform q => some {
      may := fun s => ∃ a u, dueAct s q = some a ∧
        ((a.op = some 0 ∧ feWrite s (queueWho s q .act) a.addr.toNat (wordBytes 8 a.value) = .ok () u) ∨
          (a.op = some 1 ∧ feAdd s (queueWho s q .act) a.addr.toNat a.value = .ok () u) ∨
          (a.op = some 2 ∧ inHand s 2 q = true ∧ fireEntry (inHandler s 2 q) (queueOwner s q).1 (a.value.toNat % 4096) = some u))
      does := fun s t => ∀ a u, dueAct s q = some a →
        ((a.op = some 0 → feWrite s (queueWho s q .act) a.addr.toNat (wordBytes 8 a.value) = .ok () u →
          t.mem = u.mem ∧ (getQueue t q).acts = (getQueue u q).acts.tail) ∧
        (a.op = some 1 → feAdd s (queueWho s q .act) a.addr.toNat a.value = .ok () u →
          t.mem = u.mem ∧ (getQueue t q).acts = (getQueue u q).acts.tail) ∧
        (a.op = some 2 → inHand s 2 q = true → fireEntry (inHandler s 2 q) (queueOwner s q).1 (a.value.toNat % 4096) = some u →
          t.mem = s.mem ∧ t.hub.causes = u.hub.causes ∧ t.hub.msix = u.hub.msix ∧ (getQueue t q).acts = (getQueue s q).acts.tail)) }
  | .evTimestampWrite q => some {
      may := fun s => ∃ a u, dueAct s q = some a ∧ a.op = none ∧ feWrite s (queueWho s q .act) a.addr.toNat (wordBytes 8 (podTick s)) = .ok () u
      does := fun s t => ∀ a u, dueAct s q = some a → feWrite s (queueWho s q .act) a.addr.toNat (wordBytes 8 (podTick s)) = .ok () u →
        t.mem = u.mem ∧ (getQueue t q).acts = (getQueue u q).acts.tail }
  | .evIndirectDispatch q => some {
      may := fun s => (getQueue s q).state = .active ∧ (getQueue s q).resetting = false ∧
        ∃ l c bs u, (getQueue s q).launch = some l ∧ l.wait = some c ∧ l.gang = none ∧
          ((c.ctr = 0 ∧ (residents s q).isEmpty = true ∧ feRead s (queueWho s q .launch) c.count.toNat 4 = .ok bs u) ∨
            (c.ctr ≠ 0 ∧ (residents s q).length ≤ 1 ∧ ∃ v, counterMet s (queueWho s q .launch) c.ctr c.cond c.value = .ok true v ∧
              feRead v (queueWho s q .launch) c.count.toNat 4 = .ok bs u))
      does := fun s t => ∀ l c bs u, (getQueue s q).launch = some l → l.wait = some c →
        (c.ctr = 0 → feRead s (queueWho s q .launch) c.count.toNat 4 = .ok bs u →
          (getQueue t q).launch = some { l with wait := none, count := some (leNat bs) }) ∧
        (c.ctr ≠ 0 → ∀ v, counterMet s (queueWho s q .launch) c.ctr c.cond c.value = .ok true v →
          feRead v (queueWho s q .launch) c.count.toNat 4 = .ok bs u →
          (getQueue t q).launch = some { l with wait := none, count := some (leNat bs) }) }
  | .evGangTickReached q => some {
      may := fun s => ∃ l w, (getQueue s q).launch = some l ∧ l.gang = some w ∧ w.toNat ≤ (podTick s).toNat
      does := fun s t => ∀ l, (getQueue s q).launch = some l → (getQueue t q).launch = some { l with gang := none } ∧ t.mem = s.mem }
  | .evFrontEndAccessFault q c => some {
      may := fun s => refusedPart s q .parse c = true ∧ (getQueue s q).state = .active
      does := fun s t => (getQueue t q).state = .error ∧ (getQueue t q).cause = c ∧ (getQueue t q).ridx = (getQueue s q).ridx ∧
        (getQueue t q).hold = none }
  | _ => none

/-- The request that a value of RESSEQ names, if it waits for an answer (R486). -/
def answered (s : State) (v : Word) : Option (Nat × HubEvent) := s.hub.posted.find? (fun e => e.1 = v.toNat % 2 ^ 32)

/-- Steps of the hub (R390, R446–R448, R451, R486): event records and answers, register writes, the partition table, job keys and TDISP. -/
def hubMoves : Instr → Option Move
  | .evSkerryTakeEvent k => some {
      may := fun s => s.hub.boot = .ready ∧ k < 16 ∧ tabFind k s.hub.skerries = none ∧ ∃ e ∈ s.hub.events, lockHeld s e.lock = false
      does := fun s t => ∃ n e, s.hub.events[n]? = some e ∧ lockHeld s e.lock = false ∧ (∀ d ∈ s.hub.events.take n, lockHeld s d.lock = true) ∧
        t.hub.events = s.hub.events.eraseIdx n ∧ tabFind k t.hub.skerries = some (takeMode s e, s.tick) }
  | .evHandlerWatchdog k => some {
      may := fun s => ringTakes s.hub = true ∧ ∃ e w, tabFind k s.hub.skerries = some (e, w) ∧ moot s e = false ∧ 20000 < s.tick - w
      does := fun s t => tabFind k t.hub.skerries = none ∧ ∀ e w, tabFind k s.hub.skerries = some (e, w) →
        (e.tries = 0 → t.hub.events = { e with tries := 1, host := false } :: s.hub.events) ∧
        (e.tries ≠ 0 → (∃ d ∈ t.hub.events, d.cause = 0x0A7) ∧
          (e.lock < 4096 → (getQueue s e.lock).state = .active → (getQueue t e.lock).state = .error ∧ (getQueue t e.lock).cause = 0x0A7)) }
  | .evEventRecordWrite => some {
      may := fun s => ringTakes s.hub = true ∧ ∃ k e w, oldestSkerry s = some (k, e, w) ∧ muted s e.fn = false
      does := fun s t => ∀ k e w, oldestSkerry s = some (k, e, w) →
        (memRead t.mem (s.hub.evrbase.toNat + 64 * (s.hub.evrwidx.toNat % ringEntries s.hub)) 64 =
          recordBytes e (s.hub.evseq % 2 ^ 32)) ∧
        t.hub.evrwidx = s.hub.evrwidx + 1 ∧ (∃ l, t.hub.msix = s.hub.msix ++ (0, 4096) :: l ∧ (e.bit ≠ 0xFFFF → l = [])) ∧
        tabFind k t.hub.skerries = none ∧ (e.bit ≠ 0xFFFF → t.hub.posted = s.hub.posted ++ [(s.hub.evseq % 2 ^ 32, e)]) }
  | .evResseq v => some {
      may := fun s => s.hub.boot = .ready ∧ muted s 0 = false ∧ ∀ n e, answered s v = some (n, e) → underReset s e.fn = true ∨ (e.bit ≠ 1 ∧ e.bit ≠ 6)
      does := fun s t => (answered s v = none → t = s) ∧ ∀ n e, answered s v = some (n, e) →
        if underReset s e.fn = true then t = s
        else t.hub.resseq = v ∧ t.hub.posted = s.hub.posted.erase (n, e) ∧ t.hub.answers = s.hub.answers ++ [(e.bit, e.source)] }
  | .evEvrridx v => some {
      may := fun s => s.hub.boot = .ready ∧ muted s 0 = false
      does := fun s t => if 2 ^ (6 + s.hub.evrcfg.toNat % 16) < (s.hub.evrwidx - v.setWidth 32).toNat then t = s
        else t = { s with hub := { s.hub with evrridx := v.setWidth 32 } } }
  | .evRegisterWrite f bar off v => some {
      may := fun s => s.hub.boot = .ready ∧ muted s f = false ∧
        ((f = 0 ∧ bar = 2 ∧ off = 0x2038) ∨ (f ≤ 64 ∧ bar = 0 ∧ off % 4096 = 0x40 ∧ (moduleQueue s f (off / 4096)).isSome = true))
      does := fun s t => t.mem = s.mem ∧
        (bar = 2 → t.hub.mpctl = if 1 ≤ v.toNat ∧ v.toNat ≤ 1000000 then v.toNat else s.hub.mpctl) ∧
        (bar = 0 → ∀ q, moduleQueue s f (off / 4096) = some q →
          (getQueue t q).qbase = if (getQueue s q).state = .disabled then v else (getQueue s q).qbase) }
  | .evPartitionTableWrite p bs => some {
      may := fun s => s.hub.boot = .ready ∧ muted s 0 = false ∧ p ≠ 0 ∧ p < 256 ∧ partBytesOk bs = true ∧
        (tabGet {} p s.parts).state = 1 ∧ partOverlaps s p (partOf bs) = false ∧ shareSum s p (partOf bs) ≤ 256 ∧ (partOf bs).state ≠ 3 ∧
        ∀ f, 1 ≤ f → f ≤ 64 → (tabGet {} p s.parts).vfs.getLsbD (f - 1) ≠ (partOf bs).vfs.getLsbD (f - 1) → (getFn s f).tdisp = .unlocked
      does := fun s t => tabGet {} p t.parts = partOf bs ∧ t.mem = s.mem ∧
        ∀ f, 1 ≤ f → f ≤ 64 → (partOf bs).vfs.getLsbD (f - 1) = true → (tabGet {} p s.parts).vfs.getLsbD (f - 1) = false → (getFn t f).part = p }
  | .evJobKeyRegister p key => some {
      may := fun s => s.hub.boot = .ready ∧ muted s 0 = false ∧ key < 2 ^ 16 ∧ p < 256
      does := fun s t => if (tabFind key s.jobKeys).any (fun o => o ≠ p) then t = s
        else tabFind key t.jobKeys = some p ∧ ∀ k, k < 64 → (tabGet {} p s.parts).straits.getLsbD k = true →
          (tabGet {} k s.straits).keys.length < 64 → key ∈ (tabGet {} k t.straits).keys }
  | .evTdispLock f => some {
      may := fun s => s.hub.boot = .ready ∧ 1 ≤ f ∧ f ≤ 64 ∧ (getFn s f).tdisp = .unlocked ∧ underReset s f = false
      does := fun s t => getFn t f = { getFn s f with tdisp := .locked } ∧ t.mem = s.mem ∧ ∀ kd,
        tabGet {} kd t.domains = tabGet {} kd s.domains ∨ (kd ≠ 0 ∧ kd < 4096 ∧ (tabGet {} kd s.domains).state = 0 ∧
          tabGet {} kd t.domains = { tabGet {} kd s.domains with state := 1, owner := (getFn s f).tenant }) }
  | .evTdispStart f => some {
      may := fun s => s.hub.boot = .ready ∧ 1 ≤ f ∧ f ≤ 64 ∧ (getFn s f).tdisp = .locked ∧ underReset s f = false
      does := fun s t => getFn t f = { getFn s f with tdisp := .run } ∧ t.mem = s.mem }
  | .evTdispStop f => some {
      may := fun s => s.hub.boot = .ready ∧ 1 ≤ f ∧ f ≤ 64 ∧ ((getFn s f).tdisp = .run ∨ (getFn s f).tdisp = .error) ∧ underReset s f = false
      does := fun s t => (getFn t f).reset = 1 ∧ (getFn t f).killed = 0 ∧ (getFn t f).tdisp = (getFn s f).tdisp ∧ t.mem = s.mem }
  | _ => none

/-- The 64 bytes of a command of code `c` as a mailbox takes it, and the function for whose tenant it acts (R426): the port is open, no
command is busy, and every byte that the command does not name is zero. -/
def commandOf (s : State) (f c : Nat) (cmd : Bytes) : Option (List Byte × Nat) :=
  let bs := (BitVec.ofNat 8 c :: cmd.drop 1 ++ List.replicate 64 0).take 64
  if s.hub.boot = .ready ∧ muted s f = false ∧ (getAuth s f).busy = false ∧ cmdNat bs 1 1 = 0 ∧ (f = 0 ∨ cmdNat bs 2 2 = 0) ∧
    zeroBut bs ((0, 4) :: authFields c) = true then (cmdFn s f bs).map (fun k => (bs, k)) else none

/-- A command that the authority acts on: the function that it names is in RUN (R448). -/
def commanded (s : State) (f c : Nat) (cmd : Bytes) : Option (List Byte × Nat) := (commandOf s f c cmd).filter (fun r => fnRuns s r.2)

/-- The address space of the tenant that a command names. -/
def spaceFor (s : State) (k : Nat) : Nat := fnSpace s k (getFn s k).part

/-- The slot of an address space. -/
def slotOf (s : State) (space k : Nat) : Slot := tabGet {} (slotKey space k) s.slots

/-- REVOKE and FREE: accepted for a live slot when no revocation of the function is in progress; else refused with status 8, 2 or 5
(R426, R436). -/
def revokes (f c : Nat) (cmd : Bytes) : Move where
  may s := (commanded s f c cmd).isSome = true
  does s t := ∀ bs k, commanded s f c cmd = some (bs, k) →
    let n := cmdNat bs 8 4
    let v := slotOf s (spaceFor s k) n
    if 2 ^ 20 ≤ n then (getAuth t f).status = 5 ∧ t.slots = s.slots
    else if (getAuth s f).phase = 1 ∨ (getAuth s f).phase = 2 then (getAuth t f).status = 8 ∧ t.slots = s.slots
    else if n < 0x40 ∨ v.live = false ∨ v.revoking = true then (getAuth t f).status = 2 ∧ t.slots = s.slots
    else (getAuth t f).status = 0 ∧ (getAuth t f).phase = 1 ∧ (getAuth t f).freeing = (c = 4) ∧
      slotOf t (spaceFor s k) n = { v with revoking := true }

/-- The endpoint that a command names (R435). -/
def endpointOf (s : State) (k : Nat) (bs : List Byte) : Nat := (getFn s k).part * 256 + cmdNat bs 8 2

/-- The arguments of EPSET are in range: a peer's entry, or a region with a handle of kind 0 or 1 (R426, R435). -/
def epsetGood (bs : List Byte) : Bool :=
  cmdNat bs 8 2 < 256 && ((cmdNat bs 10 1 = 0 && cmdNat bs 12 2 < 1024) || (cmdNat bs 10 1 = 1 && cmdNat bs 12 2 < 256 && cmdNat bs 49 15 = 0 &&
    cmdNat bs 48 1 < 4 && hKind (leWord 256 ((bs.drop 16).take 32)) ≤ 1))

/-- Steps of the authority (R426, R427, R435, R436), of the rotation walkers (R440–R443) and of the scrub (R445). -/
def authorityMoves : Instr → Option Move
  | .evAlloc f cmd => some {
      may := fun s => ∃ bs k, commanded s f 1 cmd = some (bs, k)
      does := fun s t => ∀ bs k, commanded s f 1 cmd = some (bs, k) →
        if allocArgsOk (cmdNat bs 8 8) (cmdNat bs 16 8) (cmdNat bs 25 1) = false then (getAuth t f).status = 5 ∧ t.slots = s.slots
        else ((getAuth t f).status = 4 ∧ t.slots = s.slots) ∨ ∃ n, freeSlot s (spaceFor s k) = some n ∧ (getAuth t f).status = 0 ∧
          (getAuth t f).slotNo = n ∧ (slotOf t (spaceFor s k) n).live = true ∧ (slotOf t (spaceFor s k) n).base = BitVec.ofNat 64 (cmdNat bs 8 8) ∧
          (slotOf t (spaceFor s k) n).len = cmdNat bs 16 8 ∧ (slotOf t (spaceFor s k) n).gen = (slotOf s (spaceFor s k) n).gen }
  | .evMint f cmd => some {
      may := fun s => (commandOf s f 2 cmd).isSome = true
      does := fun s t => ∀ bs k, commandOf s f 2 cmd = some (bs, k) →
        if fnRuns s k = false then (getAuth t f).status = 1 ∧ t.mem = s.mem
        else if cmdNat bs 32 8 % 32 ≠ 0 then (getAuth t f).status = 5 ∧ t.mem = s.mem
        else if mintStatus s (spaceFor s k) k (mintReq bs) ≠ 0 then
          (getAuth t f).status = BitVec.ofNat 8 (mintStatus s (spaceFor s k) k (mintReq bs)) ∧ t.mem = s.mem
        else ∀ u, feWrite (modAuth s f (fun a => { a with mail := bs, cmd := bs })) (mintWho s f k) (cmdNat bs 32 8)
            (leBytes 32 (mintBits s (spaceFor s k) (mintReq bs)).toNat) = .ok () u →
          (getAuth t f).status = 0 ∧ (getAuth t f).busy = false ∧ t.mem = u.mem }
  | .evRevoke f cmd => some (revokes f 3 cmd)
  | .evFree f cmd => some (revokes f 4 cmd)
  | .evRotate f cmd => some {
      may := fun s => ∃ bs k, commanded s f 5 cmd = some (bs, k) ∧ cmdNat bs 8 2 < 4096
      does := fun s t => ∀ bs k, commanded s f 5 cmd = some (bs, k) →
        let d := tabGet {} (cmdNat bs 8 2) s.domains
        if f ≠ 0 ∧ (d.state = 0 ∨ d.owner ≠ (getFn s k).tenant) then (getAuth t f).status = 6 ∧ t.domains = s.domains
        else if d.state ≠ 1 then (getAuth t f).status = 7 ∧ t.domains = s.domains
        else (getAuth t f).status = 0 ∧ tabGet {} (cmdNat bs 8 2) t.domains = { d with state := 2, marks := [] } }
  | .evEpset f cmd => some {
      may := fun s => ∃ bs k, commanded s f 6 cmd = some (bs, k) ∧ (f = 0 ∨ ((tabGet {} (endpointOf s k bs) s.endpoints).tenant = (getFn s k).tenant ∧
        (tabFind (endpointOf s k bs) s.endpoints).isSome = true))
      does := fun s t => ∀ bs k, commanded s f 6 cmd = some (bs, k) →
        let key := endpointOf s k bs
        let e := tabGet {} key t.endpoints
        if epsetGood bs = true then
          (getAuth t f).status = 0 ∧ e.tenant = (getFn s k).tenant ∧
          (tabFind key s.endpoints = none → e.port = Config.endpointPort key % 4) ∧
          (∀ o, tabFind key s.endpoints = some o → e.port = o.port) ∧
          (cmdNat bs 10 1 = 0 → tabFind (cmdNat bs 12 2) e.peers = some (leWord 384 (bs.drop 16))) ∧
          (cmdNat bs 10 1 = 1 → tabFind (cmdNat bs 12 2) e.regions = some (leWord 256 ((bs.drop 16).take 32), bs.getD 48 0))
        else (getAuth t f).status = 5 ∧ t.endpoints = s.endpoints }
  | .evRevocationTablesDone f => some {
      may := fun s => (getAuth s f).phase = 1
      does := fun s t => (getAuth t f).phase = 2 ∧
        (slotOf t (getAuth s f).space (getAuth s f).revSlot).gen = (slotOf s (getAuth s f).space (getAuth s f).revSlot).gen + 1 }
  | .evRevocationComplete f => some {
      may := fun s => (getAuth s f).phase = 2 ∧ (getAuth s f).swept = true ∧ capturedOpen s (getAuth s f) = 0
      does := fun s t => (getAuth t f).phase = 3 ∧ (getAuth t f).remaining = 0 ∧
        (slotOf t (getAuth s f).space (getAuth s f).revSlot).revoking = false ∧
        ((getAuth s f).freeing = true → (slotOf t (getAuth s f).space (getAuth s f).revSlot).live = false) }
  | .evRotationWalkerStep kd n => some {
      may := fun s => (tabGet {} kd s.domains).state = 2 ∧ n < 16 ∧ tabGet 0 n (tabGet {} kd s.domains).marks < 2 ^ 30 ∧
        inHand s 5 (kd * 16 + n) = true
      does := fun s t => t.mem = s.mem ∧ tabGet 0 n (tabGet {} kd s.domains).marks < tabGet 0 n (tabGet {} kd t.domains).marks ∧
        ((tabGet {} kd t.domains).state = 2 ∨ ((tabGet {} kd t.domains).state = 1 ∧
          (tabGet {} kd t.domains).version = ((tabGet {} kd s.domains).version + 1) % 256)) }
  | .evContextSwitchScrub cl => some {
      may := fun s => ∃ o, (getCluster s cl).owner = some o ∧ clusterIdle s cl = true ∧ switchDue s cl o = true
      does := fun s t => (getCluster t cl).pool = [] ∧ (getCluster t cl).tiles = [] ∧ (getCluster t cl).flags = [] ∧ (getCluster t cl).owner = none ∧
        (getCluster t cl).node = none ∧ (getCluster t cl).epoch = (getCluster s cl).epoch + 1 ∧ (getCluster t cl).poolpw = (getCluster s cl).poolpw ∧
        (getCluster t cl).slotGen = min ((getCluster s cl).slotGen + 1) (2 ^ 20) ∧ (getCluster t cl).switch = false ∧ t.mem = s.mem ∧
        ∀ c, ctxCluster c = cl → c ∈ ctxNumbers s → (getCtx t c).g = Vector.replicate 60 0 ∧ (getCtx t c).v = Vector.replicate 28 0 ∧
          (getCtx t c).run = false }
  | _ => none

/-- The module starts anew: nothing runs, and its own memory is lost; what the host and other modules hold stays (R488, R496). -/
def Lost (s t : State) : Prop :=
  t.x = {} ∧ t.parked = [] ∧ t.clusters = [] ∧ t.cores = [] ∧ t.queues = [] ∧ t.bundles = [] ∧ t.fns = [] ∧ t.straits = [] ∧
    (∀ a, isHost a = false → isRemote s a = false → memRead t.mem a 1 = memRead [] a 1) ∧
    (∀ a, isHost a = true → memRead t.mem a 1 = memRead s.mem a 1)

/-- Power-on, and a reset by the physical function: boot starts in ROM (R488). -/
def starts : Move := ⟨fun _ => True, fun s t => t.hub.boot = .rom ∧ t.hub.offHot = false ∧ Lost s t⟩

/-- The level of every array of a die rises by two, to 7 at most; the array of a partition that is granted its floor and no more passes 5 only
where the floors of the die's partitions exceed the die's share (R495, R496, log entry 239). -/
def raised (s : State) (d cl : Nat) : Nat :=
  let level := (getCluster s cl).throttle
  if atFloor s cl = true ∧ floorsExceed s d = false then max level (min 5 (level + 2)) else min 7 (level + 2)

/-- A die is under a warning, for its current or its temperature. -/
def throttles (d : Nat) (hot : Bool) : Move where
  may _ := d < 4
  does s t := (getDie t d).warn = true ∧ t.mem = s.mem ∧ (getDie t d).temp = (if hot then max (getDie s d).temp 100 else (getDie s d).temp) ∧
    ∀ cl, cl / 12 = d → (getCluster t cl).throttle = raised s d cl ∧ (getCluster t cl).calm = 0

/-- A strait in one state moves to another; the straits beside it stay. -/
def straitTo (k : Nat) (may : State → Prop) (from_ : StraitState) (new : State → StraitState) : Move where
  may s := may s ∧ (getStrait s k).state = from_
  does s t := (getStrait t k).state = new s ∧ (∀ j, j ≠ k → getStrait t j = getStrait s j) ∧ t.mem = s.mem

/-- Whether a cluster's partition drew more than the grant that its floor and its demand give it (R494). -/
def drewOver (s : State) (demands : NatPairs) (cl : Nat) : Prop :=
  ∃ p e, clusterPart s cl = some p ∧ e ∈ demands ∧ e.1 = p ∧ grantOf s.hub demands p < e.2

/-- The least power that a partition's grant may be (R26, R494): its floor. -/
def floorOf (s : State) (p : Nat) : Nat := tabGet 0 p s.hub.floors

/-- Steps of power, boot and the straits: bandwidth (R449), power and heat (R494–R496), boot (R488, R489), straits (R437, R490) and the pod's
tick (R389, R491). -/
def powerMoves : Instr → Option Move
  | .evBandwidthRefill d => some {
      may := fun _ => d < 4
      does := fun s t => t.mem = s.mem ∧ (getDie t d).spill ≤ ((dieClusters d).map (fun k => tabGet 0 k (getDie s d).tokens)).sum ∧
        ∃ w, (∀ k ∈ w, k / 12 = d ∧ (clusterPart s k).isSome = true) ∧ ∀ cl, cl / 12 = d →
          tabGet 0 cl (getDie t d).tokens = spillOf s w (getDie t d).spill cl + (match clusterPart s cl with
            | none => 0
            | some p => (tabGet {} p s.parts).share * 256000 / 256 / ((List.range 12).filter (fun k => clusterPart s (12 * d + k) = some p)).length) }
  | .evPowerInterval l => some {
      may := fun _ => True
      does := fun s t => t.mem = s.mem ∧ (∀ e ∈ s.hub.floors, ∃ g, (e.1, g) ∈ t.hub.grants ∧ floorOf s e.1 ≤ g) ∧
        (∀ c b, (c, b) ∈ [(0, 1450), (1, 650), (2, 720), (3, 420)] → tabGet 0 c t.hub.classes ≤ b) ∧
        ((List.range 4).map (fun c => tabGet 0 c t.hub.classes)).sum ≤ s.hub.limit - 360 ∧
        (∀ d, d < 4 → 100 ≤ (getDie s d).temp → (getDie t d).temp < 100 ∨ (getDie t d).warn = true) ∧
        ∀ cl, cl < 48 → (getDie s (cl / 12)).temp < 100 →
        (drewOver s l cl → (getCluster t cl).throttle = min 7 ((getCluster s cl).throttle + 1) ∧ (getCluster t cl).calm = 0) ∧
        (¬ drewOver s l cl → if (getDie s (cl / 12)).warn then (getCluster t cl).throttle = (getCluster s cl).throttle ∧ (getCluster t cl).calm = 0
        else if (getCluster s cl).calm < 3 then
          (getCluster t cl).throttle = (getCluster s cl).throttle ∧ (getCluster t cl).calm = (getCluster s cl).calm + 1
        else (getCluster t cl).throttle = (getCluster s cl).throttle - 1 ∧ (getCluster t cl).calm = 0) }
  | .evPowerFloorWrite p v => some {
      may := fun s => s.hub.boot = .ready ∧ p < 256
      does := fun s t => if s.hub.limit - 360 < v.toNat + ((s.hub.floors.filter (fun e => e.1 != p)).map (·.2)).sum then t = s
        else tabFind p t.hub.floors = some v.toNat ∧ t.mem = s.mem }
  | .evOverCurrentWarning d => some (throttles d false)
  | .evThermalThrottle d => some (throttles d true)
  | .evThermalStop d => some {
      may := fun _ => d < 4
      does := fun s t => (getDie t d).stopped = true ∧ (getDie t d).temp = 110 ∧ t.mem = s.mem ∧ ∃ e, t.hub.events = s.hub.events ++ [e] ∧
        e.cause ∈ ([0x0A7, 0x111, 0x112, 0x113, 0x210, 0x213, 0x380] : List Cause) }
  | .evThermalPowerOff => some ⟨fun _ => True, fun s t => t.hub.offHot = true ∧ t.hub.boot = .off ∧ Lost s t⟩
  | .evPowerOn => some starts
  | .evPfReset => some starts
  | .evBootlen v => some {
      may := fun s => s.hub.boot = .waitImg ∨ s.hub.boot = .config
      does := fun s t => t.mem = s.mem ∧
        (s.hub.boot = .waitImg → if 1 ≤ v.toNat ∧ v.toNat ≤ 2 ^ 26 then t.hub.boot = .check ∧ t.hub.imgLen = v.toNat
          else t.hub.boot = .failed ∧ t.hub.reason = 5) ∧
        (s.hub.boot = .config → if v = 4096 then t.hub.boot = .config ∧ t.hub.verify = true else t.hub.boot = .failed ∧ t.hub.reason = 3) }
  | .evImageCheck ok self => some {
      may := fun s => s.hub.boot = .rom ∨ s.hub.boot = .check
      does := fun s t => t.mem = s.mem ∧
        (s.hub.boot = .rom → if self then t.hub.boot = .waitImg else t.hub.boot = .failed ∧ t.hub.reason = 4) ∧
        (s.hub.boot = .check → if ok then t.hub.boot = .config else t.hub.boot = .failed ∧ t.hub.reason = 1) }
  | .evRecordCheck ok => some {
      may := fun s => s.hub.boot = .config ∧ s.hub.verify = true
      does := fun s t => t.mem = s.mem ∧ (ok = false ∨ operatorOk s.hub = false → t.hub.boot = .failed ∧ t.hub.reason = 2) ∧
        (ok = true → operatorOk s.hub = true → recordOk s.hub = false → t.hub.boot = .failed ∧ t.hub.reason = 3) ∧
        (ok = true → operatorOk s.hub = true → recordOk s.hub = true → t.hub.boot = .ready ∧
          t.hub.operator = some (operatorHash s.hub) ∧ t.hub.straitMask = BitVec.ofNat 64 (recNat s.hub 8 8) ∧
          t.hub.femode = BitVec.ofNat 8 (recNat s.hub 16 8) ∧ t.hub.limit = recNat s.hub 28 4) }
  | .evStraitTraining k => some {
      may := fun s => k < 64 ∧ s.hub.boot = .ready ∧ s.hub.straitMask.getLsbD k = true
      does := fun s t => ((getStrait s k).state = .down → (getStrait t k).state = .training) ∧
        ((getStrait s k).state = .training → (getStrait t k).state = .attesting) ∧ ∀ j, j ≠ k → getStrait t j = getStrait s j }
  | .evStraitAttest k peer => some (straitTo k (fun _ => True) .attesting (fun s => if peerOk s.hub peer = true then .opened else .closed))
  | .evKeyUpdate k => some {
      may := fun s => (getStrait s k).state = .opened
      does := fun s t => getStrait t k = { getStrait s k with epoch := (getStrait s k).epoch + 1, groups := 0 } }
  | .evStraitGroupFailure k => some {
      may := fun s => (getStrait s k).state = .opened
      does := fun s t => ((getStrait t k).fails = (getStrait s k).fails + 1 ∨ (getStrait t k).fails = 1) ∧ (getStrait t k).groups < 2 ^ 31 ∧
        (getStrait t k).state = (if (getStrait t k).fails < 4 then .opened else .closed) ∧ (∀ j, j ≠ k → getStrait t j = getStrait s j) ∧
        t.mem = s.mem }
  | .evStraitClose k => some (straitTo k (fun _ => True) .opened (fun _ => .closed))
  | .evPodTickSync n => some {
      may := fun s => (∀ d, d < 4 → podDie s d ≠ 0) ∧ (∃ v ∈ s.straits, v.2.state = .opened) ∧ (podTick s).toNat ≤ n ∧ n < 2 ^ 64 ∧
        (s.hub.synced = true → n ≤ (podTick s).toNat + 20)
      does := fun s t => (podTick t).toNat = n ∧ t.hub.synced = true ∧ t.tick = s.tick ∧ t.mem = s.mem }
  | _ => none

/-- The 64 bytes of a planner command of code `c` as the window takes it (R481): the module is READY and every byte that the command does not
name is zero. -/
def planOf (s : State) (c : Nat) (cmd : Bytes) : Option (List Byte) :=
  let bs := (BitVec.ofNat 8 c :: cmd.drop 1 ++ List.replicate 64 0).take 64
  if s.hub.boot = .ready ∧ zeroBut bs (planFields c) = true ∧ bufferOk bs = true then some bs else none

/-- The clusters that a command's mask names. -/
def targetsOf (bs : List Byte) : List Nat := (List.range 48).filter (fun cl => (BitVec.ofNat 48 (cmdNat bs 8 8)).getLsbD cl)

/-- A RESTORE of image `m` is accepted: its partition, as many scrubbed clusters of it as the image has, with its POOLPW or none yet, and none of
its work still there (R473, log entries 233 and 234). -/
def mayRestore (s : State) (p : Nat) (bs : List Byte) (m : Image) : Prop :=
  cmdNat bs 8 8 < 2 ^ 48 ∧ m.part = p ∧ (targetsOf bs).length = m.clusters.length ∧ (getFn s (queueOwner s m.queue).1).tenant = m.tenant ∧
    imageLive s m = false ∧ ∀ cl ∈ targetsOf bs, (tabGet {} p s.parts).clusters.getLsbD cl = true ∧ (getCluster s cl).owner = none ∧
      (getCluster s cl).node = none ∧ (getCluster s cl).switch = false ∧
      ((getCluster s cl).poolpw = 0 ∨ ∃ d, m.clusters.head? = some d ∧ d.2.poolpw = (getCluster s cl).poolpw)

/-- The planner's entry of a queue (R481). -/
def plan (s : State) (p q : Nat) : QPlan := tabGet {} q (getPlanner s p).plans

/-- Steps of recovery: pre-emption (R466, R467), eviction (R468–R471), images (R472, R473) and function-level reset (R474, R478, R479). -/
def recoveryMoves : Instr → Option Move
  | .evPreempt p cmd => some {
      may := fun s => ∃ bs, planOf s 1 cmd = some bs ∧ cmdNat bs 8 8 < 2 ^ 48
      does := fun s t => ∀ bs, planOf s 1 cmd = some bs →
        if (getPlanner s p).preempt.isSome then (getPlanner t p).status = 2
        else (getPlanner t p).status = 0 ∧ (∃ v, (getPlanner t p).preempt = some v ∧ v.stage = 1 ∧ v.since = s.tick ∧
            v.mask = BitVec.ofNat 48 (cmdNat bs 8 8) &&& (tabGet {} p s.parts).clusters ∧ v.base = cmdNat bs 32 8 ∧ v.len = cmdNat bs 40 8 ∧
            v.grace = (getPlanner s p).grace ∧ v.kill = (getPlanner s p).kill) ∧
          ∀ q ∈ partQueues s p, (covered s (BitVec.ofNat 48 (cmdNat bs 8 8) &&& (tabGet {} p s.parts).clusters) q) ≠ [] → (getQueue t q).stopped = true }
  | .evEvict p cmd => some {
      may := fun s => (planOf s 2 cmd).isSome = true
      does := fun s t => ∀ bs, planOf s 2 cmd = some bs →
        let d := cmdNat bs 8 8
        let k := if cmdNat bs 24 8 = 0 then 200000 else cmdNat bs 24 8
        if d < (podTick s).toNat + 2000000 then (getPlanner t p).status = 1
        else if (getPlanner s p).evict.isSome ∧ (getPlanner s p).vacant = false then (getPlanner t p).status = 2
        else if (tabGet {} p s.parts).state ≠ 2 then (getPlanner t p).status = 3
        else if k < 50000 then (getPlanner t p).status = 4
        else (getPlanner t p).status = 0 ∧ ∃ e, (getPlanner t p).evict = some e ∧ e.deadline = d ∧ e.bound = k ∧ e.base = cmdNat bs 32 8 ∧
          e.len = cmdNat bs 40 8 ∧ e.since = (podTick s).toNat }
  | .evRestore p cmd => some {
      may := fun s => ∃ bs m, planOf s 3 cmd = some bs ∧ findImage s (cmdNat bs 32 8) (cmdNat bs 40 8) = some m ∧ mayRestore s p bs m
      does := fun s t => ∀ bs m, planOf s 3 cmd = some bs → findImage s (cmdNat bs 32 8) (cmdNat bs 40 8) = some m →
        (getPlanner t p).status = 0 ∧ t.images = s.images ∧ (getQueue t m.queue).state = .active ∧ (getQueue t m.queue).stopped = false ∧
        ∀ e c, m.clusters = [e] → targetsOf bs = [c] → (getCluster t c).pool = e.2.pool ∧ (getCluster t c).tiles = e.2.tiles ∧
          (getCluster t c).flags = e.2.flags ∧ (getCluster t c).owner = some (m.tenant, m.part) }
  | .evGraceTimerExpiry p => some {
      may := fun s => ∃ v, (getPlanner s p).preempt = some v ∧ v.since + v.grace ≤ s.tick
      does := fun s t => ∀ v, (getPlanner s p).preempt = some v → (getPlanner t p).preempt = some { v with stage := 2 } }
  | .evKillTimerExpiry p => some {
      may := fun s => ∃ q, partQueues s p = [q] ∧
        (((getPlanner s p).evict = none ∧ ∃ v, (getPlanner s p).preempt = some v ∧ v.since + v.kill ≤ s.tick ∧
            (runningOn s (covered s v.mask q)).isEmpty = false) ∨
          ∃ e, (getPlanner s p).preempt = none ∧ (getPlanner s p).evict = some e ∧ (plan s p q).decision = 2 ∧ (plan s p q).state = 1 ∧
            (plan s p q).asked + e.kill ≤ (podTick s).toNat ∧ (runningOn s (queueClusters s q)).isEmpty = false)
      does := fun s t => ∀ q, partQueues s p = [q] → ∀ c, (getCtx t c).run = true → (getCtx t c).cont.bundle ∉ queueJobs s q }
  | .evCheckpointWrite p q => some {
      may := fun s => ∃ v u n, (getPlanner s p).preempt = some v ∧ v.stage = 2 ∧ covered s v.mask q ≠ [] ∧ imageReady s (covered s v.mask q) = true ∧
        writeImage s p q (covered s v.mask q) v.base v.len v.used = some (u, n)
      does := fun s t => t.images.length = s.images.length + 1 ∧ ∃ m ∈ t.images, m.queue = q ∧ m.part = p ∧
        ∀ v, (getPlanner s p).preempt = some v → m.clusters.map (·.1) = covered s v.mask q ∧
          m.plain = imagePlain s (imageOf s p q (covered s v.mask q)) ∧ m.bytes.length = m.plain.length + 16 * ((m.plain.length + 4095) / 4096) ∧
          memRead t.mem (v.base + v.used) m.bytes.length = m.bytes }
  | .evPlannerPass p => some {
      may := fun s => ∃ e, (getPlanner s p).evict = some e ∧ (getPlanner s p).vacant = false ∧ (getPlanner s p).due ≤ (podTick s).toNat ∧
        inHand s 3 p = true
      does := fun s t => ∀ e, (getPlanner s p).evict = some e →
        (getPlanner t p).lastS = (e.deadline : Int) - (podTick s).toNat - e.bound ∧
        (getPlanner t p).lastL = ((e.deadline : Int) - (podTick s).toNat - e.bound) * 205 / 256 ∧
        (getPlanner t p).passAt = (podTick s).toNat ∧ (getPlanner t p).due = (podTick s).toNat + 100000 ∧
        ∀ q ∈ partQueues s p, (plan t p q).decision ≠ 0 ∨ (plan s p q).state = 2 }
  | .evEvictionKillTime p => some {
      may := fun s => ∃ e, (getPlanner s p).evict = some e ∧ (getPlanner s p).vacant = false ∧ e.deadline ≤ (podTick s).toNat + e.bound
      does := fun s t => ∀ q, partQueues s p = [q] → queueVacant s q = false → ∀ c, (getCtx t c).run = true → (getCtx t c).cont.bundle ∉ queueJobs s q }
  | .evFlr f => some {
      may := fun s => s.hub.boot = .ready ∧ 1 ≤ f ∧ f ≤ 64
      does := fun s t => (underReset s f = false → (getFn t f).reset = 1 ∧ (getFn t f).killed = 0 ∧ (getFn t f).cancelled = 0 ∧
          (getFn t f).completed = 0 ∧ (getFn t f).abandoned = 0 ∧ t.mem = s.mem) ∧
        ((getFn s f).reset = 1 → (getFn t f).reset = 2 ∧ (getFn t f).killed = (fnContexts s f).length ∧ (getFn t f).abandoned = heldOf s f - heldOf t f ∧
          ∀ c, (getCtx t c).run = true → (getCtx t c).cont.bundle ∉ fnJobs s f) ∧
        ((getFn s f).reset = 2 → fnOps s f = 0 → (fnContexts s f).isEmpty = true → (getFn t f).reset = 3 ∧ (getFn t f).completed = sentOf s f) ∧
        ((getFn s f).reset = 5 → (getFn t f).reset = 6 ∧
          tabGet 0 (spaceOf (getFn s f).part (getFn s f).tenant) t.sealKeys = tabGet 0 (spaceOf (getFn s f).part (getFn s f).tenant) s.sealKeys + 1) ∧
        ((getFn s f).reset = 6 → (getFn t f).reset = 7 ∧ (getFn t f).tdisp = .unlocked ∧ ∀ q ∈ fnQueues s f, (getQueue t q).state = .disabled) }
  | .evFlrDrainBound f => some {
      may := fun s => (getFn s f).reset = 3
      does := fun s t => (getFn t f).reset = 4 ∧ (getFn t f).completed = (getFn s f).completed - sentOf s f ∧
        (getFn t f).abandoned = (getFn s f).abandoned + sentOf s f + heldOf s f ∧ (∀ h ∈ t.faults, h.fn ≠ f) ∧ ∀ p ∈ t.net, p.bundle ∉ fnJobs s f }
  | _ => none
/-! ### Quantisation and scans -/

/-- The elements of a source of `w`-byte lanes of type `ty`. -/
def elem (ty : Nat) (v : Vec) (k : Nat) : ExactNum := elemDecode ty (lane (contBytes ty) v k)

/-- VQUANT's elements per instruction, and its block length (R214). -/
def quantCount (f : VXF) : Nat := 256 / contBytes f.st.toNat
def quantBlock (f : VXF) : Nat := geomLen (f.imm.extractLsb' 0 3).toNat

/-- The scale of block `j` of a source (R214). -/
def scaleOf (f : VXF) (v : Vec) (j : Nat) : BlockScale :=
  blockScale f.dt.toNat (f.imm.getLsbD 5) ((List.range (quantBlock f)).map (fun i => elem f.st.toNat v (j * quantBlock f + i)))

/-- The code and flags of element `e` (R214), rounded with the state of its destination lane (R131). -/
def quantAt (f : VXF) (x : Context) (v : Vec) (e : Nat) : Coded :=
  quantLane f.dt.toNat ⟨f.rnd, f.ovf, if f.rnd = 2 then lfsrStep (x.lane (segment f * quantCount f + e)) else 0⟩
    (elem f.st.toNat v e) (scaleOf f v (e / quantBlock f))

/-- A result that raises no cause. -/
def codeOk : Coded → Bool
  | .ok _ _ => true
  | .trap _ => false

/-- No lane of a result raises a cause. -/
def quiet (n : Nat) (c : Nat → Coded) : Bool := (List.range n).all (fun k => codeOk (c k))

/-- The flags of `n` lanes. -/
def flagsOf (n : Nat) (c : Nat → Coded) : Flags := (List.range n).foldl (fun g k => g ||| (c k).get.2) flagNone

/-- VSCAN's running FP32 value before lane `k`, from −0, with the flags of its sums (R154). -/
def scanned (g : FloatFmt) (w : Nat) (p : Pred) (v : Vec) : Nat → Nat × Flags
  | 0 => (0x80000000, flagNone)
  | k + 1 =>
    let c := scanned g w p v k
    if active w p k then
      let r := (roundNum fp32 rneInf (numAdd (floatDecode fp32 c.1) (floatDecode g (lane w v k)))).get
      (r.1, c.2 ||| r.2)
    else c

/-- VSCAN's running integer sum before lane `k`, wrapping at 32 bits (R218). -/
def summed (w : Nat) (p : Pred) (v : Vec) : Nat → Int
  | 0 => 0
  | k + 1 => if active w p k then (summed w p v k + laneInt w v k).bmod (2 ^ 32) else summed w p v k

/-- VSCAN's output of lane `k` (R154, R218): only an active lane steps its state. -/
def scanAt (f : VXF) (x : Context) (v : Vec) (k : Nat) : Coded :=
  let w := contBytes f.st.toNat
  toElem f.st.toNat
    ⟨f.rnd, f.ovf, if f.rnd = 2 then (if active w (pred x f.p) k then lfsrStep (x.lane k) else x.lane k) else 0⟩
    (match floatFmt f.st.toNat with
      | some g => floatDecode fp32 (scanned g w (pred x f.p) v (k + 1)).1
      | none => .ofInt (summed w (pred x f.p) v (k + 1)))

/-- What VSCAN raises in lane `k`: nothing where the lane is predicated off (R193). -/
def scanRaised (f : VXF) (x : Context) (v : Vec) (k : Nat) : Coded :=
  if active (contBytes f.st.toNat) (pred x f.p) k then scanAt f x v k else .ok 0 flagNone

/-- The flags of VSCAN's sums. -/
def scanFlags (f : VXF) (x : Context) (v : Vec) : Flags :=
  match floatFmt f.st.toNat with
  | some g => (scanned g (contBytes f.st.toNat) (pred x f.p) v (256 / contBytes f.st.toNat)).2
  | none => flagNone

/-! ### Traps and departures -/

/-- The continuation of context `x` has left it: the context is free (R384, R411). -/
def Freed (t : Context) : Prop := t = { ({} : Context) with pend := t.pend }

/-- `t` has logged cause `c` for the job of `u`, unless one was logged before (R454). -/
def Logged (u t : State) (c : Cause) : Prop :=
  ∀ b, tabFind u.x.cont.bundle u.bundles = some b → ∃ d, tabFind u.x.cont.bundle t.bundles = some d ∧
    d.logged = true ∧ d.cause = (if b.logged then b.cause else c)

/-- The current continuation of `u` has ended in `t` (R411): its context is free and it owns no entry. -/
def Ended (u t : State) : Prop :=
  Freed t.x ∧ t.xid = u.xid ∧ ∀ e ∈ (getCluster t u.cl).toks, e.2.owner ≠ some u.x.cont.cid

/-- Where the frame lies in the pool when TFP points into the local region (R246, R456). -/
def frameOff (s : State) : Nat :=
  localBase (s.x.poolpw.setWidth 32) (ctxLocalCore s.xid) (ctxIndex s.xid) + (s.x.tfp.toNat - winBase s.x.localw)

/-- Bytes `[o, o + n)` of the frame in the pool of `t`, as a little-endian value. -/
def framed (s t : State) (o n : Nat) : Nat := leNat (memRead (getCluster t s.cl).pool (frameOff s + o) n)

/-- The frame of a trap raised as `r` from `s` as `t` holds it (R461): the four words that name the trap, and, when no result was on its
way, the registers g0 to g59 with their full bits. -/
def FrameOf (s : State) (r : Raised) (t : State) : Prop :=
  framed s t 0 8 = (causeWord r).toNat ∧ framed s t 8 8 = s.x.pc.toNat ∧
    framed s t 0x10 8 = (if r.async then s.x.pc else r.fpc).toNat ∧ framed s t 0x18 8 = r.faddr.toNat ∧
    (s.x.wbs = [] → (∀ k, k < 60 → framed s t (0x100 + 8 * k) 8 = (vecGet s.x.g k 0).toNat) ∧
      framed s t 0x2E0 8 = (~~~(s.x.gEmpty.setWidth 60)).toNat)

/-- A frame that ERET accepts (R462). -/
def FrameGood (fb : List Byte) : Prop :=
  let c := frameNat fb 0x20 8
  c % 64 ≤ 32 ∧ c / 2 ^ 8 % 128 ≤ 64 ∧ c / 2 ^ 16 % 8 ≤ 4 ∧ (∀ k, k < 8 → frameNat fb (0x30 + k) 1 ≤ 32) ∧
    (∀ k, k < 8 → frameNat fb (0x38 + k) 1 ≤ 8) ∧ ∀ k, k < c % 64 → frameNat fb (0x0E80 + 8 * k) 8 / 2 ^ 48 % 4 ≤ 1

/-- The word of a frame at an offset. -/
def fword (fb : List Byte) (o : Nat) : Word := BitVec.ofNat 64 (frameNat fb o 8)

/-- `t` is a context reloaded from a frame (R461, R462). -/
def Reloaded (fb : List Byte) (t : Context) : Prop :=
  t.handler = false ∧ t.pc = (fword fb 8).setWidth 48 ∧ t.cur = none ∧ t.stream = [] ∧
    t.loops.length = frameNat fb 0x20 8 / 2 ^ 16 % 8 ∧ t.replay.length = frameNat fb 0x20 8 % 64 ∧
    (∀ k, k < 8 → vecGet t.ring k 0 = BitVec.ofNat 8 (frameNat fb (0x28 + k) 1)) ∧
    (∀ k, k < 60 → vecGet t.g k 0 = fword fb (0x100 + 8 * k)) ∧
    (∀ k, 0 < k → k < 60 → t.gEmpty.getLsbD k = !(fword fb 0x2E0).getLsbD k) ∧
    t.vtype = ((fword fb 0x300).setWidth 8).setWidth 64 ∧ t.fstat = ((fword fb 0x308).setWidth 6).setWidth 64 ∧
    t.seed = ((fword fb 0x310).setWidth 32).setWidth 64 ∧
    (∀ k, k < 8 → vecGet t.p k 0 = BitVec.ofNat 256 (frameNat fb (0x800 + 32 * k) 32) ∧
      vecGet t.y k 0 = BitVec.ofNat 256 (frameNat fb (0x900 + 32 * k) 32)) ∧
    (∀ k, k < 16 → vecGet t.k k 0 = BitVec.ofNat 16 (frameNat fb (0xA00 + 2 * k) 2)) ∧
    (∀ k, k < 32 → (vecGet t.h k {}).bits = BitVec.ofNat 256 (frameNat fb (0xA80 + 32 * k) 32)) ∧
    (∀ k, k < 28 → vecGet t.v k 0 = BitVec.ofNat 2048 (frameNat fb (0x2000 + 256 * k) 256)) ∧
    ∀ k, k < 4 → (vecGet t.sAE k []).length = frameNat fb (0x30 + k) 1 ∧ (vecGet t.sEA k []).length = frameNat fb (0x34 + k) 1 ∧
      (vecGet t.vAE k []).length = frameNat fb (0x38 + k) 1 ∧ (vecGet t.vEA k []).length = frameNat fb (0x3C + k) 1

/-- The trap that the instruction at the PC raises before any ring wait (R460). -/
def early (s : State) (c : Cause) (detail : BitVec 32) : State :=
  raise { s with x := { s.x with cur := none } } { cause := c, detail := detail, faddr := 0, fpc := s.x.pc, async := false, keep := false }

/-- Nothing of the current context is under way: it may leave at a suspension point (R274, R411). Its plain stores may wait for their homes,
if those are of this module. -/
def settledDown (s : State) (x : Context) : Prop :=
  x.stream = [] ∧ x.wbs = [] ∧ x.fincs = 0 ∧ ownShoal s s.xid = [] ∧ (∀ p ∈ s.net, p.ctx = s.xid → p.applied = true) ∧
    ∀ st ∈ x.stores, ∀ pa, st.loc = .mem pa → isRemote s pa = false

/-- What a continuation record carries over a suspension at `pc` (R383, R384). -/
def Carries (x : Context) (pc : BitVec 48) (k : Cont) : Prop :=
  k.cid = x.cont.cid ∧ k.bundle = x.cont.bundle ∧ k.node = x.cont.node ∧ k.pc = pc ∧ k.wid = x.cont.wid ∧ k.rend = x.cont.rend ∧
    k.pri = x.cont.pri ∧ k.poolbase = x.cont.poolbase ∧
    k.g1 = vecGet x.g 1 0 ∧ k.g2 = vecGet x.g 2 0 ∧ k.g3 = vecGet x.g 3 0 ∧
    k.k0 = vecGet x.k 0 0 ∧ k.k1 = vecGet x.k 1 0 ∧ k.k2 = vecGet x.k 2 0 ∧ k.k3 = vecGet x.k 3 0

/-- The current continuation of `u` has suspended in `t` at the instruction at its PC (R384). -/
def Suspended (u t : State) : Prop :=
  Freed t.x ∧ ∃ k ∈ (getCluster t u.cl).susp, Carries u.x u.x.pc k ∧ k.state = 2

/-- Whether the continuation that yields stays bound to its cluster (R412). -/
def boundAfter (s : State) (free : Bool) : Bool :=
  let k := s.x.cont
  let owns := (getCluster s s.cl).toks.any (fun e => e.2.owner = some k.cid)
  if free then owns || 1 < gsizeOf s k.bundle k.node ||
      (0 < (s.x.poolpw.extractLsb' 8 8).toNat && k.bound && regionUsers s ≤ 1)
  else owns || k.bound

/-- The state in which an instruction without sources has issued with context `x`. -/
def plain (i : Instr) (s : State) (x : Context) : State := issued i s [] x

/-! ### What is on its way -/

/-- What a VMOV with its bit clear leaves when its queue has no entry for it: vd is owed, and a result that takes the entry when it comes is
outstanding (R195). -/
def awaiting (x : Context) (f : V2) (e : Entry) (sigs : List Nat) (now : Nat) : Context :=
  let y := if f.vd.toNat < 28 then x.markV f.vd.toNat true else x
  { y with wbs := y.wbs ++ [⟨[.take f.vd.toNat (f.va.toNat - 28) (pred x f.p) (contBytes (typeOf x)) (was x f.vd) e], flagNone, sigs, true,
                            x.handler, 0, now⟩] }

/-- The pieces that a multiple, vector or handle store accesses: address, size and alignment of each element, part or indexed lane (R187, R204,
R206, R207, R431). -/
def pieces (s : State) (c : List (Option Src)) : Instr → List (Nat × Nat × Nat)
  | .stm f => (elements f.m (scal c 1)).map (fun a => (a, 8, 8))
  | .vst f => (parts s (scal c 1 + 256 * f.off.setWidth 64).toNat).map (fun p => (p.1, p.2, 1))
  | .vsts f => (indexed (vect c 0)).map (fun e => ((scal c 2 + BitVec.ofNat 64 e.2).toNat, 2 ^ f.sz.toNat, 2 ^ f.sz.toNat))
  | .hst f => [((scal c 0).toNat, 32, 32)]
  | _ => []

/-- Where a piece lies; the parts of a global VST are global (R245). -/
def pieceAt (s : State) (c : List (Option Src)) (i : Instr) (p : Nat × Nat × Nat) : Option Loc :=
  let g := match i with
    | .vst f => global s (scal c 1 + 256 * f.off.setWidth 64).toNat
    | _ => false
  match pieceHome s g needStore p.1 p.2.1 p.2.2 with
  | .ok t => some t.loc
  | .error _ => none

/-! ### Whole-machine rules -/

/-- An instruction of a program, as against a step of another agent. -/
def program (i : Instr) : Bool := !(encode i).isEmpty

/-- What only the authority, boot and the host's registers may change (R425, R439, R446): the partition table, the maps of queues
and granules, the allocation slots, the address-space roots and the key domains. -/
def SameTables (s t : State) : Prop :=
  t.parts = s.parts ∧ t.qmap = s.qmap ∧ t.granules = s.granules ∧ t.slots = s.slots ∧ t.roots = s.roots ∧ t.domains = s.domains ∧
    t.sealKeys = s.sealKeys

end Sys2Proof.Claims

open Sys2Proof Sys2Proof.Machine Sys2Proof.Claims

/-! ### Reset and memory -/

/-- Registers with a value stated for reset hold it: VTYPE and SEED are 1 and the lane states are those that SEED loads, in every context
(R131, R132, R190), the allow-lists are zero (R450), VFRST reads no reset (R478), PLCTL holds its timers and bandwidth (R481), MPCTL, ROTSHARE
and SNDREC hold theirs (R486). -/
def Obligations.ResetRegisters : Prop :=
  (∀ c, (getCtx State.reset c).vtype = 1 ∧ (getCtx State.reset c).seed = 1 ∧
    ∀ i, i < 256 → (getCtx State.reset c).lane i = 1 ^^^ BitVec.ofNat 32 (i * 0x9E3779B9 % 2 ^ 32)) ∧
  (∀ n, (getFn State.reset n).allow = 0 ∧ (getFn State.reset n).reset = 0) ∧
  (∀ p, (getPlanner State.reset p).grace = 100000 ∧ (getPlanner State.reset p).kill = 1000000 ∧
    (getPlanner State.reset p).ckbw = 200000) ∧
  State.reset.hub.mpctl = 1000 ∧ State.reset.hub.rotshare = 32 ∧ ∀ d, tabGet 50 d State.reset.hub.sndrec = 50

/-- The invariant of memory holds after reset: every memory of the module is in its canonical form.
Where it rests on a reading or choice of the model: log entry 1. -/
def Obligations.ResetMemory : Prop := State.reset.memOk

/-- No step takes a memory of the module out of its canonical form: addresses strictly rising, no listed byte equal to what an
unlisted address reads as. The memories are the device's, the pools and accumulators of clusters and of checkpoint images, and what the
hub holds of the boot record and the boot image. -/
def Obligations.MemoryStaysCanonical : Prop := ∀ s t, s.memOk → step s = .next t → t.memOk

/-- A write of bytes in order of address is what a read gives back, and every other byte reads as before (R4, R269). -/
def Obligations.MemoryReadAfterWrite : Prop :=
  ∀ (m : Memory) (a : Nat) (bs : List Byte), m.wf →
    memRead (memWrite m a bs) a bs.length = bs ∧
    ∀ b n, (b + n ≤ a ∨ a + bs.length ≤ b) → memRead (memWrite m a bs) b n = memRead m b n

/-! ### Encodings and the step -/

/-- Decoding the words of a well-formed instruction gives it back, with its word count (R60–R63, R86). -/
def Obligations.EncodingRoundTrip : Prop :=
  ∀ i : Instr, program i = true → i.wf = true → decodeList (encode i) = .ok (i, (encode i).length)

/-- Words of the specification's own examples decode to the instructions they stand for (R170, R171, R188, R462). -/
def Obligations.DecodedWords : Prop :=
  decodeList [0x050110C0] = .ok (.pand ⟨⟨false, false, false, false⟩, 1, 2, 3⟩, 1) ∧
  decodeList [0x05845000] = .ok (.pfrom ⟨⟨false, false, false, false⟩, 1, 0, false, 2, true⟩, 1) ∧
  decodeList [0x09420C63] = .ok (.ldm ⟨⟨false, false, false, false⟩, 4, 6, false, false, 3⟩, 1) ∧
  decodeList [0] = .ok (.add ⟨⟨false, false, false, false⟩, 0, 0, 0, false, false⟩, 1)

/-- A step of the current core performs the instruction whose words stand at the PC of the context that issues (R60, R86, R385): when nothing
else is due, no cause waits and nothing is in progress, the words fetched there are decoded and the instruction is executed in the state
that the fetch leaves. With one context that runs, that context is the current one. A step of another agent performs its row.
Where it rests on a reading or choice of the model: log entry 7. -/
def Obligations.StepRunsDecoded : Prop :=
  (∀ (s p : State) (rest : List Turn) (w0 : IWord) (ws : List IWord) (u v : State) (i : Instr) (n : Nat),
    s.agenda = .run :: rest → s.hub.offHot = false → p = picked { s with tick := s.tick + 1, agenda := rest } false →
    p.x.run = true → coreStopped p = false → p.x.raised = none →
    p.x.asyncs = [] → p.x.ringOv = 0 → p.x.cur = none → p.x.replay = [] → p.x.xfer = none → p.x.pc.toNat % 4 = 0 →
    fetchWord p p.x.pc.toNat = .ok w0 u → wordCount w0 ≠ 0 → p.x.pc.toNat + 4 * wordCount w0 ≤ 2 ^ 48 →
    fetchRest u (p.x.pc.toNat + 4) (wordCount w0 - 1) [w0] = .ok ws v → decodeList ws = .ok (i, n) →
    step s = exec i v) ∧
  (∀ s : State, (coreRuns s s.core).length < 2 → picked s false = s) ∧
  ∀ (s : State) (rest : List Turn) (e : Instr), s.agenda = .ev e :: rest → s.hub.offHot = false →
    step s = exec e { s with tick := s.tick + 1, agenda := rest }

/-- An instruction placed where the next step fetches is the one that the step performs, with the context as reset leaves it.
Where it rests on a reading or choice of the model: log entry 6. -/
def Obligations.PlacedInstructionRuns : Prop :=
  ∀ (nbits w : Nat) (i : Instr), nbits ≤ 128 → decodeTableWord nbits w = some i →
    ∃ u, step (State.reset.withFetchWord nbits w) = exec i u ∧ u.x = { State.reset.x with run := true }

/-! ### Results of the access side -/

/-- The RRR integer instructions (R161, R163): the table's result in d, no flag, nothing else changed. -/
def Obligations.IntegerResults : Prop := results integerTable

/-- The unary group (R164) and the immediate instructions (R165, R166). -/
def Obligations.UnaryAndImmediateResults : Prop := results unaryTable ∧ results immediateTable

/-- The FP32 instructions with a result at once (R167–R169).
Where it rests on a reading or choice of the model: log entries 35 and 36. -/
def Obligations.FloatResults : Prop := results floatTable

/-- DIV, DIVU, REM and REMU complete on every operand, d being owed until the result lands (R159), and their results obey the law of R162
and its two edge cases.
Where it rests on a reading or choice of the model: log entry 215. -/
def Obligations.Division : Prop :=
  resultsLater 1 divisionTable ∧
  (∀ f a b q r, divisionTable (.div f) = some q → divisionTable (.rem f) = some r → b ≠ 0 →
    let x := ((q.value [a, b]).1).toInt
    let y := ((r.value [a, b]).1).toInt
    (a ≠ BitVec.intMin 64 ∨ b ≠ -1 → a.toInt = x * b.toInt + y ∧ y.natAbs < b.toInt.natAbs ∧ (y ≠ 0 → (y < 0 ↔ a.toInt < 0)))) ∧
  (∀ f a b q r, divisionTable (.divu f) = some q → divisionTable (.remu f) = some r → b ≠ 0 →
    a.toNat = ((q.value [a, b]).1).toNat * b.toNat + ((r.value [a, b]).1).toNat ∧ ((r.value [a, b]).1).toNat < b.toNat) ∧
  (∀ f a c, c ∈ [divisionTable (.div f), divisionTable (.divu f)] → ∃ q, c = some q ∧ (q.value [a, 0]).1 = BitVec.allOnes 64) ∧
  (∀ f a c, c ∈ [divisionTable (.rem f), divisionTable (.remu f)] → ∃ q, c = some q ∧ (q.value [a, 0]).1 = a) ∧
  ∀ f q r, divisionTable (.div f) = some q → divisionTable (.rem f) = some r →
    (q.value [BitVec.intMin 64, -1]).1 = BitVec.intMin 64 ∧ (r.value [BitVec.intMin 64, -1]).1 = 0

/-- FDIV and FSQRT (R167, R168): d is owed until the result lands with its flags.
Where it rests on a reading or choice of the model: log entry 215. -/
def Obligations.FloatLongResults : Prop := resultsLater 2 floatLongTable

/-! ### Results of the execute side -/

/-- Predicate logic and the moves between predicates and queues (R170–R172). -/
def Obligations.PredicateResults : Prop := resultsLate predTable

/-- Comparison, selection, reduction, VSETT, lane moves and counts (R190, R197, R198, R201, R202, R217, R218).
Where it rests on a reading or choice of the model: log entry 182. -/
def Obligations.WholeVectorResults : Prop := resultsLate wholeTable

/-- VPACK and VUNPK (R216). -/
def Obligations.PackResults : Prop := resultsLate packTable

/-- Lane arithmetic (R193, R194, R196).
Where it rests on a reading or choice of the model: log entries 32 and 35. -/
def Obligations.LaneArithmetic : Prop := resultsLanes arithTable

/-- VBCAST, VMOV from a register and VPERM (R199, R200, R203). -/
def Obligations.LaneMoves : Prop := resultsLanes moveTable

/-- The bitwise functions, signs and classes (R211, R218). -/
def Obligations.LaneBits : Prop := resultsLanes vxBitTable

/-- VCVT and VDEQ (R213, R215).
Where it rests on a reading or choice of the model: log entry 33. -/
def Obligations.Conversions : Prop := resultsLanes convertTable

/-- The functions of the lanes (R144, R145, R195, R212): VDIV, VSQRT, VRCP and VRSQRT round the exact value once; VEXP2, VLOG2, VSINPI, VCOSPI and
VTANH give R145's values of special operands and elsewhere the model's own enclosures of log entry 16, whose rounding is not stated here.
Where it rests on a reading or choice of the model: log entries 16 and 215. -/
def Obligations.LaneFunctions : Prop := resultsLanesLater funcTable

/-- VMOV from a queue (R195, R200). An entry that stands in the queue, and is not awaited by an earlier VMOV, is moved at once, to a register or
to a queue; else the execute side is not held: with the bit clear, vd is owed and the entry is taken when the result lands, and with the bit
set an empty queue raises 0x009 at once.
Where it rests on a reading or choice of the model: log entry 215. -/
def Obligations.QueueMoves : Prop :=
  (∀ f : V2, 28 ≤ f.va.toNat → joins (.vmov f) [.v f.va f.ta]) ∧
  (∀ (head : Bool) (caps : List (Option Src)) (f : V2) (s : State) (vs : List Src) (x : Context), 28 ≤ f.va.toNat →
    mReads head caps (.vmov f) s f.ring [.v f.va f.ta] vs x → anyCode (typeOf x) = true → roomV x f.vd = true →
    ∃ t v, exec (.vmov f) s = .next t ∧
      (∀ k, k < 256 / contBytes (typeOf x) → lane (contBytes (typeOf x)) v k =
        if active (contBytes (typeOf x)) (pred x f.p) k then lane (contBytes (typeOf x)) (vec vs 0) k
        else lane (contBytes (typeOf x)) (was x f.vd) k) ∧
      MDone head { s with x := wroteV x f.vd v } (.vmov f) (sigsOf s .M f.ring) flagNone t) ∧
  (∀ (head : Bool) (f : V2) (s : State) (x : Context), 28 ≤ f.va.toNat → mReads head [none] (.vmov f) s f.ring [] [] x →
    (vecGet s.x.vAE (f.va.toNat - 28) [] = [] ∨ takesOf s.x (f.va.toNat - 28) ≠ 0) → f.ta = false → anyCode (typeOf x) = true →
    mayOweV x f.vd = true →
    ∃ t e, exec (.vmov f) s = .next t ∧ MDone head { s with x := awaiting x f e (sigsOf s .M f.ring) s.tick } (.vmov f) [] flagNone t) ∧
  ∀ (head : Bool) (f : V2) (s : State) (x : Context), 28 ≤ f.va.toNat → mReads head [none] (.vmov f) s f.ring [] [] x →
    vecGet s.x.vAE (f.va.toNat - 28) [] = [] → f.ta = true →
    ∃ t r u, exec (.vmov f) s = .next t ∧ t = raise u r ∧ r.cause = 0x009 ∧ r.async = false ∧
      (head = false → r.fpc = s.x.pc) ∧ u.mem = s.mem ∧ u.x = x.upon u.x ∧ ∃ e l, u.x.stream = .instr e :: l ∧ e.words = encode (.vmov f)

/-- VQUANT (R214): a code for every element in the segment of vd, a scale word for every block in vs, the flags of every rounding; the
other lanes are as they were.
Where it rests on a reading or choice of the model: log entries 15, 37, 38 and 202. -/
def Obligations.Quantisation : Prop :=
  (∀ f : VXF, joins (.vquant f) [.v f.va f.ta]) ∧
  ∀ (head : Bool) (caps : List (Option Src)) (f : VXF) (s : State) (vs : List Src) (x : Context), (Instr.vquant f).wf = true →
    mReads head caps (.vquant f) s f.ring [.v f.va f.ta] vs x → [1, 2, 3].contains f.st.toNat = true → 4 ≤ f.dt.toNat → f.dt.toNat ≤ 12 →
    f.vd ≠ f.vb → x.vEmpty.getLsbD f.vd.toNat = false → x.vEmpty.getLsbD f.vb.toNat = false →
    quiet (quantCount f) (quantAt f x (vec vs 0)) = true →
    ∃ t a b ls, exec (.vquant f) s = .next t ∧
      (∀ k, k < 256 → lane 1 a k =
        if segment f * quantCount f ≤ k ∧ k < (segment f + 1) * quantCount f then
          (quantAt f x (vec vs 0) (k - segment f * quantCount f)).get.1 % 256
        else lane 1 (was x f.vd) k) ∧
      (∀ k, k < 64 → lane 4 b k =
        if segment f * (quantCount f / quantBlock f) ≤ k ∧ k < (segment f + 1) * (quantCount f / quantBlock f) then
          (scaleOf f (vec vs 0) (k - segment f * (quantCount f / quantBlock f))).word.1 % 2 ^ 32
        else lane 4 (was x f.vb) k) ∧
      (∀ k, ({ x with lanes := ls } : Context).lane k =
        if f.rnd = 2 ∧ segment f * quantCount f ≤ k ∧ k < (segment f + 1) * quantCount f then lfsrStep (x.lane k) else x.lane k) ∧
      MDone head { s with x := wroteV (wroteV { x with lanes := ls } f.vd a) f.vb b } (.vquant f) (sigsOf s .M f.ring)
        ((List.range (quantCount f / quantBlock f)).foldl (fun g j => g ||| (scaleOf f (vec vs 0) j).word.2)
          (flagsOf (quantCount f) (quantAt f x (vec vs 0)))) t

/-- VSCAN (R154, R193, R218): every lane of vd receives the running value, rounded once; only active lanes step their state, set flags and
can trap. -/
def Obligations.Scans : Prop :=
  (∀ f : VXF, joins (.vscan f) [.v f.va f.ta]) ∧
  ∀ (head : Bool) (caps : List (Option Src)) (f : VXF) (s : State) (vs : List Src) (x : Context),
    mReads head caps (.vscan f) s f.ring [.v f.va f.ta] vs x → [1, 2, 3, 9, 13, 14].contains f.st.toNat = true → roomV x f.vd = true →
    quiet (256 / contBytes f.st.toNat) (scanRaised f x (vec vs 0)) = true →
    ∃ t v ls, exec (.vscan f) s = .next t ∧
      (∀ k, k < 256 / contBytes f.st.toNat → codeOk (scanAt f x (vec vs 0) k) = true →
        lane (contBytes f.st.toNat) v k = (scanAt f x (vec vs 0) k).get.1 % 2 ^ (8 * contBytes f.st.toNat)) ∧
      (∀ k, ({ x with lanes := ls } : Context).lane k =
        if f.rnd = 2 ∧ k < 256 / contBytes f.st.toNat ∧ active (contBytes f.st.toNat) (pred x f.p) k = true then lfsrStep (x.lane k)
        else x.lane k) ∧
      MDone head { s with x := wroteV { x with lanes := ls } f.vd v } (.vscan f) (sigsOf s .M f.ring)
        (scanFlags f x (vec vs 0) ||| flagsOf (256 / contBytes f.st.toNat) (scanRaised f x (vec vs 0))) t

/-! ### Memory, tasks, tokens, handles and system registers -/

/-- LD, LDU, LDS and LDA (R307, R308, R310, R311).
Where it rests on a reading or choice of the model: log entries 41, 191, 213 and 246. -/
def Obligations.Loads : Prop := resultsEffect loadTable

/-- ST, STS and STL (R307, R309–R311).
Where it rests on a reading or choice of the model: log entry 213. -/
def Obligations.Stores : Prop := resultsEffect storeTable

/-- The atomic operations and reductions (R312–R314).
Where it rests on a reading or choice of the model: log entries 51 and 213. -/
def Obligations.Atomics : Prop := resultsEffect amoTable

/-- What stores and atomic operations leave alone (R267, R270, R308): where no earlier store of the context is on its way, the instruction
answers a next state in which every byte of every memory reads as before but the bytes at the address that it computes; of a store to a near
location its low bytes, with that address, are the one store on its way, and once it reaches its home they stand there. LDM, STM, VLD, VLDG,
VST, VSTS, WAITA, the loads, fences, address conversions, flag and handle instructions and accesses of system registers leave every byte as it was;
what STM, VST, VSTS and HST put on its way, or into the shoal log, covers only bytes of the elements, parts or indexed lanes that they
address, and a store on its way that reaches its home changes its own bytes alone.
Where it rests on a reading or choice of the model: log entry 213. -/
def Obligations.StoresChangeTheirBytesOnly : Prop :=
  (∀ (i : Instr) (f : Effect) (q : Need × (List (Option Src) → Word) × Nat) (s : State) (caps : List (Option Src)) (x : Context),
    (storeTable i = some f ∨ amoTable i = some f) → storeAccess i = some q → s.memOk → x.stores = [] →
    issueCaptures s .P f.ring f.reads = some (caps, x) → f.ready (issued i s caps x) caps = true →
    ∃ t l, exec i s = .next t ∧ home (issued i s caps x) q.1 (q.2.1 caps).toNat q.2.2 = some l ∧
      (∀ m, outside l q.2.2 m = true → readHome t m 1 = readHome s m 1) ∧
      (storeTable i = some f → near s l = true → t.x.stores = [⟨l, lowBytes q.2.2 (scal caps 0), q.2.1 caps, false⟩] ∧
        (writeBad s l q.2.2 = none → keyed s l = true → ∃ u, exec (.evWriteThroughReachesHome t.xid 0) t = .next u ∧
          readHome u l q.2.2 = lowBytes q.2.2 (scal caps 0) ∧ ∀ m, outside l q.2.2 m = true → readHome u m 1 = readHome s m 1))) ∧
  (∀ (table : Instr → Option Effect) (i : Instr) (f : Effect) (s : State) (caps : List (Option Src)) (x : Context),
    table ∈ [Claims.loadTable, fenceTable, addressTable, flagTable, Claims.handleTable, systemTable, blockTable, vectorMemoryTable, waitTable] →
    table i = some f → x.stores = [] →
    issueCaptures s .P f.ring f.reads = some (caps, x) → f.ready (issued i s caps x) caps = true →
    ∃ t, exec i s = .next t ∧ (∀ m n, readHome t m n = readHome s m n) ∧
      (∀ p ∈ t.x.stores, ∃ e ∈ pieces (issued i s caps x) caps i, ∃ l, pieceAt (issued i s caps x) caps i e = some l ∧
        ∀ m, outside l e.2.1 m = true → outside p.loc p.bytes.length m = true) ∧
      ∀ d ∈ ownShoal t t.xid, d ∈ ownShoal s s.xid ∨ ∃ e ∈ pieces (issued i s caps x) caps i,
        e.1 ≤ d.va.toNat ∧ d.va.toNat + d.bytes.length ≤ e.1 + e.2.1) ∧
  ∀ (s u : State) (c n : Nat) (st : PStore), through s c n = some st → exec (.evWriteThroughReachesHome c n) s = .next u →
    ∀ m, outside st.loc st.bytes.length m = true → readHome u m 1 = readHome s m 1

/-- The fences (R319), CVTA and ASPC (R323, R324). -/
def Obligations.FencesAndSpaces : Prop := resultsEffect fenceTable ∧ resultsEffect addressTable

/-- FSET, FRD, FINC and FWAIT (R320–R322), and WAITA whose first read meets its condition (R316–R318).
Where it rests on a reading or choice of the model: log entries 44, 45, 200 and 201. -/
def Obligations.FlagsAndWaits : Prop := resultsEffect flagTable ∧ resultsEffect waitTable

/-- LDM and STM (R186–R188).
Where it rests on a reading or choice of the model: log entries 49 and 213. -/
def Obligations.BlockMoves : Prop := resultsEffect blockTable

/-- VLD, VST, VLDG and VSTS (R204–R208).
Where it rests on a reading or choice of the model: log entries 46, 47, 48, 210 and 213. -/
def Obligations.VectorMemory : Prop := resultsEffect vectorMemoryTable

/-- The token instructions (R402–R409). -/
def Obligations.TokenInstructions : Prop := resultsEffect tokenTable

/-- The task instructions that go on in their context (R413–R419).
Where it rests on a reading or choice of the model: log entries 82, 83 and 84. -/
def Obligations.TaskInstructions : Prop := resultsEffect taskTable

/-- WIDF (R416): field n of wid, the whole wid, or wid modulo the group size. -/
def Obligations.WorkIdentifierFields : Prop :=
  ∀ (f : WidfF) (s : State) (x : Context), issueCaptures s .P f.ring [] = some ([], x) → roomG x f.d = true → f.n ≤ 7 →
    ∃ t v, exec (.widf f) s = .next t ∧ Retired { s with x := wroteG x f.d v } (.widf f) (sigsOf s .P f.ring) flagNone t ∧
      (∀ nd, nodeOf s s.x.cont.bundle s.x.cont.node = some nd → f.n.toNat ≤ 5 →
        v.toNat = s.x.cont.wid.toNat / 2 ^ (nd.widths.take f.n.toNat).sum % 2 ^ nd.widths.getD f.n.toNat 0) ∧
      (f.n = 6 → v = s.x.cont.wid) ∧
      (f.n = 7 → v.toNat = s.x.cont.wid.toNat % gsizeOf s s.x.cont.bundle s.x.cont.node)

/-- The handle instructions (R428–R434).
Where it rests on a reading or choice of the model: log entries 67, 68, 69 and 210. -/
def Obligations.HandleInstructions : Prop := resultsEffect Claims.handleTable

/-- CSRR, CSRW and CSRX by the layout and write rule of every register of the CSR table (R102, R121, R131, R142, R181, R190, R244, R398, R450,
R456, R464), PMCRD and TIMERD (R450, R463, R465, R493): each completes; a write of SEED reloads every lane (R131); and a number outside the table
raises 0x011, a write of a read-only register 0x010, and a write of TVEC outside handler mode while it is not zero 0x012.
Where it rests on a reading or choice of the model: log entries 13, 63 and 64. -/
def Obligations.SystemRegisters : Prop :=
  resultsEffect systemTable ∧
  (∀ (x : Context) (v : Word) (i : Nat), i < 256 →
    (csrWrote x 0x002 v).lane i = v.extractLsb' 0 32 ^^^ BitVec.ofNat 32 (i * 0x9E3779B9 % 2 ^ 32)) ∧
  ∀ (i : Instr) (q : Ring × List SrcF × BitVec 12 × Bool) (c : Cause) (s : State) (caps : List (Option Src)) (x : Context),
    csrNamed i = some q → issueCaptures s .P q.1 q.2.1 = some (caps, x) → csrTrap x q.2.2.1 q.2.2.2 = some c →
    exec i s = .next (raise (issued i s caps x)
      { cause := c, detail := 0, faddr := 0, fpc := s.x.pc, async := false, keep := true })

/-! ### Control -/

/-- BR, BZ, BNZ, BLTZ, BGEZ, JL and BRL (R84, R173, R174): a taken transfer goes to its target with its link written, an untaken one
falls through, and each is one outcome for the execute side, which pushes one where something stands before it in the execute stream.
Where it rests on a reading or choice of the model: log entry 30. -/
def Obligations.Branches : Prop :=
  ∀ (i : Instr) (f : Branch) (s : State) (ws : List Word) (x : Context),
    branchTable (at0 s) i = some f → issueReads s f.ring f.reads = some (ws, x) →
    (∀ l, f.link = some l → roomG x l.1 = true) →
    ∃ t, exec i s = .next t ∧
      if f.taken ws then Jumped { s with x := linked x f.link } (sigsOf s .P f.ring) (f.target (at0 s) ws) t
      else Retired { s with x := x.outcome (at0 s + 4) } i (sigsOf s .P f.ring) flagNone t

/-- LOOP and LOOPI (R177, R178): a nonzero count pushes a level whose body follows, a zero count goes on past the end instruction E; an end
offset of 0, or an E outside the code range, is the loop error 0x005.
Where it rests on a reading or choice of the model: log entry 65. -/
def Obligations.Loops : Prop :=
  ∀ (i : Instr) (f : Ring × List (BitVec 6 × Bool) × (List Word → Word) × BitVec 11) (s : State) (ws : List Word) (x : Context),
    loopTable i = some f → issueReads s f.1 f.2.1 = some (ws, x) →
    let e : Word := at0 s + 4 * f.2.2.2.setWidth 64
    let u := issued i s (scalarCaps ws) x
    (f.2.2.2 ≠ 0 → (codeRange u).1 ≤ e.toNat → e.toNat < (codeRange u).2 → (∀ l, x.loops.head? = some l → e.toNat ≤ l.stop.toNat) →
      ∀ w v, fetchWord u e.toNat = .ok w v → wordCount w ≠ 0 → isLoopWord w = false →
        (f.2.2.1 ws = 0 → ∃ t, exec i s = .next t ∧
          Looped v (sigsOf s .P f.1) ((endPass e v.x.loops).2.getD (e + 4 * BitVec.ofNat 64 (wordCount w))) (endPass e v.x.loops).1 t) ∧
        (f.2.2.1 ws ≠ 0 → x.loops.length < 4 → ∃ t, exec i s = .next t ∧
          Looped v (sigsOf s .P f.1) (at0 s + 4 * BitVec.ofNat 64 (encode i).length)
            (⟨at0 s + 4 * BitVec.ofNat 64 (encode i).length, e, f.2.2.1 ws⟩ :: v.x.loops) t)) ∧
    (f.2.2.2 = 0 ∨ e.toNat < (codeRange u).1 ∨ (codeRange u).2 ≤ e.toNat →
      ∃ t r, exec i s = .next t ∧ r.cause = 0x005 ∧ r.fpc = s.x.pc ∧ r.keep = true ∧ ∃ y, t = raise { s with x := y } r)

/-- TRAP and SVC retire, send their signals and then enter the trap path with their cause (R182, R183): EPC is where fetch would go on. -/
def Obligations.SoftwareTraps : Prop :=
  ∀ (i : Instr) (f : Ring × Cause × BitVec 32) (s : State) (x : Context),
    trapTable i = some f → issueReads s f.1 [] = some ([], x) →
    ∃ u, Retired { s with x := x } i (sigsOf s .P f.1) flagNone u ∧
      exec i s = .next (raise u { cause := f.2.1, detail := f.2.2, faddr := 0, fpc := s.x.pc, async := false, keep := false })

/-- BRK does not retire (R184, R475): it raises 0x013 with its tag, or stops the core where breakpoint halting is armed. -/
def Obligations.Breakpoints : Prop :=
  ∀ (f : BrkF) (s : State),
    ((getCore s s.core).arm = false → exec (.brk f) s = .next (early s 0x013 (f.tag.setWidth 32))) ∧
    ((getCore s s.core).arm = true → ∃ t, exec (.brk f) s = .next t ∧ t.x = s.x ∧ t.mem = s.mem ∧ (getCore t s.core).halt = true)

/-- Taking a trap (R456–R458, R461): the frame is written, the context enters handler mode at TVEC with CAUSE and EPC set, its queues, loops and
rings empty and its registers kept; without a handler, in handler mode, or with a frame that does not fit, the continuation ends with
its cause, or with 0x014, logged; in handler mode without a handler it is the first of R458's two cases.
Where it rests on a reading or choice of the model: log entries 62 and 244. -/
def Obligations.TrapEntry : Prop :=
  ∀ (s : State) (r : Raised), trapWaits s = false →
    (s.x.tvec = 0 → Ended s (raise s r) ∧ Logged s (raise s r) r.cause) ∧
    (s.x.tvec ≠ 0 → (s.x.handler = true ∨ frameRangeOk s = false) → Ended s (raise s r) ∧ Logged s (raise s r) 0x014) ∧
    (s.x.tvec ≠ 0 → s.x.handler = false → windowOf s.x s.x.tfp.toNat = 1 → frameRangeOk s = true → s.memOk →
      (getCluster s s.cl).badPool = [] →
      InHandler s.x (causeWord r) (s.x.pc.setWidth 64) (raise s r).x ∧ FrameOf s r (raise s r) ∧
      (s.x.wbs = [] → (raise s r).x.g = s.x.g ∧ (raise s r).x.v = s.x.v ∧ (raise s r).x.p = s.x.p ∧ (raise s r).x.h = s.x.h ∧
        (raise s r).x.y = s.x.y ∧ (raise s r).x.k = s.x.k))

/-- ERET (R185, R462): in handler mode it reloads the context from the frame in memory and fetch goes on at EPC; a frame with a field out of
range ends the continuation; outside handler mode it raises 0x012.
Where it rests on a reading or choice of the model: log entries 59, 61, 204, 214 and 230. -/
def Obligations.TrapReturn : Prop :=
  (∀ (s u : State) (fb : List Byte), s.free = true → s.x.handler = true → s.x.stream = [] → ownShoal s s.xid = [] →
    readFrame (drainStores (plain .eret s s.x) s.xid) s.x.tfp.toNat 16 61952 [] = .ok fb u →
    (FrameGood fb → ∃ t, exec .eret s = .next t ∧ Reloaded fb t.x ∧ t.mem = u.mem) ∧
    (¬ FrameGood fb → s.x.tvec ≠ 0 → trapWaits u = false → ∃ t, exec .eret s = .next t ∧ Ended s t ∧ Logged u t 0x014)) ∧
  ∀ s : State, s.x.cur = none → s.x.handler = false → exec .eret s = .next (early s 0x012 0)

/-- KDONE (R411): once both streams, the shoal log and the FINCs are done, the continuation has ended. -/
def Obligations.ContinuationEnds : Prop :=
  ∀ (f : R0) (s : State) (x : Context), issueReads s f.ring [] = some ([], x) → settledDown s x →
    ∃ t, exec (.kdone f) s = .next t ∧ Ended s t

/-- KYIELD (R384, R412): the continuation is written ready past the instruction and placed on its cluster's list when bound, else on a ready
pool; inside a loop it raises 0x00E, in handler mode 0x012.
Where it rests on a reading or choice of the model: log entries 85 and 190. -/
def Obligations.Yields : Prop :=
  (∀ (f : KYieldF) (s : State) (x : Context), issueReads s f.ring [] = some ([], x) → settledDown s x → x.loops = [] →
    x.handler = false →
    ∃ t k, exec (.kyield f) s = .next t ∧ Freed t.x ∧ Carries x (s.x.pc + 4) k ∧ k.state = 0 ∧
      k.bound = boundAfter { s with x := x } f.free ∧
      (k.bound = true → k ∈ (getCluster t s.cl).ready) ∧ (k.bound = false →
        if poolRoom s (s.cl / 12) || poolRoom s centralPool then k ∈ t.ready.map (·.2) else k ∈ (getCluster t s.cl).ready)) ∧
  ∀ (f : KYieldF) (s : State), s.x.cur = none →
    (s.x.handler = true → exec (.kyield f) s = .next (early s 0x012 0)) ∧
    (s.x.handler = false → s.x.loops ≠ [] → exec (.kyield f) s = .next (early s 0x00E 0))

/-- The suspending forms (R318, R321, R403, R384): where the condition does not hold, the continuation suspends at the instruction and its
context is free.
Where it rests on a reading or choice of the model: log entries 200 and 201. -/
def Obligations.Suspensions : Prop :=
  (∀ (f : WaitaF) (s : State) (caps : List (Option Src)) (x : Context), f.sus = true →
    issueCaptures s .P f.ring [.g f.t f.tt, .g f.b f.tb, .g f.o f.te] = some (caps, x) → still x = true → settledDown s x → x.ws = none →
    let n := if f.dbl then 8 else 4
    let u := issued (.waita f) s caps x
    homeIs u needLoad (scal caps 1).toNat n (fun l => readable u l n false &&
      !waitMet f.cond.toNat (8 * n) (valueOf (strong n u l).1) ((scal caps 0).toNat % 2 ^ (8 * n)) (valueOf (strong n u l).1) true) = true →
    ∃ t, exec (.waita f) s = .next t ∧ Suspended u t) ∧
  (∀ (f : FWaitF) (s : State) (caps : List (Option Src)) (x : Context), f.sus = true →
    issueCaptures s .P f.ring [.g f.f f.tf, .g f.v f.tv] = some (caps, x) → still x = true → settledDown s x → x.ws = none →
    let u := issued (.fwait f) s caps x
    (ownFlag u (scal caps 0)).any (fun e =>
      !waitMet f.cond.toNat 32 (flag u e).toNat ((scal caps 1).setWidth 32).toNat (flag u e).toNat true) = true →
    ∃ t, exec (.fwait f) s = .next t ∧ Suspended u t) ∧
  ∀ (f : OpWaitF) (s : State) (x : Context), f.sus = true → issueCaptures s .P f.ring [] = some ([], x) → still x = true →
    settledDown s x →
    let u := plain (.opwait f) s x
    (entry u (token u f.k)).any (fun e => !e.2.state.terminal) = true →
    ∃ t, exec (.opwait f) s = .next t ∧ Suspended u t

/-- A suspending MLEASE (R225): it issues its request once both streams are done; when its token is DONE it completes, and with a request that
is not granted within 4 cycles the continuation suspends and keeps its place.
Where it rests on a reading or choice of the model: log entry 93. -/
def Obligations.LeaseSuspensions : Prop :=
  (∀ (f : MLeaseF) (s : State) (caps : List (Option Src)) (x : Context), f.sus = true → s.x.cur = none →
    issueCaptures s .M f.ring [.g f.b f.tb] = some (caps, x) → still x = true → roomOp { s with x := x } 2 = true →
    ∃ t, exec (.mlease f) s = .next t ∧
      Issued (.mlease f) ⟨f.ring, f.k, f.pri, false, fun _ => 2, [.g f.b f.tb], [], []⟩ (capWords caps) { s with x := x } t ∧
      t.x.cur.any (fun e => e.cont && e.pc = s.x.pc) = true) ∧
  ∀ (f : MLeaseF) (s : State) (e : Entry) (w : WaitSt) (k : TokEntry), f.sus = true → s.eside = false → s.x.outcomes < 16 →
    s.x.cur = some e → e.cont = true → e.waited = true → e.pc = s.x.pc → e.words = encode (.mlease f) → e.caps.length = 1 →
    e.caps.all Option.isSome = true → s.x.ws = some w → tok s s.cl w.m0.toNat = some k →
    (k.state = .done → ∃ t, exec (.mlease f) s = .next t ∧
      Retired { s with x := { s.x with k := vecSet s.x.k f.k.toNat ((getCluster s s.cl).tok w.m0.toNat) } } (.mlease f) [] flagNone t) ∧
    (k.state = .queued → (lease s s.cl).reserved = none → w.t0 + 4 ≤ s.tick → settledDown s s.x →
      ∃ t, exec (.mlease f) s = .next t ∧ Suspended s t)

/-! ### Operations of the engines -/

/-- Copies, fills, channels and PKSET, transfers, remote atomics, collectives and Ethernet operations issue from the access side, matrix
operations from the execute side (R83, R225, R226, R232, R237, R238, R329, R337–R358, R386, R395–R397).
Where it rests on a reading or choice of the model: log entry 72. -/
def Obligations.EngineOperations : Prop := issuesAccess copyTable ∧ issuesAccess fabricTable ∧ issuesExecute matrixTable

/-! ### Steps of the other agents -/

/-- Accesses on their way (R159, R256–R263, R280, R291, R391).
Where it rests on a reading or choice of the model: log entries 19, 53, 54, 57, 213, 216 and 229. -/
def Obligations.MemorySteps : Prop := moves memoryMoves

/-- Steps on a context (R176, R318, R385, R398, R457, R475–R477).
Where it rests on a reading or choice of the model: log entries 45, 58, 60, 66, 176, 201 and 229. -/
def Obligations.ContextSteps : Prop := moves contextMoves

/-- Packets between dies and modules (R286–R303, R322, R394).
Where it rests on a reading or choice of the model: log entries 114, 117, 192 and 208. -/
def Obligations.FabricSteps : Prop := moves fabricMoves

/-- The matrix array (R221–R226, R232–R241).
Where it rests on a reading or choice of the model: log entries 89, 90, 91, 92, 96, 179, 180, 181 and 217. -/
def Obligations.MatrixSteps : Prop := moves matrixMoves

/-- The copy engines, collectives and Ethernet (R327–R359, R472).
Where it rests on a reading or choice of the model: log entries 99, 100, 102, 104, 105, 109, 111, 184, 191, 218, 219, 224, 225, 226 and 227. -/
def Obligations.CopySteps : Prop := moves copyMoves

/-- Bundles, nodes, range tasks and continuations (R377–R384).
Where it rests on a reading or choice of the model: log entries 75, 78, 79, 80, 81, 190 and 235. -/
def Obligations.WorkSteps : Prop := moves workMoves

/-- The command rings (R365–R373, R387–R389).
Where it rests on a reading or choice of the model: log entries 118, 119, 120, 121, 122, 123, 124 and 206. -/
def Obligations.QueueSteps : Prop := moves queueMoves

/-- The hub: skerries, events, boot and registers (R390, R391, R451, R486–R491).
Where it rests on a reading or choice of the model: log entries 132, 133, 152, 153, 154, 155, 156, 171, 172, 189 and 228. -/
def Obligations.HubSteps : Prop := moves hubMoves

/-- The handle authority, partitions, keys and TDISP (R425–R427, R436–R448).
Where it rests on a reading or choice of the model: log entries 17, 69, 70, 71, 135, 136, 137, 138, 139, 140, 141, 236 and 237. -/
def Obligations.AuthoritySteps : Prop := moves authorityMoves

/-- Power, heat, straits and start-up (R488–R496).
Where it rests on a reading or choice of the model: log entries 22, 164, 165, 166, 167, 168, 169, 170, 175, 193, 198, 239, 240, 242 and 243. -/
def Obligations.PowerSteps : Prop := moves powerMoves

/-- Pre-emption, eviction, restoring and function-level reset (R466–R474, R478–R483).
Where it rests on a reading or choice of the model: log entries 143, 144, 145, 146, 147, 148, 149, 150, 157, 158, 159, 160, 161, 231, 232, 233, 234
and 238. -/
def Obligations.RecoverySteps : Prop := moves recoveryMoves

/-! ### Whole-machine rules -/

/-- No instruction of a program changes what the authority, boot and the host's registers hold: the partition table, the maps of queues and
granules, allocation slots, address-space roots, key domains and sealing keys (R425, R436, R439, R446). -/
def Obligations.ProgramsKeepAuthority : Prop :=
  ∀ (i : Instr) (s t : State), program i = true → exec i s = .next t → SameTables s t
end

