-- ==== Sys2Proof/Laws/Issue.lean ====
section
/-!
SUPPORT. What the two issue paths do, said once: operand reading, retirement, and the effect of an instruction that issues at once.
-/

namespace Sys2Proof.Machine

/-! ### `over` keeps what instructions read and write -/

theorem over_over (x c d : Context) : (x.upon c).upon d = x.upon d := rfl

theorem over_self (x : Context) : x.upon x = x := rfl

theorem ringInc_over (x c : Context) (i : Nat) : ringInc (x.upon c) i = (ringInc x i).upon c := by
  have h : (x.upon c).ring = x.ring := rfl
  by_cases g : vecGet x.ring i 0 = 255 <;> simp only [ringInc, h, g, if_true, if_false] <;> rfl

theorem sendSignals_over (l : List Nat) (x c : Context) : sendSignals (x.upon c) l = (sendSignals x l).upon c := by
  unfold sendSignals
  induction l generalizing x with
  | nil => rfl
  | cons i l ih => simp only [List.foldl_cons, ringInc_over, ih]

theorem ringWait_over (x c : Context) (m : Member) (r : Ring) : ringWait (x.upon c) m r = (ringWait x m r).map (·.upon c) := by
  have h : (x.upon c).ring = x.ring := rfl
  simp only [ringWait, h]
  split
  · rfl
  · cases r.wp <;> cases r.wn <;> rfl

/-- A reading outcome with its context changed. -/
def Got.upon : Got → Context → Got
  | .ok v x, c => .ok v (x.upon c)
  | g, _ => g

theorem popS_over (e : Bool) (x c : Context) (n : Nat) : popS e (x.upon c) n = (popS e x n).map (fun p => (p.1, p.2.upon c)) := by
  have h1 : (x.upon c).sAE = x.sAE := rfl
  have h2 : (x.upon c).sEA = x.sEA := rfl
  cases e
  · simp only [popS, h2, Bool.false_eq_true, if_false]; cases vecGet x.sEA n [] <;> rfl
  · simp only [popS, h1, if_true]; cases vecGet x.sAE n [] <;> rfl

theorem popV_over (e : Bool) (x c : Context) (n : Nat) : popV e (x.upon c) n = (popV e x n).map (fun p => (p.1, p.2.upon c)) := by
  have h1 : (x.upon c).vAE = x.vAE := rfl
  have h2 : (x.upon c).vEA = x.vEA := rfl
  cases e
  · simp only [popV, h2, Bool.false_eq_true, if_false]; cases vecGet x.vEA n [] <;> rfl
  · simp only [popV, h1, if_true]; cases vecGet x.vAE n [] <;> rfl

theorem popVNext_over (e : Bool) (x c : Context) (n : Nat) :
    popVNext e (x.upon c) n = (popVNext e x n).map (fun p => (p.1, p.2.upon c)) := by
  simp only [popVNext, popV_over, show takesOf (x.upon c) n = takesOf x n from rfl]
  split <;> rfl

theorem readSrc_over (e : Bool) (x c : Context) (f : SrcF) : readSrc e (x.upon c) f = (readSrc e x f).upon c := by
  cases f with
  | g r te =>
    simp only [readSrc, popS_over, show (x.upon c).gfull = x.gfull from rfl, show (x.upon c).gval = x.gval from rfl]
    split
    · split
      · rfl
      · split <;> rfl
    · cases h : popS e x (r.toNat - 60) with
      | none => simp only [Option.map]; split <;> rfl
      | some p => rfl
  | v r te =>
    simp only [readSrc, popVNext_over, show (x.upon c).vfull = x.vfull from rfl, show (x.upon c).vval = x.vval from rfl,
      show ∀ n, dryV e (x.upon c) n = dryV e x n from fun _ => rfl]
    split
    · split
      · rfl
      · split <;> rfl
    · cases h : popVNext e x (r.toNat - 28) with
      | none => simp only [Option.map]; split <;> rfl
      | some p => rfl
  | run r n te =>
    simp only [readSrc, show (x.upon c).gfull = x.gfull from rfl]
    split
    · rfl
    · split <;> rfl
  | skip => rfl

theorem capture_over (e p : Bool) (fs : List SrcF) (caps : List (Option Src)) (x c : Context) :
    capture e p fs caps (x.upon c) = ((capture e p fs caps x).1, (capture e p fs caps x).2.1.upon c, (capture e p fs caps x).2.2) := by
  induction fs generalizing caps x with
  | nil => rfl
  | cons f fs ih =>
    simp only [capture]
    split
    · simp only [ih]
    · split
      · simp only [ih]
      · rw [readSrc_over]
        cases readSrc e x f with
        | ok v y => simp only [Got.upon, ih]
        | pass => simp only [Got.upon, ih]
        | wait q => rfl
        | trap q => rfl

/-- What a result of `writeDst` or `writeVDst` becomes when the place of fetch is another. -/
def overE : Except Bool Context → Context → Except Bool Context
  | .ok x, c => .ok (x.upon c)
  | .error b, _ => .error b

theorem pushS_over (e : Bool) (x c : Context) (n : Nat) (w : Word) : pushS e (x.upon c) n w = (pushS e x n w).map (·.upon c) := by
  have h1 : (x.upon c).sAE = x.sAE := rfl
  have h2 : (x.upon c).sEA = x.sEA := rfl
  cases e
  · simp only [pushS, h1, Bool.false_eq_true, if_false]; split <;> rfl
  · simp only [pushS, h2, if_true]; split <;> rfl

theorem pushV_over (e : Bool) (x c : Context) (n : Nat) (w : Vec) : pushV e (x.upon c) n w = (pushV e x n w).map (·.upon c) := by
  have h1 : (x.upon c).vAE = x.vAE := rfl
  have h2 : (x.upon c).vEA = x.vEA := rfl
  cases e
  · simp only [pushV, h1, Bool.false_eq_true, if_false]; split <;> rfl
  · simp only [pushV, h2, if_true]; split <;> rfl

theorem setG_over (x c : Context) (r : Nat) (w : Word) : (x.upon c).setG r w = (x.setG r w).upon c := by
  unfold Context.setG; split <;> rfl

theorem setP_over (x c : Context) (r : Nat) (w : Pred) : (x.upon c).setP r w = (x.setP r w).upon c := by
  unfold Context.setP; split <;> rfl

theorem markG_over (x c : Context) (r : Nat) (b : Bool) : (x.upon c).markG r b = (x.markG r b).upon c := by
  unfold Context.markG; split <;> rfl

theorem writeDst_over (x c : Context) (d : BitVec 6) (w : Word) : writeDst (x.upon c) d w = overE (writeDst x d w) c := by
  simp only [writeDst, pushS_over, show (x.upon c).gfull = x.gfull from rfl, setG_over,
    show pendingQs (x.upon c) = pendingQs x from rfl]
  split
  · split <;> rfl
  · split
    · rfl
    · cases pushS false x (d.toNat - 60) w <;> rfl

theorem writeVDst_over (x c : Context) (d : BitVec 5) (w : Vec) : writeVDst (x.upon c) d w = overE (writeVDst x d w) c := by
  simp only [writeVDst, pushV_over, show (x.upon c).vfull = x.vfull from rfl, show ∀ r w, (x.upon c).setV r w = (x.setV r w).upon c from fun _ _ => rfl,
    show pendingQv (x.upon c) = pendingQv x from rfl]
  split
  · split <;> rfl
  · split
    · rfl
    · cases pushV true x (d.toNat - 28) w <;> rfl

theorem orFlags_over (x c : Context) (fl : Flags) : (x.upon c).orFlags fl = (x.orFlags fl).upon c := rfl

/-! ### Retirement -/

theorem goto_over (x : Context) (t : Word) : x.goto t = x.upon (x.goto t) := rfl

theorem outcome_over (x : Context) (t : Word) : x.outcome t = x.upon (x.outcome t) := by
  unfold Context.outcome; split <;> rfl

/-- An outcome joins the stream behind what stands there, and an empty stream needs none. -/
theorem outcome_stream (x : Context) (t : Word) :
    (x.outcome t).stream = x.stream ++ if x.stream.isEmpty then [] else [EItem.outcome t] := by
  unfold Context.outcome
  split
  · rename_i h; rw [h]; rfl
  · rename_i h
    have : x.stream.isEmpty = false := by simpa [List.isEmpty_iff] using h
    rw [this]; rfl

/-- Several outcomes join the stream in order, and nothing else changes. -/
theorem outcomesOf_spec (ts : List Word) (x : Context) :
    x.outcomesOf ts = { x with stream := x.stream ++ if x.stream.isEmpty then [] else ts.map EItem.outcome } := by
  unfold Context.outcomesOf
  induction ts generalizing x with
  | nil => rw [List.map_nil, ite_self, List.append_nil]; rfl
  | cons t ts ih =>
    rw [List.foldl_cons, ih, outcome_stream]
    have ho : x.outcome t = { x with stream := (x.outcome t).stream } := by unfold Context.outcome; split <;> rfl
    rw [ho, outcome_stream]
    cases hs : x.stream with
    | nil => rfl
    | cons a l => simp

/-- Moving past an instruction is end processing: the loop stack, the outcomes of its end decisions and the place of fetch. -/
theorem advance_spec (x : Context) (e : Entry) :
    x.advance e = x.upon (x.advance e) ∧ (x.advance e).cur = x.cur ∧ (x.advance e).loops = (endPass (e.pc.setWidth 64) x.loops).1 ∧
      (x.advance e).stream = x.stream ++ (if x.stream.isEmpty then [] else
        (endDecisions x.loops (endPass (e.pc.setWidth 64) x.loops).1 (endPass (e.pc.setWidth 64) x.loops).2 e.next).map EItem.outcome) ∧
      (e.pc = x.pc → fetchesAt (x.advance e) ((endPass (e.pc.setWidth 64) x.loops).2.getD e.next)) := by
  unfold Context.advance
  rcases endPass (e.pc.setWidth 64) x.loops with ⟨ls, back⟩
  dsimp only
  rw [outcomesOf_spec]
  cases back with
  | some t => exact ⟨rfl, rfl, rfl, rfl, fun _ => ⟨rfl, rfl⟩⟩
  | none =>
    by_cases hp : e.pc = x.pc
    · rw [if_pos hp]
      exact ⟨rfl, rfl, rfl, rfl, fun _ => ⟨rfl, rfl⟩⟩
    · rw [if_neg hp]
      exact ⟨rfl, rfl, rfl, rfl, fun h => absurd h hp⟩

theorem stepHalt_x (s : State) : (stepHalt s).x = s.x := by unfold stepHalt; split <;> rfl

/-- Retirement in sequence, said as `Retired` says it. -/
theorem retire_retired (s : State) (c : Context) (i : Instr) (sigs : List Nat) (fl : Flags) (e : Entry)
    (hpc : e.pc = s.x.pc) (hw : e.words = encode i) (cpc : c.pc = s.x.pc) (cl : c.loops = s.x.loops) (cs : c.stream = s.x.stream) :
    Retired s i sigs fl (retire { s with x := s.x.upon c } e fl sigs) := by
  have hsig : sendSignals ((s.x.upon c).orFlags fl) sigs =
      (sendSignals (s.x.orFlags fl) sigs).upon c := by rw [orFlags_over, sendSignals_over]
  have hr : retire { s with x := s.x.upon c } e fl sigs =
      stepHalt { s with x := ((sendSignals ((s.x.upon c).orFlags fl) sigs).moved s.tick).advance e } := rfl
  unfold Retired
  rw [hr, stepHalt_x, hsig]
  generalize sendSignals (s.x.orFlags fl) sigs = y
  have hn : e.next = s.x.pc.setWidth 64 + 4 * BitVec.ofNat 64 (encode i).length := by rw [Entry.next, hpc, hw]
  have hl : ((y.upon c).moved s.tick).loops = s.x.loops := cl
  have hs : ((y.upon c).moved s.tick).stream = s.x.stream := cs
  obtain ⟨h1, h2, h3, h4, h5⟩ := advance_spec ((y.upon c).moved s.tick) e
  rw [hl, hpc] at h3
  rw [hl, hs, hpc, hn] at h4
  rw [hl, hpc, hn] at h5
  refine ⟨rfl, h1, h2, h3, h5 cpc.symm, ?_⟩
  rw [h4]
  cases s.x.stream <;> rfl

/-! ### Issue -/

theorem srcS_scalarCaps (ws : List Word) (j : Nat) : srcS (scalarCaps ws) j = ws.getD j 0 := by
  unfold srcS scalarCaps
  rw [List.getD_eq_getElem?_getD, List.getD_eq_getElem?_getD, List.getElem?_map]
  cases ws[j]? <;> rfl

theorem readG_src {x y : Context} {r : BitVec 6} {w : Word} (te : Bool) (h : readG x r = some (w, y)) :
    readSrc false x (.g r te) = .ok (.s w) y := by
  unfold readG at h
  by_cases h0 : r = 0
  · subst h0
    simp only [if_true, Option.some.injEq, Prod.mk.injEq] at h
    rw [← h.1, ← h.2]; simp [readSrc, Context.gfull, Context.gval]
  · have hn : r.toNat ≠ 0 := fun e => h0 (BitVec.eq_of_toNat_eq e)
    rw [if_neg h0] at h
    by_cases hr : r.toNat < 60
    · rw [if_pos hr] at h
      cases he : x.gEmpty.getLsbD r.toNat with
      | true => rw [he] at h; exact absurd h (by simp)
      | false =>
        rw [he] at h
        simp only [Bool.false_eq_true, if_false, Option.some.injEq, Prod.mk.injEq] at h
        rw [← h.1, ← h.2]; simp [readSrc, Context.gfull, Context.gval, hr, he, hn]
    · rw [if_neg hr] at h
      cases hq : vecGet x.sEA (r.toNat - 60) [] with
      | nil => rw [hq] at h; exact absurd h (by simp)
      | cons v t =>
        rw [hq] at h
        simp only [Option.some.injEq, Prod.mk.injEq] at h
        rw [← h.1, ← h.2]; simp [readSrc, hr, popS, hq]

theorem readSrc_keeps {e : Bool} {x y : Context} {f : SrcF} {v : Src} (h : readSrc e x f = .ok v y) : y = y.upon x := by
  have k := readSrc_over e x x f
  rw [over_self, h] at k
  exact (Got.ok.inj k).2

theorem capture_readGs {fs : List (BitVec 6 × Bool)} {x y : Context} {ws : List Word} (h : readGs x fs = some (ws, y)) :
    capture false false (fs.map (fun f => SrcF.g f.1 f.2)) [] x = (scalarCaps ws, y, .ok) := by
  induction fs generalizing x ws with
  | nil => simp only [readGs, Option.some.injEq, Prod.mk.injEq] at h; obtain ⟨h1, h2⟩ := h; subst h1 h2; rfl
  | cons f fs ih =>
    simp only [readGs, Option.bind_eq_some_iff, Option.map_eq_some_iff, Prod.mk.injEq] at h
    obtain ⟨⟨w, z⟩, hz, ⟨vs, z2⟩, hr, h1, h2⟩ := h
    simp only at h1 h2 hr
    rw [h2] at hr
    rw [← h1]
    simp only [List.map_cons, capture, List.headD_nil, List.tail_nil, readG_src f.2 hz, ih hr, scalarCaps]
    simp

theorem ringWait_keeps {x y : Context} {m : Member} {r : Ring} (h : ringWait x m r = some y) : y = y.upon x := by
  have k := ringWait_over x x m r
  rw [over_self, h] at k
  exact Option.some.inj k

theorem capture_keeps {e p : Bool} {fs : List SrcF} {caps c : List (Option Src)} {x y : Context} {o : Cap}
    (h : capture e p fs caps x = (c, y, o)) : y = y.upon x := by
  have k := capture_over e p fs caps x x
  rw [over_self, h] at k
  exact congrArg (·.2.1) k

theorem issueReads_keeps {s : State} {r : Ring} {fs : List (BitVec 6 × Bool)} {ws : List Word} {x : Context}
    (h : issueReads s r fs = some (ws, x)) : x = x.upon s.x := by
  unfold issueReads at h
  split at h
  · simp only [Option.bind_eq_some_iff] at h
    obtain ⟨z, hz, hx⟩ := h
    rw [capture_keeps (capture_readGs hx), ringWait_keeps hz]; rfl
  · exact absurd h (by simp)

/-- A P instruction that issues has its effect on the values it read. -/
theorem issue_reads {s : State} {i : Instr} {fs : List (BitVec 6 × Bool)} {ws : List Word} {x : Context}
    (body : List (Option Src) → State → Done) (hs : sources i = fs.map (fun f => SrcF.g f.1 f.2))
    (h : issueReads s (ringOf i) fs = some (ws, x)) :
    issue i .P body s = finish (issueEntry i s (scalarCaps ws)) (sigsOf s .P (ringOf i))
      (body (scalarCaps ws) { s with x := x.upon { s.x with cur := some (issueEntry i s (scalarCaps ws)) } }) := by
  unfold issueReads at h
  split at h
  · rename_i hf
    simp only [State.free, Bool.and_eq_true, Option.isNone_iff_eq_none, Bool.not_eq_true', decide_eq_true_eq] at hf
    obtain ⟨⟨hc, he⟩, ho⟩ := hf
    cases hr : ringWait s.x .P (actRing s.x (ringOf i)) with
    | none => rw [hr] at h; exact absurd h (by simp)
    | some z =>
      rw [hr] at h
      simp only [Option.bind] at h
      have hz := ringWait_keeps hr
      have hx := capture_keeps (capture_readGs h)
      have hcap := capture_readGs h
      unfold issue
      have hent : accessEntry i s.x = { pc := s.x.pc, words := encode i, exec := false, waited := false, caps := [], cont := false, prog := 0 } := by
        simp [accessEntry, hc]
      simp only [hent]
      rw [if_neg (by omega)]
      simp only [ne_eq, not_true_eq_false, decide_false, Bool.or_self, Bool.false_eq_true, if_false, hr, hs, hcap, if_true]
      unfold sigsOf issueEntry
      congr 2
      rw [show x = x.upon s.x by rw [hx, hz]; rfl]
      rfl
  · exact absurd h (by simp)

theorem writeDst_room {x : Context} {d : BitVec 6} (w : Word) (h : roomG x d = true) : writeDst x d w = .ok (wroteG x d w) := by
  unfold roomG at h
  by_cases h0 : d = 0
  · subst h0; simp [writeDst, wroteG, Context.gfull, Context.setG]
  · have hn : d.toNat ≠ 0 := fun e => h0 (BitVec.eq_of_toNat_eq e)
    by_cases hr : d.toNat < 60
    · simp only [h0, hr, decide_false, Bool.false_or, if_true, Bool.not_eq_true'] at h
      simp [writeDst, wroteG, Context.gfull, Context.setG, hr, h, hn]
      exact fun e => absurd e h0
    · simp only [h0, hr, decide_false, Bool.false_or, if_false, Bool.and_eq_true, Bool.not_eq_true', decide_eq_true_eq] at h
      simp [writeDst, wroteG, pushS, scalarRoom, hr, h.1, h.2]
      exact fun e => absurd e h0

theorem wroteG_over (x c : Context) (d : BitVec 6) (w : Word) : wroteG (x.upon c) d w = (wroteG x d w).upon c := by
  unfold wroteG; split
  · rfl
  · split <;> rfl

theorem roomG_over (x c : Context) (d : BitVec 6) : roomG (x.upon c) d = roomG x d := rfl

/-- A scalar result written at issue: the instruction retires with its destination written and nothing else changed. -/
theorem putG_retired {s : State} {i : Instr} {fs : List (BitVec 6 × Bool)} {ws : List Word} {x : Context} {d : BitVec 6}
    (fn : List (Option Src) → Word) (fl : List (Option Src) → Flags) (hs : sources i = fs.map (fun f => SrcF.g f.1 f.2))
    (h : issueReads s (ringOf i) fs = some (ws, x)) (hw : roomG x d = true) :
    Retired { s with x := wroteG x d (fn (scalarCaps ws)) } i (sigsOf s .P (ringOf i)) (fl (scalarCaps ws))
      (issue i .P (fun caps s => putG s d (fn caps) (fl caps)) s) := by
  rw [issue_reads _ hs h]
  simp only [putG, writeDst_over, writeDst_room _ hw, overE, finish]
  have hk : wroteG x d (fn (scalarCaps ws)) = (wroteG x d (fn (scalarCaps ws))).upon s.x := by
    have k := wroteG_over x s.x d (fn (scalarCaps ws))
    rw [← issueReads_keeps h] at k
    exact k
  exact retire_retired { s with x := wroteG x d (fn (scalarCaps ws)) } _ i _ _ _ (by rw [hk]; rfl) rfl (by rw [hk]; rfl) (by rw [hk]; rfl)
    (by rw [hk]; rfl)

/-! ### Issue with sources of any kind -/

theorem readA_src {x y : Context} {f : SrcF} {v : Src} (h : readA x f = some (some v, y)) : readSrc false x f = .ok v y := by
  cases f with
  | skip => exact absurd h (by simp [readA])
  | run r n te => simp only [readA] at h; split at h <;> exact absurd h (by simp)
  | g r te =>
    simp only [readA, Option.map_eq_some_iff, Prod.mk.injEq, Option.some.injEq] at h
    obtain ⟨⟨w, z⟩, hz, hv, hy⟩ := h
    subst hv hy
    exact readG_src te hz
  | v r te =>
    simp only [readA] at h
    split at h
    · exact absurd h (by simp)
    · rename_i hr
      cases hq : vecGet x.vEA (r.toNat - 28) [] with
      | nil => rw [hq] at h; exact absurd h (by simp)
      | cons w t =>
        rw [hq] at h
        simp only [Option.some.injEq, Prod.mk.injEq] at h
        rw [← h.1, ← h.2]; simp [readSrc, hr, popVNext, popV, hq]

theorem readA_cases {x y : Context} {f : SrcF} {o : Option Src} (h : readA x f = some (o, y)) :
    (f = .skip ∧ o = none ∧ y = x) ∨ (readSrc false x f = .pass ∧ f ≠ .skip ∧ o = none ∧ y = x) ∨
      ∃ v, o = some v ∧ f ≠ .skip ∧ readSrc false x f = .ok v y := by
  cases f with
  | skip =>
    simp only [readA, Option.some.injEq, Prod.mk.injEq] at h
    exact .inl ⟨rfl, h.1.symm, h.2.symm⟩
  | run r n te =>
    simp only [readA] at h
    split at h
    · rename_i hf
      simp only [Option.some.injEq, Prod.mk.injEq] at h
      refine .inr (.inl ⟨?_, by simp, h.1.symm, h.2.symm⟩)
      exact if_pos hf
    · exact absurd h (by simp)
  | g r te =>
    obtain ⟨⟨w, z⟩, hz, hv⟩ := Option.map_eq_some_iff.1 (show (readG x r).map (fun a => (some (Src.s a.1), a.2)) = some (o, y) from h)
    have ho : o = some (.s w) := (congrArg Prod.fst hv).symm
    subst ho
    exact .inr (.inr ⟨_, rfl, by simp, readA_src h⟩)
  | v r te =>
    cases o with
    | none =>
      simp only [readA] at h
      split at h
      · exact absurd h (by simp)
      · split at h <;> exact absurd h (by simp)
    | some v => exact .inr (.inr ⟨v, rfl, by simp, readA_src h⟩)

theorem capture_readAs {fs : List SrcF} {x y : Context} {caps : List (Option Src)} (h : readAs x fs = some (caps, y)) :
    capture false false fs [] x = (caps, y, .ok) := by
  induction fs generalizing x caps with
  | nil => simp only [readAs, Option.some.injEq, Prod.mk.injEq] at h; obtain ⟨h1, h2⟩ := h; subst h1 h2; rfl
  | cons f fs ih =>
    simp only [readAs, Option.bind_eq_some_iff, Option.map_eq_some_iff, Prod.mk.injEq] at h
    obtain ⟨⟨o, z⟩, hz, ⟨os, z2⟩, hr, h1, h2⟩ := h
    simp only at h1 h2 hr
    rw [h2] at hr
    rw [← h1]
    rcases readA_cases hz with ⟨hf, ho, hzx⟩ | ⟨hp, hf, ho, hzx⟩ | ⟨v, ho, hf, hs⟩
    · subst hf ho hzx
      simp [capture, ih hr]
    · subst ho hzx
      simp [capture, hf, hp, ih hr]
    · subst ho
      simp [capture, hf, hs, ih hr]

/-- An instruction that issues on the access side has its effect on what it captured, in the state in which it is in progress. -/
theorem issue_captures {s : State} {i : Instr} {m : Member} {fs : List SrcF} {caps : List (Option Src)} {x : Context}
    (body : List (Option Src) → State → Done) (hs : sources i = fs) (h : issueCaptures s m (ringOf i) fs = some (caps, x)) :
    issue i m body s = finish (issueEntry i s caps m) (if m = .P then sigsOf s .P (ringOf i) else []) (body caps (issued i s caps x m)) := by
  unfold issueCaptures at h
  split at h
  · rename_i hf
    simp only [State.free, Bool.and_eq_true, Option.isNone_iff_eq_none, Bool.not_eq_true', decide_eq_true_eq] at hf
    obtain ⟨⟨hc, he⟩, ho⟩ := hf
    have hent : accessEntry i s.x = { pc := s.x.pc, words := encode i, exec := false, waited := false, caps := [], cont := false, prog := 0 } := by
      simp [accessEntry, hc]
    obtain ⟨z, hr, hx⟩ := Option.bind_eq_some_iff.1 h
    have hcap := capture_readAs hx
    unfold issue
    simp only [hent]
    rw [if_neg (by omega)]
    by_cases hm : m = .P
    · rw [if_pos hm] at hr
      simp only [hm, ne_eq, not_true_eq_false, decide_false, Bool.or_self, Bool.false_eq_true, if_false, if_true, hr, hs, hcap]
      rfl
    · rw [if_neg hm] at hr
      cases hr
      simp only [hm, ne_eq, not_false_eq_true, decide_true, Bool.or_true, if_true, if_false, hs, hcap]
      unfold issued issueEntry
      simp only [hm, decide_false, Bool.or_self]
  · exact absurd h (by simp)

/-! ### Issue and execution of M instructions -/

theorem stepHalt_with (s : State) (x y : Context) : { stepHalt { s with x := x } with x := y } = stepHalt { s with x := y } := by
  cases hh : (getCore s s.core).one with
  | true =>
    have e : ∀ z : Context, stepHalt { s with x := z } = modCore { s with x := z } s.core (fun k => { k with one := false, halt := true }) :=
      fun z => if_pos (show (getCore { s with x := z } s.core).one = true from hh)
    rw [e, e]; rfl
  | false =>
    have e : ∀ z : Context, stepHalt { s with x := z } = { s with x := z } :=
      fun z => if_neg (fun h => Bool.false_ne_true (hh.symm.trans h))
    rw [e, e]

theorem popS_handler {e : Bool} {x y : Context} {n : Nat} {w : Word} (h : popS e x n = some (w, y)) : y.handler = x.handler := by
  cases e
  · simp only [popS, Bool.false_eq_true, if_false] at h
    cases hq : vecGet x.sEA n [] with
    | nil => rw [hq] at h; exact absurd h (by simp)
    | cons a t => rw [hq] at h; rw [← (Prod.mk.inj (Option.some.inj h)).2]
  · simp only [popS, if_true] at h
    cases hq : vecGet x.sAE n [] with
    | nil => rw [hq] at h; exact absurd h (by simp)
    | cons a t => rw [hq] at h; rw [← (Prod.mk.inj (Option.some.inj h)).2]

theorem popV_handler {e : Bool} {x y : Context} {n : Nat} {w : Vec} (h : popV e x n = some (w, y)) : y.handler = x.handler := by
  cases e
  · simp only [popV, Bool.false_eq_true, if_false] at h
    cases hq : vecGet x.vEA n [] with
    | nil => rw [hq] at h; exact absurd h (by simp)
    | cons a t => rw [hq] at h; rw [← (Prod.mk.inj (Option.some.inj h)).2]
  · simp only [popV, if_true] at h
    cases hq : vecGet x.vAE n [] with
    | nil => rw [hq] at h; exact absurd h (by simp)
    | cons a t => rw [hq] at h; rw [← (Prod.mk.inj (Option.some.inj h)).2]

theorem popVNext_handler {e : Bool} {x y : Context} {n : Nat} {w : Vec} (h : popVNext e x n = some (w, y)) : y.handler = x.handler := by
  unfold popVNext at h
  split at h
  · exact absurd h (by simp)
  · exact popV_handler h

theorem readSrc_handler {e : Bool} {x y : Context} {f : SrcF} {v : Src} (h : readSrc e x f = .ok v y) : y.handler = x.handler := by
  cases f with
  | skip => exact absurd h (by simp [readSrc])
  | run r n te =>
    simp only [readSrc] at h
    split at h
    · exact absurd h (by simp)
    · split at h <;> exact absurd h (by simp)
  | g r te =>
    simp only [readSrc] at h
    split at h
    · split at h
      · rw [← (Got.ok.inj h).2]
      · split at h <;> exact absurd h (by simp)
    · split at h
      · rename_i w z hp
        rw [← (Got.ok.inj h).2, popS_handler hp]
      · split at h <;> exact absurd h (by simp)
  | v r te =>
    simp only [readSrc] at h
    split at h
    · split at h
      · rw [← (Got.ok.inj h).2]
      · split at h <;> exact absurd h (by simp)
    · split at h
      · rename_i w z hp
        rw [← (Got.ok.inj h).2, popVNext_handler hp]
      · split at h <;> exact absurd h (by simp)

theorem capture_handler (e p : Bool) (fs : List SrcF) (caps : List (Option Src)) (x : Context) :
    (capture e p fs caps x).2.1.handler = x.handler := by
  induction fs generalizing caps x with
  | nil => rfl
  | cons f fs ih =>
    simp only [capture]
    split
    · exact ih _ _
    · split
      · exact ih _ _
      · cases hr : readSrc e x f with
        | ok v y => simp only [ih, readSrc_handler hr]
        | pass => simp only [ih]
        | wait q => rfl
        | trap q => rfl

theorem popStream_stepHalt (s : State) (C y : Context) (fl : Flags) (sigs : List Nat) :
    popStream { stepHalt { s with x := C } with x := y } fl sigs =
      stepHalt { s with x := { sendSignals (y.orFlags fl) sigs with
        stream := y.stream.tail, blockA := false, blockE := false, since := s.tick, readyE := none, promE := false } } := by
  cases hh : (getCore s s.core).one with
  | true =>
    have e : ∀ z : Context, stepHalt { s with x := z } = modCore { s with x := z } s.core (fun k => { k with one := false, halt := true }) :=
      fun z => if_pos (show (getCore { s with x := z } s.core).one = true from hh)
    rw [e, e]; rfl
  | false =>
    have e : ∀ z : Context, stepHalt { s with x := z } = { s with x := z } :=
      fun z => if_neg (fun h => Bool.false_ne_true (hh.symm.trans h))
    rw [e, e]; rfl

/-- What the access side forwards of an M instruction's sources. -/
def preCaps (x : Context) (fs : List SrcF) : List (Option Src) :=
  fs.map (fun f => match f with
    | .g r _ => if r.toNat < 60 then some (.s (x.gval r.toNat)) else none
    | _ => none)

theorem capture_pre {x : Context} {fs : List SrcF} (h : forwarded x fs = true) :
    capture false true fs [] x = (preCaps x fs, x, .ok) := by
  induction fs with
  | nil => rfl
  | cons f fs ih =>
    simp only [forwarded, List.all_cons, Bool.and_eq_true] at h
    have ih := ih h.2
    cases f with
    | skip => simp [capture, ih, preCaps]
    | run r n te => simp [capture, SrcF.early, ih, preCaps]
    | v r te => simp [capture, SrcF.early, ih, preCaps]
    | g r te =>
      by_cases hr : r.toNat < 60
      · have hf : x.gfull r.toNat = true := by
          have h1 := h.1
          simp only [Bool.or_eq_true, decide_eq_true_eq, Bool.not_eq_true'] at h1
          unfold Context.gfull
          rcases h1 with (h1 | h1) | h1
          · subst h1; rfl
          · exact absurd hr (by omega)
          · simp [h1]
        simp [capture, SrcF.early, hr, ih, readSrc, hf, preCaps]
      · simp [capture, SrcF.early, hr, ih, preCaps]

theorem readE_g {x y : Context} {f : SrcF} {v : Src} (h : readE x f = some (v, y)) : y.g = x.g := by
  cases f with
  | skip => exact absurd h (by simp [readE])
  | run r n te => exact absurd h (by simp [readE])
  | g r te =>
    simp only [readE] at h
    split at h
    · rw [← (Prod.mk.inj (Option.some.inj h)).2]
    · split at h
      · split at h
        · exact absurd h (by simp)
        · rw [← (Prod.mk.inj (Option.some.inj h)).2]
      · split at h
        · exact absurd h (by simp)
        · rw [← (Prod.mk.inj (Option.some.inj h)).2]
  | v r te =>
    simp only [readE] at h
    split at h
    · split at h
      · exact absurd h (by simp)
      · rw [← (Prod.mk.inj (Option.some.inj h)).2]
    · split at h
      · exact absurd h (by simp)
      · split at h
        · rw [← (Prod.mk.inj (Option.some.inj h)).2]
        · exact absurd h (by simp)

theorem readE_src {x y : Context} {f : SrcF} {v : Src} (h : readE x f = some (v, y)) : readSrc true x f = .ok v y := by
  cases f with
  | skip => exact absurd h (by simp [readE])
  | run r n te => exact absurd h (by simp [readE])
  | g r te =>
    simp only [readE] at h
    by_cases h0 : r = 0
    · subst h0
      simp only [if_true, Option.some.injEq, Prod.mk.injEq] at h
      rw [← h.1, ← h.2]; simp [readSrc, Context.gfull, Context.gval]
    · have hn : r.toNat ≠ 0 := fun e => h0 (BitVec.eq_of_toNat_eq e)
      rw [if_neg h0] at h
      by_cases hr : r.toNat < 60
      · rw [if_pos hr] at h
        cases he : x.gEmpty.getLsbD r.toNat with
        | true => rw [he] at h; exact absurd h (by simp)
        | false =>
          rw [he] at h
          simp only [Bool.false_eq_true, if_false, Option.some.injEq, Prod.mk.injEq] at h
          rw [← h.1, ← h.2]; simp [readSrc, Context.gfull, Context.gval, hr, he, hn]
      · rw [if_neg hr] at h
        cases hq : vecGet x.sAE (r.toNat - 60) [] with
        | nil => rw [hq] at h; exact absurd h (by simp)
        | cons v t =>
          rw [hq] at h
          simp only [Option.some.injEq, Prod.mk.injEq] at h
          rw [← h.1, ← h.2]; simp [readSrc, hr, popS, hq]
  | v r te =>
    simp only [readE] at h
    by_cases hr : r.toNat < 28
    · rw [if_pos hr] at h
      cases he : x.vEmpty.getLsbD r.toNat with
      | true => rw [he] at h; exact absurd h (by simp)
      | false =>
        rw [he] at h
        simp only [Bool.false_eq_true, if_false, Option.some.injEq, Prod.mk.injEq] at h
        rw [← h.1, ← h.2]; simp [readSrc, Context.vfull, Context.vval, hr, he]
    · rw [if_neg hr] at h
      cases hq : vecGet x.vAE (r.toNat - 28) [] with
      | nil => rw [hq] at h; exact absurd h (by simp)
      | cons v t =>
        rw [hq] at h
        by_cases ht : takesOf x (r.toNat - 28) = 0
        · simp only [ht, if_true, Option.some.injEq, Prod.mk.injEq] at h
          rw [← h.1, ← h.2]; simp [readSrc, hr, popVNext, ht, popV, hq]
        · simp only [ht, if_false] at h
          exact absurd h (by simp)

theorem capture_exec {fs : List SrcF} {x0 x y : Context} {vs : List Src} (hg : x.g = x0.g) (h : readEs x fs = some (vs, y)) :
    capture true false fs (preCaps x0 fs) x = (vs.map some, y, .ok) := by
  induction fs generalizing x vs with
  | nil => simp only [readEs, Option.some.injEq, Prod.mk.injEq] at h; obtain ⟨h1, h2⟩ := h; subst h1 h2; rfl
  | cons f fs ih =>
    simp only [readEs, Option.bind_eq_some_iff, Option.map_eq_some_iff, Prod.mk.injEq] at h
    obtain ⟨⟨w, z⟩, hz, ⟨us, z2⟩, hr, h1, h2⟩ := h
    simp only at h1 h2 hr
    rw [h2] at hr
    rw [← h1]
    have ih := ih (by rw [readE_g hz, hg]) hr
    have hsrc := readE_src hz
    cases f with
    | skip => exact absurd hz (by simp [readE])
    | run r n te => exact absurd hz (by simp [readE])
    | v r te => simp [capture, preCaps, hsrc] at ih ⊢; simp [ih]
    | g r te =>
      by_cases hr6 : r.toNat < 60
      · have hw : w = .s (x0.gval r.toNat) ∧ z = x := by
          have hv : x0.gval r.toNat = x.gval r.toNat := by unfold Context.gval; rw [hg]
          rw [hv]
          simp only [readSrc, hr6, if_true] at hsrc
          split at hsrc
          · exact ⟨(Got.ok.inj hsrc).1.symm, (Got.ok.inj hsrc).2.symm⟩
          · split at hsrc <;> exact absurd hsrc (by simp)
        rw [hw.2] at ih
        simp only [preCaps] at ih
        simp [capture, preCaps, hr6, ih, hw.1]
      · simp only [preCaps] at ih
        simp [capture, preCaps, hr6, hsrc, ih]

theorem ringWait_g {x y : Context} {m : Member} {r : Ring} (h : ringWait x m r = some y) : y.g = x.g := by
  unfold ringWait at h
  have hk : ∀ z n, (ringDec z n).g = z.g := fun z n => rfl
  cases hp : r.wp <;> cases hn : r.wn <;> simp only [hp, hn] at h <;> split at h
  all_goals first
    | (rw [← Option.some.inj h]; simp [hk])
    | exact absurd h (Option.some_ne_none _).symm

theorem executeReads_keeps {s : State} {r : Ring} {fs : List SrcF} {vs : List Src} {x : Context}
    (h : executeReads s r fs = some (vs, x)) : x = x.upon s.x := by
  unfold executeReads at h
  split at h
  · simp only [Option.bind_eq_some_iff] at h
    obtain ⟨z, hz, hx⟩ := h
    have hg := ringWait_g hz
    rw [capture_keeps (capture_exec hg hx), ringWait_keeps hz]; rfl
  · exact absurd h (by simp)

/-- What happens when an M instruction issues while the execute side has caught up: it runs at once on the values it read, in a state that
holds the place of fetch past it. -/
theorem issueM_executes {s : State} {i : Instr} {fs : List SrcF} {vs : List Src} {x : Context}
    (body : List (Option Src) → State → DoneM) (hs : sources i = fs) (h : executeReads s (ringOf i) fs = some (vs, x)) :
    ∃ (e : Entry) (C : Context), fetchNext i s.x { C with stream := C.stream.tail } true ∧
      issueM i false body s = finishM e (sigsOf s .M (ringOf i)) (body (vs.map some) { stepHalt { s with x := C } with x := x.upon C }) := by
  unfold executeReads at h
  split at h
  · rename_i hf
    simp only [State.idle, Bool.and_eq_true, Option.isNone_iff_eq_none, Bool.not_eq_true', List.isEmpty_iff] at hf
    obtain ⟨⟨⟨⟨hc, he⟩, hl⟩, hst⟩, hfw⟩ := hf
    simp only [Option.bind_eq_some_iff] at h
    obtain ⟨x2, hr, hx⟩ := h
    have hg := ringWait_g hr
    have hc1 := capture_pre hfw
    have hc2 := capture_exec hg hx
    have hent : accessEntry i s.x = { pc := s.x.pc, words := encode i, exec := false, waited := false, caps := [], cont := false, prog := 0 } := by
      simp [accessEntry, hc]
    generalize hE : ({ pc := s.x.pc, words := encode i, exec := true, waited := false, caps := preCaps s.x fs, cont := false, prog := 0 } : Entry) = e
    have hp : e.pc = s.x.pc := by rw [← hE]
    have hn : e.next = s.x.pc.setWidth 64 + 4 * BitVec.ofNat 64 (encode i).length := by rw [← hE]; rfl
    generalize hC : ({ s.x.moved s.tick with stream := [EItem.instr e] } : Context).advance e = C
    obtain ⟨h1, h2, h3, h4, h5⟩ := advance_spec ({ s.x.moved s.tick with stream := [EItem.instr e] } : Context) e
    rw [hC] at h1 h2 h3 h4 h5
    have hCo : C = s.x.upon C := h1
    have hw : ringWait C .M (actRing C (ringOf i)) = some (x2.upon C) := by
      rw [show actRing C (ringOf i) = actRing s.x (ringOf i) by rw [hCo]; rfl, hCo, ringWait_over, hr]; rfl
    have hcap : capture true false fs (preCaps s.x fs) (x2.upon C) = (vs.map some, x.upon C, .ok) := by rw [capture_over, hc2]
    rw [hp] at h3
    rw [hp, hn] at h4 h5
    refine ⟨{ e with waited := true, caps := vs.map some }, C, ⟨h2, h3, h5 rfl, ?_⟩, ?_⟩
    · show C.stream.tail = _
      rw [h4, hst]; rfl
    · unfold issueM issueLate
      rw [if_neg (by rw [he]; simp)]
      simp only [hent]
      rw [if_neg (by simp [Context.outcomes, hst, streamEntries, streamSlots])]
      simp only [hs, hc1]
      rw [if_pos (by rw [hst, hl]; rfl), hst, List.nil_append, hE, hC]
      unfold executeHead
      rw [stepHalt_x]
      rw [← hE]
      simp only [Bool.or_self, Bool.false_eq_true, if_false, hw, hs, hcap]
      rw [show actRing C (ringOf i) = actRing s.x (ringOf i) by rw [hCo]; rfl]
      rfl
  · exact absurd h (by simp)

/-- An M instruction whose body answers `ok` on what it reads retires at once. -/
theorem issueM_retired {s : State} {i : Instr} {fs : List SrcF} {vs : List Src} {x y : Context} {fl : Flags}
    {body : List (Option Src) → State → DoneM} (hs : sources i = fs) (h : executeReads s (ringOf i) fs = some (vs, x))
    (hy : y = y.upon s.x)
    (hb : ∀ (u : State) (z : Context), body (vs.map some) { u with x := x.upon z } = .ok { u with x := y.upon z } fl) :
    Retired { s with x := y } i (sigsOf s .M (ringOf i)) fl (issueM i false body s) true := by
  obtain ⟨e, C, ⟨hc, hl, hf, hst⟩, hE⟩ := issueM_executes body hs h
  have hys : y.stream = s.x.stream := by rw [hy]; rfl
  have hyl : y.loops = s.x.loops := by rw [hy]; rfl
  have hyp : y.pc = s.x.pc := by rw [hy]; rfl
  rw [hE, hb]
  simp only [finishM]
  rw [popStream_stepHalt, orFlags_over, sendSignals_over]
  have key : ∀ z : Context, (stepHalt { s with x := z }).x = z := fun z => stepHalt_x _
  refine ⟨?_, ?_, ?_, ?_, ?_, ?_⟩
  · rw [key]
  · rw [key]; rfl
  · rw [key]; exact hc
  · rw [key, hyl, hyp]; exact hl
  · rw [key, hyl, hyp]; exact hf
  · rw [key, hyl, hyp, hys]; exact hst

/-! ### The head of the execute stream -/

/-- An M instruction at the head of the stream whose body answers `ok` on what it reads is completed there (R83). -/
theorem issueM_executed {s : State} {i : Instr} {caps cs : List (Option Src)} {x y : Context} {fl : Flags}
    {body : List (Option Src) → State → DoneM} (hh : s.atHead i caps) (h : headReads s (ringOf i) (sources i) caps = some (cs, x))
    (hy : y = y.upon s.x) (hb : body cs { s with x := x } = .ok { s with x := y } fl) :
    Executed { s with x := y } (sigsOf s .M (ringOf i)) fl (issueM i false body s) := by
  obtain ⟨he, e, l, hst, hw, hc, hwt⟩ := hh
  unfold headReads at h
  obtain ⟨x2, hr, h⟩ := Option.bind_eq_some_iff.1 h
  have hcap : capture true false (sources i) e.caps x2 = (cs, x, .ok) := by
    rw [hc]
    rcases hq : capture true false (sources i) caps x2 with ⟨c, z, o⟩
    rw [hq] at h
    cases o with
    | ok => simp only [Option.some.injEq, Prod.mk.injEq] at h; rw [h.1, h.2]
    | wait q => exact absurd h (by simp)
    | trap q => exact absurd h (by simp)
  unfold issueM issueLate executeHead
  rw [if_pos he, hst]
  simp only [hwt, Bool.or_self, Bool.false_eq_true, if_false, hr, hcap, hb, finishM]
  have e1 : (popStream { s with x := y } fl (sigsOf s .M (ringOf i))).x =
      (sendSignals (y.orFlags fl) (sigsOf s .M (ringOf i))).upon (popStream { s with x := y } fl (sigsOf s .M (ringOf i))).x := rfl
  have kx : ∀ (z : Context) (l : List Nat), sendSignals (z.upon s.x) l = (sendSignals z l).upon s.x := fun z l => sendSignals_over l z s.x
  have hz : sendSignals (y.orFlags fl) (sigsOf s .M (ringOf i)) = (sendSignals (y.orFlags fl) (sigsOf s .M (ringOf i))).upon s.x := by
    rw [← kx, ← orFlags_over, ← hy]
  exact ⟨rfl, e1, rfl, (congrArg Context.cur hz).trans (congrArg Context.cur hy).symm, (congrArg Context.pc hz).trans (congrArg Context.pc hy).symm,
    (congrArg Context.xfer hz).trans (congrArg Context.xfer hy).symm, (congrArg Context.loops hz).trans (congrArg Context.loops hy).symm,
    (congrArg Context.ws hz).trans (congrArg Context.ws hy).symm, (congrArg Context.got hz).trans (congrArg Context.got hy).symm⟩

end Sys2Proof.Machine
end

