-- ==== Sys2Proof/Laws/Memory.lean ====
section
/-!
SUPPORT. The canonical form of memory: the operations over a memory keep it.
-/

namespace Sys2Proof.Machine

theorem memCells_bounds (bs : List Byte) (a : Nat) : ∀ c ∈ memCells a bs, a ≤ c.1 ∧ c.1 < a + bs.length ∧ c.2 ≠ emptyByte := by
  induction bs generalizing a with
  | nil => simp [memCells]
  | cons b bs ih =>
    intro c hc
    unfold memCells at hc
    split at hc
    · have h := ih (a + 1) c hc
      simp only [List.length_cons]
      exact ⟨by omega, by omega, h.2.2⟩
    · rcases List.mem_cons.1 hc with h | h
      · subst h
        exact ⟨Nat.le_refl _, by simp, by assumption⟩
      · have h := ih (a + 1) c h
        simp only [List.length_cons]
        exact ⟨by omega, by omega, h.2.2⟩

theorem memCells_rising (bs : List Byte) (a : Nat) : (memCells a bs).Pairwise (fun c d => c.1 < d.1) := by
  induction bs generalizing a with
  | nil => simp [memCells]
  | cons b bs ih =>
    unfold memCells
    split
    · exact ih (a + 1)
    · refine List.pairwise_cons.2 ⟨fun c hc => ?_, ih (a + 1)⟩
      have h := memCells_bounds bs (a + 1) c hc
      show a < c.1
      omega

/-- A filtered memory is in canonical form. -/
theorem filter_wf {m : Memory} (p : Host.Cell → Bool) (h : Memory.wf m) : Memory.wf (m.filter p) :=
  ⟨h.1.filter p, fun c hc => h.2 c (List.mem_filter.1 hc).1⟩

/-- A write keeps the canonical form. -/
theorem memWrite_wf {m : Memory} (a : Nat) (bs : List Byte) (h : Memory.wf m) : Memory.wf (memWrite m a bs) := by
  have hl := filter_wf (fun c => decide (c.1 < a)) h
  have hr := filter_wf (fun c => decide (a + bs.length ≤ c.1)) h
  refine ⟨?_, ?_⟩
  · unfold memWrite
    rw [List.pairwise_append, List.pairwise_append]
    refine ⟨⟨hl.1, memCells_rising bs a, ?_⟩, hr.1, ?_⟩
    · intro c hc d hd
      have hc := of_decide_eq_true (List.mem_filter.1 hc).2
      have hd := memCells_bounds bs a d hd
      omega
    · intro c hc d hd
      have hd := of_decide_eq_true (List.mem_filter.1 hd).2
      rcases List.mem_append.1 hc with hc | hc
      · have hc := of_decide_eq_true (List.mem_filter.1 hc).2
        omega
      · have hc := memCells_bounds bs a c hc
        omega
  · intro c hc
    rcases List.mem_append.1 hc with hc | hc
    · rcases List.mem_append.1 hc with hc | hc
      · exact hl.2 c hc
      · exact (memCells_bounds bs a c hc).2.2
    · exact hr.2 c hc

/-- Clearing bytes keeps the canonical form. -/
theorem memClear_wf {m : Memory} (a n : Nat) (h : Memory.wf m) : Memory.wf (memClear m a n) := by
  have hl := filter_wf (fun c => decide (c.1 < a)) h
  have hr := filter_wf (fun c => decide (a + n ≤ c.1)) h
  refine ⟨?_, ?_⟩
  · unfold memClear
    rw [List.pairwise_append]
    refine ⟨hl.1, hr.1, ?_⟩
    intro c hc d hd
    have hc := of_decide_eq_true (List.mem_filter.1 hc).2
    have hd := of_decide_eq_true (List.mem_filter.1 hd).2
    omega
  · intro c hc
    rcases List.mem_append.1 hc with hc | hc
    · exact hl.2 c hc
    · exact hr.2 c hc

/-- The empty memory is in canonical form. -/
theorem nil_wf : Memory.wf [] := ⟨List.Pairwise.nil, fun _ h => absurd h (List.not_mem_nil)⟩

/-- A change of one entry of a sparse table keeps what holds of every entry and of the changed one. -/
theorem tabPut_all {α : Type} {p : Nat × α → Prop} (k : Nat) (v : α) (t : Tab α) (h : ∀ e ∈ t, p e) (hv : p (k, v)) :
    ∀ e ∈ tabPut k v t, p e := by
  induction t with
  | nil => simpa [tabPut] using hv
  | cons a t ih =>
    obtain ⟨j, w⟩ := a
    have ht : ∀ e ∈ t, p e := fun e he => h e (List.mem_cons_of_mem _ he)
    have ha : p (j, w) := h _ (List.mem_cons_self)
    unfold tabPut
    split
    · intro e he
      rcases List.mem_cons.1 he with he | he
      · subst he; exact hv
      · exact h e he
    · split
      · intro e he
        rcases List.mem_cons.1 he with he | he
        · subst he; exact hv
        · exact ht e he
      · intro e he
        rcases List.mem_cons.1 he with he | he
        · subst he; exact ha
        · exact ih ht e he

/-- A listed entry satisfies what every entry satisfies. -/
theorem tabFind_all {α : Type} {p : Nat × α → Prop} {k : Nat} {v : α} {t : Tab α} (h : ∀ e ∈ t, p e) (hf : tabFind k t = some v) :
    p (k, v) := by
  induction t with
  | nil => simp [tabFind] at hf
  | cons a t ih =>
    obtain ⟨j, w⟩ := a
    unfold tabFind at hf
    split at hf
    · cases hf
      subst j
      exact h _ (List.mem_cons_self)
    · exact ih (fun e he => h e (List.mem_cons_of_mem _ he)) hf

/-- A change of one cluster that keeps its memories in canonical form keeps the invariant of the state. -/
theorem modCluster_memOk {s : State} (k : Nat) (f : Cluster → Cluster) (h : s.memOk)
    (hf : ∀ c : Cluster, Memory.wf c.pool → Memory.wf c.tiles → Memory.wf (f c).pool ∧ Memory.wf (f c).tiles) :
    (modCluster s k f).memOk := by
  refine ⟨h.1, tabPut_all (p := fun (e : Nat × Cluster) => Memory.wf e.2.pool ∧ Memory.wf e.2.tiles) k _ _ h.2.1 ?_, h.2.2⟩
  show Memory.wf (f (tabGet {} k s.clusters)).pool ∧ Memory.wf (f (tabGet {} k s.clusters)).tiles
  unfold tabGet
  cases hk : tabFind k s.clusters with
  | none => exact hf _ nil_wf nil_wf
  | some c =>
    have hc := tabFind_all (p := fun (e : Nat × Cluster) => Memory.wf e.2.pool ∧ Memory.wf e.2.tiles) h.2.1 hk
    exact hf _ hc.1 hc.2

/-- Bytes written at their home keep the invariant. -/
theorem writeHome_memOk {s : State} (l : Loc) (bs : List Byte) (h : s.memOk) : (writeHome s l bs).memOk := by
  unfold writeHome
  dsimp only
  split
  · exact ⟨memWrite_wf _ _ h.1, h.2⟩
  · exact modCluster_memOk _ _ h (fun c hp ht => ⟨memWrite_wf _ _ hp, ht⟩)

/-- A change of the current context keeps the invariant. -/
theorem modX_memOk {s : State} (f : Context → Context) (h : s.memOk) : (modX s f).memOk := h

/-- A change of a core keeps the invariant. -/
theorem modCore_memOk {s : State} (k : Nat) (f : Core → Core) (h : s.memOk) : (modCore s k f).memOk := h

/-- A change of a context keeps the invariant. -/
theorem modCtx_memOk {s : State} (c : Nat) (f : Context → Context) (h : s.memOk) : (modCtx s c f).memOk := by
  unfold modCtx putCtx
  split <;> exact h

/-- An asynchronous cause keeps the invariant. -/
theorem addAsync_memOk {s : State} (c : Nat) (e : Cause) (d : BitVec 32) (a : Word) (h : s.memOk) : (addAsync s c e d a).memOk :=
  modCtx_memOk _ _ h

/-- An event record keeps the invariant. -/
theorem postBad_memOk {s : State} (e : Cause) (l : Loc) (h : s.memOk) : (postBad s e l).memOk := by
  unfold postBad
  split
  · exact h
  · exact h

/-- A packet on its way keeps the invariant. -/
theorem sendPacket_memOk {s : State} (c d : Nat) (r : Bool) (v : List (Nat × Nat)) (k : PkKind) (h : s.memOk) :
    (sendPacket s c d r v k).memOk := modCtx_memOk _ _ h

/-- An update of cached lines keeps the invariant. -/
theorem patchL1_memOk {s : State} (k : Nat) (l : Loc) (bs : List Byte) (h : s.memOk) : (patchL1 s k l bs).memOk := by
  unfold patchL1
  split
  · exact h
  · dsimp only
    split <;> exact h

/-- The event of a store that its key does not admit keeps the invariant. -/
theorem postForeign_memOk {s : State} (b : Nat) (l : Loc) (h : s.memOk) : (postForeign s b l).memOk := h

/-- Lines that a store replaces whole keep the invariant. -/
theorem storeReplaces_memOk {s : State} (st : PStore) (h : s.memOk) : (storeReplaces s st).memOk := by
  unfold storeReplaces replaceLines
  split
  · split
    · exact h
    · exact modCluster_memOk _ _ h (fun c hp ht => ⟨hp, ht⟩)
  · exact h

/-- A store performed at its home, or sent to it, keeps the invariant. -/
theorem performStore_memOk {s : State} (c : Nat) (st : PStore) (h : s.memOk) : (performStore s c st).memOk := by
  have h := storeReplaces_memOk st h
  unfold performStore
  dsimp only
  split
  · exact postForeign_memOk _ _ h
  · split
    · split
      · exact sendPacket_memOk _ _ _ _ _ h
      · split
        · exact addAsync_memOk _ _ _ _ (postBad_memOk _ _ h)
        · exact patchL1_memOk _ _ _ (writeHome_memOk _ _ h)
    · split
      · exact addAsync_memOk _ _ _ _ (postBad_memOk _ _ h)
      · exact writeHome_memOk _ _ h

/-- The drain of a context's stores keeps the invariant. -/
theorem drainStores_memOk {s : State} (c : Nat) (h : s.memOk) : (drainStores s c).memOk := by
  unfold drainStores
  split
  · exact h
  · rename_i sts _
    have key : ∀ (l : List PStore) (u : State), u.memOk → (l.foldl (fun s st => performStore s c st) u).memOk := by
      intro l
      induction l with
      | nil => exact fun _ hu => hu
      | cons st l ih => exact fun u hu => ih _ (performStore_memOk _ _ hu)
    exact key _ _ (modCtx_memOk _ _ h)

/-- The machine after reset satisfies the invariant of every memory of a cluster: none is listed. -/
theorem reset_clusters : State.reset.clusters = [] := rfl

end Sys2Proof.Machine
end

