-- ==== Sys2Proof/Laws/State.lean ====
section
/-!
SUPPORT. What each update of one part of the state leaves, field by field: no later proof unfolds a record update.
-/

namespace Sys2Proof.Machine

/-! ### modX -/

@[simp] theorem modX_x (s : State) (f : Context → Context) : (modX s f).x = f s.x := rfl
@[simp] theorem modX_xid (s : State) (f : Context → Context) : (modX s f).xid = s.xid := rfl
@[simp] theorem modX_parked (s : State) (f : Context → Context) : (modX s f).parked = s.parked := rfl
@[simp] theorem modX_cores (s : State) (f : Context → Context) : (modX s f).cores = s.cores := rfl
@[simp] theorem modX_clusters (s : State) (f : Context → Context) : (modX s f).clusters = s.clusters := rfl
@[simp] theorem modX_dies (s : State) (f : Context → Context) : (modX s f).dies = s.dies := rfl
@[simp] theorem modX_mem (s : State) (f : Context → Context) : (modX s f).mem = s.mem := rfl
@[simp] theorem modX_badMem (s : State) (f : Context → Context) : (modX s f).badMem = s.badMem := rfl
@[simp] theorem modX_marks (s : State) (f : Context → Context) : (modX s f).marks = s.marks := rfl
@[simp] theorem modX_roots (s : State) (f : Context → Context) : (modX s f).roots = s.roots := rfl
@[simp] theorem modX_ats (s : State) (f : Context → Context) : (modX s f).ats = s.ats := rfl
@[simp] theorem modX_faults (s : State) (f : Context → Context) : (modX s f).faults = s.faults := rfl
@[simp] theorem modX_bundles (s : State) (f : Context → Context) : (modX s f).bundles = s.bundles := rfl
@[simp] theorem modX_pieces (s : State) (f : Context → Context) : (modX s f).pieces = s.pieces := rfl
@[simp] theorem modX_ready (s : State) (f : Context → Context) : (modX s f).ready = s.ready := rfl
@[simp] theorem modX_queues (s : State) (f : Context → Context) : (modX s f).queues = s.queues := rfl
@[simp] theorem modX_qmap (s : State) (f : Context → Context) : (modX s f).qmap = s.qmap := rfl
@[simp] theorem modX_granules (s : State) (f : Context → Context) : (modX s f).granules = s.granules := rfl
@[simp] theorem modX_parts (s : State) (f : Context → Context) : (modX s f).parts = s.parts := rfl
@[simp] theorem modX_fns (s : State) (f : Context → Context) : (modX s f).fns = s.fns := rfl
@[simp] theorem modX_slots (s : State) (f : Context → Context) : (modX s f).slots = s.slots := rfl
@[simp] theorem modX_auths (s : State) (f : Context → Context) : (modX s f).auths = s.auths := rfl
@[simp] theorem modX_sealKeys (s : State) (f : Context → Context) : (modX s f).sealKeys = s.sealKeys := rfl
@[simp] theorem modX_domains (s : State) (f : Context → Context) : (modX s f).domains = s.domains := rfl
@[simp] theorem modX_jobKeys (s : State) (f : Context → Context) : (modX s f).jobKeys = s.jobKeys := rfl
@[simp] theorem modX_comms (s : State) (f : Context → Context) : (modX s f).comms = s.comms := rfl
@[simp] theorem modX_colls (s : State) (f : Context → Context) : (modX s f).colls = s.colls := rfl
@[simp] theorem modX_straits (s : State) (f : Context → Context) : (modX s f).straits = s.straits := rfl
@[simp] theorem modX_net (s : State) (f : Context → Context) : (modX s f).net = s.net := rfl
@[simp] theorem modX_netCount (s : State) (f : Context → Context) : (modX s f).netCount = s.netCount := rfl
@[simp] theorem modX_groups (s : State) (f : Context → Context) : (modX s f).groups = s.groups := rfl
@[simp] theorem modX_endpoints (s : State) (f : Context → Context) : (modX s f).endpoints = s.endpoints := rfl
@[simp] theorem modX_planners (s : State) (f : Context → Context) : (modX s f).planners = s.planners := rfl
@[simp] theorem modX_images (s : State) (f : Context → Context) : (modX s f).images = s.images := rfl
@[simp] theorem modX_hub (s : State) (f : Context → Context) : (modX s f).hub = s.hub := rfl
@[simp] theorem modX_tick (s : State) (f : Context → Context) : (modX s f).tick = s.tick := rfl
@[simp] theorem modX_agenda (s : State) (f : Context → Context) : (modX s f).agenda = s.agenda := rfl
@[simp] theorem modX_lag (s : State) (f : Context → Context) : (modX s f).lag = s.lag := rfl
@[simp] theorem modX_tear (s : State) (f : Context → Context) : (modX s f).tear = s.tear := rfl
@[simp] theorem modX_eside (s : State) (f : Context → Context) : (modX s f).eside = s.eside := rfl
@[simp] theorem modX_phase (s : State) (f : Context → Context) : (modX s f).phase = s.phase := rfl
@[simp] theorem modX_nextId (s : State) (f : Context → Context) : (modX s f).nextId = s.nextId := rfl
@[simp] theorem modX_fresh (s : State) (f : Context → Context) : (modX s f).fresh = s.fresh := rfl

/-! ### modCore -/

@[simp] theorem modCore_x (s : State) (k : Nat) (f : Core → Core) : (modCore s k f).x = s.x := rfl
@[simp] theorem modCore_xid (s : State) (k : Nat) (f : Core → Core) : (modCore s k f).xid = s.xid := rfl
@[simp] theorem modCore_parked (s : State) (k : Nat) (f : Core → Core) : (modCore s k f).parked = s.parked := rfl
@[simp] theorem modCore_cores (s : State) (k : Nat) (f : Core → Core) : (modCore s k f).cores = tabMod {} k f s.cores := rfl
@[simp] theorem modCore_clusters (s : State) (k : Nat) (f : Core → Core) : (modCore s k f).clusters = s.clusters := rfl
@[simp] theorem modCore_dies (s : State) (k : Nat) (f : Core → Core) : (modCore s k f).dies = s.dies := rfl
@[simp] theorem modCore_mem (s : State) (k : Nat) (f : Core → Core) : (modCore s k f).mem = s.mem := rfl
@[simp] theorem modCore_badMem (s : State) (k : Nat) (f : Core → Core) : (modCore s k f).badMem = s.badMem := rfl
@[simp] theorem modCore_marks (s : State) (k : Nat) (f : Core → Core) : (modCore s k f).marks = s.marks := rfl
@[simp] theorem modCore_roots (s : State) (k : Nat) (f : Core → Core) : (modCore s k f).roots = s.roots := rfl
@[simp] theorem modCore_ats (s : State) (k : Nat) (f : Core → Core) : (modCore s k f).ats = s.ats := rfl
@[simp] theorem modCore_faults (s : State) (k : Nat) (f : Core → Core) : (modCore s k f).faults = s.faults := rfl
@[simp] theorem modCore_bundles (s : State) (k : Nat) (f : Core → Core) : (modCore s k f).bundles = s.bundles := rfl
@[simp] theorem modCore_pieces (s : State) (k : Nat) (f : Core → Core) : (modCore s k f).pieces = s.pieces := rfl
@[simp] theorem modCore_ready (s : State) (k : Nat) (f : Core → Core) : (modCore s k f).ready = s.ready := rfl
@[simp] theorem modCore_queues (s : State) (k : Nat) (f : Core → Core) : (modCore s k f).queues = s.queues := rfl
@[simp] theorem modCore_qmap (s : State) (k : Nat) (f : Core → Core) : (modCore s k f).qmap = s.qmap := rfl
@[simp] theorem modCore_granules (s : State) (k : Nat) (f : Core → Core) : (modCore s k f).granules = s.granules := rfl
@[simp] theorem modCore_parts (s : State) (k : Nat) (f : Core → Core) : (modCore s k f).parts = s.parts := rfl
@[simp] theorem modCore_fns (s : State) (k : Nat) (f : Core → Core) : (modCore s k f).fns = s.fns := rfl
@[simp] theorem modCore_slots (s : State) (k : Nat) (f : Core → Core) : (modCore s k f).slots = s.slots := rfl
@[simp] theorem modCore_auths (s : State) (k : Nat) (f : Core → Core) : (modCore s k f).auths = s.auths := rfl
@[simp] theorem modCore_sealKeys (s : State) (k : Nat) (f : Core → Core) : (modCore s k f).sealKeys = s.sealKeys := rfl
@[simp] theorem modCore_domains (s : State) (k : Nat) (f : Core → Core) : (modCore s k f).domains = s.domains := rfl
@[simp] theorem modCore_jobKeys (s : State) (k : Nat) (f : Core → Core) : (modCore s k f).jobKeys = s.jobKeys := rfl
@[simp] theorem modCore_comms (s : State) (k : Nat) (f : Core → Core) : (modCore s k f).comms = s.comms := rfl
@[simp] theorem modCore_colls (s : State) (k : Nat) (f : Core → Core) : (modCore s k f).colls = s.colls := rfl
@[simp] theorem modCore_straits (s : State) (k : Nat) (f : Core → Core) : (modCore s k f).straits = s.straits := rfl
@[simp] theorem modCore_net (s : State) (k : Nat) (f : Core → Core) : (modCore s k f).net = s.net := rfl
@[simp] theorem modCore_netCount (s : State) (k : Nat) (f : Core → Core) : (modCore s k f).netCount = s.netCount := rfl
@[simp] theorem modCore_groups (s : State) (k : Nat) (f : Core → Core) : (modCore s k f).groups = s.groups := rfl
@[simp] theorem modCore_endpoints (s : State) (k : Nat) (f : Core → Core) : (modCore s k f).endpoints = s.endpoints := rfl
@[simp] theorem modCore_planners (s : State) (k : Nat) (f : Core → Core) : (modCore s k f).planners = s.planners := rfl
@[simp] theorem modCore_images (s : State) (k : Nat) (f : Core → Core) : (modCore s k f).images = s.images := rfl
@[simp] theorem modCore_hub (s : State) (k : Nat) (f : Core → Core) : (modCore s k f).hub = s.hub := rfl
@[simp] theorem modCore_tick (s : State) (k : Nat) (f : Core → Core) : (modCore s k f).tick = s.tick := rfl
@[simp] theorem modCore_agenda (s : State) (k : Nat) (f : Core → Core) : (modCore s k f).agenda = s.agenda := rfl
@[simp] theorem modCore_lag (s : State) (k : Nat) (f : Core → Core) : (modCore s k f).lag = s.lag := rfl
@[simp] theorem modCore_tear (s : State) (k : Nat) (f : Core → Core) : (modCore s k f).tear = s.tear := rfl
@[simp] theorem modCore_eside (s : State) (k : Nat) (f : Core → Core) : (modCore s k f).eside = s.eside := rfl
@[simp] theorem modCore_phase (s : State) (k : Nat) (f : Core → Core) : (modCore s k f).phase = s.phase := rfl
@[simp] theorem modCore_nextId (s : State) (k : Nat) (f : Core → Core) : (modCore s k f).nextId = s.nextId := rfl
@[simp] theorem modCore_fresh (s : State) (k : Nat) (f : Core → Core) : (modCore s k f).fresh = s.fresh := rfl

/-! ### modCluster -/

@[simp] theorem modCluster_x (s : State) (k : Nat) (f : Cluster → Cluster) : (modCluster s k f).x = s.x := rfl
@[simp] theorem modCluster_xid (s : State) (k : Nat) (f : Cluster → Cluster) : (modCluster s k f).xid = s.xid := rfl
@[simp] theorem modCluster_parked (s : State) (k : Nat) (f : Cluster → Cluster) : (modCluster s k f).parked = s.parked := rfl
@[simp] theorem modCluster_cores (s : State) (k : Nat) (f : Cluster → Cluster) : (modCluster s k f).cores = s.cores := rfl
@[simp] theorem modCluster_clusters (s : State) (k : Nat) (f : Cluster → Cluster) : (modCluster s k f).clusters = tabMod {} k f s.clusters := rfl
@[simp] theorem modCluster_dies (s : State) (k : Nat) (f : Cluster → Cluster) : (modCluster s k f).dies = s.dies := rfl
@[simp] theorem modCluster_mem (s : State) (k : Nat) (f : Cluster → Cluster) : (modCluster s k f).mem = s.mem := rfl
@[simp] theorem modCluster_badMem (s : State) (k : Nat) (f : Cluster → Cluster) : (modCluster s k f).badMem = s.badMem := rfl
@[simp] theorem modCluster_marks (s : State) (k : Nat) (f : Cluster → Cluster) : (modCluster s k f).marks = s.marks := rfl
@[simp] theorem modCluster_roots (s : State) (k : Nat) (f : Cluster → Cluster) : (modCluster s k f).roots = s.roots := rfl
@[simp] theorem modCluster_ats (s : State) (k : Nat) (f : Cluster → Cluster) : (modCluster s k f).ats = s.ats := rfl
@[simp] theorem modCluster_faults (s : State) (k : Nat) (f : Cluster → Cluster) : (modCluster s k f).faults = s.faults := rfl
@[simp] theorem modCluster_bundles (s : State) (k : Nat) (f : Cluster → Cluster) : (modCluster s k f).bundles = s.bundles := rfl
@[simp] theorem modCluster_pieces (s : State) (k : Nat) (f : Cluster → Cluster) : (modCluster s k f).pieces = s.pieces := rfl
@[simp] theorem modCluster_ready (s : State) (k : Nat) (f : Cluster → Cluster) : (modCluster s k f).ready = s.ready := rfl
@[simp] theorem modCluster_queues (s : State) (k : Nat) (f : Cluster → Cluster) : (modCluster s k f).queues = s.queues := rfl
@[simp] theorem modCluster_qmap (s : State) (k : Nat) (f : Cluster → Cluster) : (modCluster s k f).qmap = s.qmap := rfl
@[simp] theorem modCluster_granules (s : State) (k : Nat) (f : Cluster → Cluster) : (modCluster s k f).granules = s.granules := rfl
@[simp] theorem modCluster_parts (s : State) (k : Nat) (f : Cluster → Cluster) : (modCluster s k f).parts = s.parts := rfl
@[simp] theorem modCluster_fns (s : State) (k : Nat) (f : Cluster → Cluster) : (modCluster s k f).fns = s.fns := rfl
@[simp] theorem modCluster_slots (s : State) (k : Nat) (f : Cluster → Cluster) : (modCluster s k f).slots = s.slots := rfl
@[simp] theorem modCluster_auths (s : State) (k : Nat) (f : Cluster → Cluster) : (modCluster s k f).auths = s.auths := rfl
@[simp] theorem modCluster_sealKeys (s : State) (k : Nat) (f : Cluster → Cluster) : (modCluster s k f).sealKeys = s.sealKeys := rfl
@[simp] theorem modCluster_domains (s : State) (k : Nat) (f : Cluster → Cluster) : (modCluster s k f).domains = s.domains := rfl
@[simp] theorem modCluster_jobKeys (s : State) (k : Nat) (f : Cluster → Cluster) : (modCluster s k f).jobKeys = s.jobKeys := rfl
@[simp] theorem modCluster_comms (s : State) (k : Nat) (f : Cluster → Cluster) : (modCluster s k f).comms = s.comms := rfl
@[simp] theorem modCluster_colls (s : State) (k : Nat) (f : Cluster → Cluster) : (modCluster s k f).colls = s.colls := rfl
@[simp] theorem modCluster_straits (s : State) (k : Nat) (f : Cluster → Cluster) : (modCluster s k f).straits = s.straits := rfl
@[simp] theorem modCluster_net (s : State) (k : Nat) (f : Cluster → Cluster) : (modCluster s k f).net = s.net := rfl
@[simp] theorem modCluster_netCount (s : State) (k : Nat) (f : Cluster → Cluster) : (modCluster s k f).netCount = s.netCount := rfl
@[simp] theorem modCluster_groups (s : State) (k : Nat) (f : Cluster → Cluster) : (modCluster s k f).groups = s.groups := rfl
@[simp] theorem modCluster_endpoints (s : State) (k : Nat) (f : Cluster → Cluster) : (modCluster s k f).endpoints = s.endpoints := rfl
@[simp] theorem modCluster_planners (s : State) (k : Nat) (f : Cluster → Cluster) : (modCluster s k f).planners = s.planners := rfl
@[simp] theorem modCluster_images (s : State) (k : Nat) (f : Cluster → Cluster) : (modCluster s k f).images = s.images := rfl
@[simp] theorem modCluster_hub (s : State) (k : Nat) (f : Cluster → Cluster) : (modCluster s k f).hub = s.hub := rfl
@[simp] theorem modCluster_tick (s : State) (k : Nat) (f : Cluster → Cluster) : (modCluster s k f).tick = s.tick := rfl
@[simp] theorem modCluster_agenda (s : State) (k : Nat) (f : Cluster → Cluster) : (modCluster s k f).agenda = s.agenda := rfl
@[simp] theorem modCluster_lag (s : State) (k : Nat) (f : Cluster → Cluster) : (modCluster s k f).lag = s.lag := rfl
@[simp] theorem modCluster_tear (s : State) (k : Nat) (f : Cluster → Cluster) : (modCluster s k f).tear = s.tear := rfl
@[simp] theorem modCluster_eside (s : State) (k : Nat) (f : Cluster → Cluster) : (modCluster s k f).eside = s.eside := rfl
@[simp] theorem modCluster_phase (s : State) (k : Nat) (f : Cluster → Cluster) : (modCluster s k f).phase = s.phase := rfl
@[simp] theorem modCluster_nextId (s : State) (k : Nat) (f : Cluster → Cluster) : (modCluster s k f).nextId = s.nextId := rfl
@[simp] theorem modCluster_fresh (s : State) (k : Nat) (f : Cluster → Cluster) : (modCluster s k f).fresh = s.fresh := rfl

/-! ### modDie -/

@[simp] theorem modDie_x (s : State) (k : Nat) (f : Die → Die) : (modDie s k f).x = s.x := rfl
@[simp] theorem modDie_xid (s : State) (k : Nat) (f : Die → Die) : (modDie s k f).xid = s.xid := rfl
@[simp] theorem modDie_parked (s : State) (k : Nat) (f : Die → Die) : (modDie s k f).parked = s.parked := rfl
@[simp] theorem modDie_cores (s : State) (k : Nat) (f : Die → Die) : (modDie s k f).cores = s.cores := rfl
@[simp] theorem modDie_clusters (s : State) (k : Nat) (f : Die → Die) : (modDie s k f).clusters = s.clusters := rfl
@[simp] theorem modDie_dies (s : State) (k : Nat) (f : Die → Die) : (modDie s k f).dies = tabMod { podDie := k } k f s.dies := rfl
@[simp] theorem modDie_mem (s : State) (k : Nat) (f : Die → Die) : (modDie s k f).mem = s.mem := rfl
@[simp] theorem modDie_badMem (s : State) (k : Nat) (f : Die → Die) : (modDie s k f).badMem = s.badMem := rfl
@[simp] theorem modDie_marks (s : State) (k : Nat) (f : Die → Die) : (modDie s k f).marks = s.marks := rfl
@[simp] theorem modDie_roots (s : State) (k : Nat) (f : Die → Die) : (modDie s k f).roots = s.roots := rfl
@[simp] theorem modDie_ats (s : State) (k : Nat) (f : Die → Die) : (modDie s k f).ats = s.ats := rfl
@[simp] theorem modDie_faults (s : State) (k : Nat) (f : Die → Die) : (modDie s k f).faults = s.faults := rfl
@[simp] theorem modDie_bundles (s : State) (k : Nat) (f : Die → Die) : (modDie s k f).bundles = s.bundles := rfl
@[simp] theorem modDie_pieces (s : State) (k : Nat) (f : Die → Die) : (modDie s k f).pieces = s.pieces := rfl
@[simp] theorem modDie_ready (s : State) (k : Nat) (f : Die → Die) : (modDie s k f).ready = s.ready := rfl
@[simp] theorem modDie_queues (s : State) (k : Nat) (f : Die → Die) : (modDie s k f).queues = s.queues := rfl
@[simp] theorem modDie_qmap (s : State) (k : Nat) (f : Die → Die) : (modDie s k f).qmap = s.qmap := rfl
@[simp] theorem modDie_granules (s : State) (k : Nat) (f : Die → Die) : (modDie s k f).granules = s.granules := rfl
@[simp] theorem modDie_parts (s : State) (k : Nat) (f : Die → Die) : (modDie s k f).parts = s.parts := rfl
@[simp] theorem modDie_fns (s : State) (k : Nat) (f : Die → Die) : (modDie s k f).fns = s.fns := rfl
@[simp] theorem modDie_slots (s : State) (k : Nat) (f : Die → Die) : (modDie s k f).slots = s.slots := rfl
@[simp] theorem modDie_auths (s : State) (k : Nat) (f : Die → Die) : (modDie s k f).auths = s.auths := rfl
@[simp] theorem modDie_sealKeys (s : State) (k : Nat) (f : Die → Die) : (modDie s k f).sealKeys = s.sealKeys := rfl
@[simp] theorem modDie_domains (s : State) (k : Nat) (f : Die → Die) : (modDie s k f).domains = s.domains := rfl
@[simp] theorem modDie_jobKeys (s : State) (k : Nat) (f : Die → Die) : (modDie s k f).jobKeys = s.jobKeys := rfl
@[simp] theorem modDie_comms (s : State) (k : Nat) (f : Die → Die) : (modDie s k f).comms = s.comms := rfl
@[simp] theorem modDie_colls (s : State) (k : Nat) (f : Die → Die) : (modDie s k f).colls = s.colls := rfl
@[simp] theorem modDie_straits (s : State) (k : Nat) (f : Die → Die) : (modDie s k f).straits = s.straits := rfl
@[simp] theorem modDie_net (s : State) (k : Nat) (f : Die → Die) : (modDie s k f).net = s.net := rfl
@[simp] theorem modDie_netCount (s : State) (k : Nat) (f : Die → Die) : (modDie s k f).netCount = s.netCount := rfl
@[simp] theorem modDie_groups (s : State) (k : Nat) (f : Die → Die) : (modDie s k f).groups = s.groups := rfl
@[simp] theorem modDie_endpoints (s : State) (k : Nat) (f : Die → Die) : (modDie s k f).endpoints = s.endpoints := rfl
@[simp] theorem modDie_planners (s : State) (k : Nat) (f : Die → Die) : (modDie s k f).planners = s.planners := rfl
@[simp] theorem modDie_images (s : State) (k : Nat) (f : Die → Die) : (modDie s k f).images = s.images := rfl
@[simp] theorem modDie_hub (s : State) (k : Nat) (f : Die → Die) : (modDie s k f).hub = s.hub := rfl
@[simp] theorem modDie_tick (s : State) (k : Nat) (f : Die → Die) : (modDie s k f).tick = s.tick := rfl
@[simp] theorem modDie_agenda (s : State) (k : Nat) (f : Die → Die) : (modDie s k f).agenda = s.agenda := rfl
@[simp] theorem modDie_lag (s : State) (k : Nat) (f : Die → Die) : (modDie s k f).lag = s.lag := rfl
@[simp] theorem modDie_tear (s : State) (k : Nat) (f : Die → Die) : (modDie s k f).tear = s.tear := rfl
@[simp] theorem modDie_eside (s : State) (k : Nat) (f : Die → Die) : (modDie s k f).eside = s.eside := rfl
@[simp] theorem modDie_phase (s : State) (k : Nat) (f : Die → Die) : (modDie s k f).phase = s.phase := rfl
@[simp] theorem modDie_nextId (s : State) (k : Nat) (f : Die → Die) : (modDie s k f).nextId = s.nextId := rfl
@[simp] theorem modDie_fresh (s : State) (k : Nat) (f : Die → Die) : (modDie s k f).fresh = s.fresh := rfl

/-! ### modQueue -/

@[simp] theorem modQueue_x (s : State) (k : Nat) (f : Queue → Queue) : (modQueue s k f).x = s.x := rfl
@[simp] theorem modQueue_xid (s : State) (k : Nat) (f : Queue → Queue) : (modQueue s k f).xid = s.xid := rfl
@[simp] theorem modQueue_parked (s : State) (k : Nat) (f : Queue → Queue) : (modQueue s k f).parked = s.parked := rfl
@[simp] theorem modQueue_cores (s : State) (k : Nat) (f : Queue → Queue) : (modQueue s k f).cores = s.cores := rfl
@[simp] theorem modQueue_clusters (s : State) (k : Nat) (f : Queue → Queue) : (modQueue s k f).clusters = s.clusters := rfl
@[simp] theorem modQueue_dies (s : State) (k : Nat) (f : Queue → Queue) : (modQueue s k f).dies = s.dies := rfl
@[simp] theorem modQueue_mem (s : State) (k : Nat) (f : Queue → Queue) : (modQueue s k f).mem = s.mem := rfl
@[simp] theorem modQueue_badMem (s : State) (k : Nat) (f : Queue → Queue) : (modQueue s k f).badMem = s.badMem := rfl
@[simp] theorem modQueue_marks (s : State) (k : Nat) (f : Queue → Queue) : (modQueue s k f).marks = s.marks := rfl
@[simp] theorem modQueue_roots (s : State) (k : Nat) (f : Queue → Queue) : (modQueue s k f).roots = s.roots := rfl
@[simp] theorem modQueue_ats (s : State) (k : Nat) (f : Queue → Queue) : (modQueue s k f).ats = s.ats := rfl
@[simp] theorem modQueue_faults (s : State) (k : Nat) (f : Queue → Queue) : (modQueue s k f).faults = s.faults := rfl
@[simp] theorem modQueue_bundles (s : State) (k : Nat) (f : Queue → Queue) : (modQueue s k f).bundles = s.bundles := rfl
@[simp] theorem modQueue_pieces (s : State) (k : Nat) (f : Queue → Queue) : (modQueue s k f).pieces = s.pieces := rfl
@[simp] theorem modQueue_ready (s : State) (k : Nat) (f : Queue → Queue) : (modQueue s k f).ready = s.ready := rfl
@[simp] theorem modQueue_queues (s : State) (k : Nat) (f : Queue → Queue) : (modQueue s k f).queues = tabMod {} k f s.queues := rfl
@[simp] theorem modQueue_qmap (s : State) (k : Nat) (f : Queue → Queue) : (modQueue s k f).qmap = s.qmap := rfl
@[simp] theorem modQueue_granules (s : State) (k : Nat) (f : Queue → Queue) : (modQueue s k f).granules = s.granules := rfl
@[simp] theorem modQueue_parts (s : State) (k : Nat) (f : Queue → Queue) : (modQueue s k f).parts = s.parts := rfl
@[simp] theorem modQueue_fns (s : State) (k : Nat) (f : Queue → Queue) : (modQueue s k f).fns = s.fns := rfl
@[simp] theorem modQueue_slots (s : State) (k : Nat) (f : Queue → Queue) : (modQueue s k f).slots = s.slots := rfl
@[simp] theorem modQueue_auths (s : State) (k : Nat) (f : Queue → Queue) : (modQueue s k f).auths = s.auths := rfl
@[simp] theorem modQueue_sealKeys (s : State) (k : Nat) (f : Queue → Queue) : (modQueue s k f).sealKeys = s.sealKeys := rfl
@[simp] theorem modQueue_domains (s : State) (k : Nat) (f : Queue → Queue) : (modQueue s k f).domains = s.domains := rfl
@[simp] theorem modQueue_jobKeys (s : State) (k : Nat) (f : Queue → Queue) : (modQueue s k f).jobKeys = s.jobKeys := rfl
@[simp] theorem modQueue_comms (s : State) (k : Nat) (f : Queue → Queue) : (modQueue s k f).comms = s.comms := rfl
@[simp] theorem modQueue_colls (s : State) (k : Nat) (f : Queue → Queue) : (modQueue s k f).colls = s.colls := rfl
@[simp] theorem modQueue_straits (s : State) (k : Nat) (f : Queue → Queue) : (modQueue s k f).straits = s.straits := rfl
@[simp] theorem modQueue_net (s : State) (k : Nat) (f : Queue → Queue) : (modQueue s k f).net = s.net := rfl
@[simp] theorem modQueue_netCount (s : State) (k : Nat) (f : Queue → Queue) : (modQueue s k f).netCount = s.netCount := rfl
@[simp] theorem modQueue_groups (s : State) (k : Nat) (f : Queue → Queue) : (modQueue s k f).groups = s.groups := rfl
@[simp] theorem modQueue_endpoints (s : State) (k : Nat) (f : Queue → Queue) : (modQueue s k f).endpoints = s.endpoints := rfl
@[simp] theorem modQueue_planners (s : State) (k : Nat) (f : Queue → Queue) : (modQueue s k f).planners = s.planners := rfl
@[simp] theorem modQueue_images (s : State) (k : Nat) (f : Queue → Queue) : (modQueue s k f).images = s.images := rfl
@[simp] theorem modQueue_hub (s : State) (k : Nat) (f : Queue → Queue) : (modQueue s k f).hub = s.hub := rfl
@[simp] theorem modQueue_tick (s : State) (k : Nat) (f : Queue → Queue) : (modQueue s k f).tick = s.tick := rfl
@[simp] theorem modQueue_agenda (s : State) (k : Nat) (f : Queue → Queue) : (modQueue s k f).agenda = s.agenda := rfl
@[simp] theorem modQueue_lag (s : State) (k : Nat) (f : Queue → Queue) : (modQueue s k f).lag = s.lag := rfl
@[simp] theorem modQueue_tear (s : State) (k : Nat) (f : Queue → Queue) : (modQueue s k f).tear = s.tear := rfl
@[simp] theorem modQueue_eside (s : State) (k : Nat) (f : Queue → Queue) : (modQueue s k f).eside = s.eside := rfl
@[simp] theorem modQueue_phase (s : State) (k : Nat) (f : Queue → Queue) : (modQueue s k f).phase = s.phase := rfl
@[simp] theorem modQueue_nextId (s : State) (k : Nat) (f : Queue → Queue) : (modQueue s k f).nextId = s.nextId := rfl
@[simp] theorem modQueue_fresh (s : State) (k : Nat) (f : Queue → Queue) : (modQueue s k f).fresh = s.fresh := rfl

/-! ### modFn -/

@[simp] theorem modFn_x (s : State) (k : Nat) (f : Fn → Fn) : (modFn s k f).x = s.x := rfl
@[simp] theorem modFn_xid (s : State) (k : Nat) (f : Fn → Fn) : (modFn s k f).xid = s.xid := rfl
@[simp] theorem modFn_parked (s : State) (k : Nat) (f : Fn → Fn) : (modFn s k f).parked = s.parked := rfl
@[simp] theorem modFn_cores (s : State) (k : Nat) (f : Fn → Fn) : (modFn s k f).cores = s.cores := rfl
@[simp] theorem modFn_clusters (s : State) (k : Nat) (f : Fn → Fn) : (modFn s k f).clusters = s.clusters := rfl
@[simp] theorem modFn_dies (s : State) (k : Nat) (f : Fn → Fn) : (modFn s k f).dies = s.dies := rfl
@[simp] theorem modFn_mem (s : State) (k : Nat) (f : Fn → Fn) : (modFn s k f).mem = s.mem := rfl
@[simp] theorem modFn_badMem (s : State) (k : Nat) (f : Fn → Fn) : (modFn s k f).badMem = s.badMem := rfl
@[simp] theorem modFn_marks (s : State) (k : Nat) (f : Fn → Fn) : (modFn s k f).marks = s.marks := rfl
@[simp] theorem modFn_roots (s : State) (k : Nat) (f : Fn → Fn) : (modFn s k f).roots = s.roots := rfl
@[simp] theorem modFn_ats (s : State) (k : Nat) (f : Fn → Fn) : (modFn s k f).ats = s.ats := rfl
@[simp] theorem modFn_faults (s : State) (k : Nat) (f : Fn → Fn) : (modFn s k f).faults = s.faults := rfl
@[simp] theorem modFn_bundles (s : State) (k : Nat) (f : Fn → Fn) : (modFn s k f).bundles = s.bundles := rfl
@[simp] theorem modFn_pieces (s : State) (k : Nat) (f : Fn → Fn) : (modFn s k f).pieces = s.pieces := rfl
@[simp] theorem modFn_ready (s : State) (k : Nat) (f : Fn → Fn) : (modFn s k f).ready = s.ready := rfl
@[simp] theorem modFn_queues (s : State) (k : Nat) (f : Fn → Fn) : (modFn s k f).queues = s.queues := rfl
@[simp] theorem modFn_qmap (s : State) (k : Nat) (f : Fn → Fn) : (modFn s k f).qmap = s.qmap := rfl
@[simp] theorem modFn_granules (s : State) (k : Nat) (f : Fn → Fn) : (modFn s k f).granules = s.granules := rfl
@[simp] theorem modFn_parts (s : State) (k : Nat) (f : Fn → Fn) : (modFn s k f).parts = s.parts := rfl
@[simp] theorem modFn_fns (s : State) (k : Nat) (f : Fn → Fn) : (modFn s k f).fns = tabMod {} k f s.fns := rfl
@[simp] theorem modFn_slots (s : State) (k : Nat) (f : Fn → Fn) : (modFn s k f).slots = s.slots := rfl
@[simp] theorem modFn_auths (s : State) (k : Nat) (f : Fn → Fn) : (modFn s k f).auths = s.auths := rfl
@[simp] theorem modFn_sealKeys (s : State) (k : Nat) (f : Fn → Fn) : (modFn s k f).sealKeys = s.sealKeys := rfl
@[simp] theorem modFn_domains (s : State) (k : Nat) (f : Fn → Fn) : (modFn s k f).domains = s.domains := rfl
@[simp] theorem modFn_jobKeys (s : State) (k : Nat) (f : Fn → Fn) : (modFn s k f).jobKeys = s.jobKeys := rfl
@[simp] theorem modFn_comms (s : State) (k : Nat) (f : Fn → Fn) : (modFn s k f).comms = s.comms := rfl
@[simp] theorem modFn_colls (s : State) (k : Nat) (f : Fn → Fn) : (modFn s k f).colls = s.colls := rfl
@[simp] theorem modFn_straits (s : State) (k : Nat) (f : Fn → Fn) : (modFn s k f).straits = s.straits := rfl
@[simp] theorem modFn_net (s : State) (k : Nat) (f : Fn → Fn) : (modFn s k f).net = s.net := rfl
@[simp] theorem modFn_netCount (s : State) (k : Nat) (f : Fn → Fn) : (modFn s k f).netCount = s.netCount := rfl
@[simp] theorem modFn_groups (s : State) (k : Nat) (f : Fn → Fn) : (modFn s k f).groups = s.groups := rfl
@[simp] theorem modFn_endpoints (s : State) (k : Nat) (f : Fn → Fn) : (modFn s k f).endpoints = s.endpoints := rfl
@[simp] theorem modFn_planners (s : State) (k : Nat) (f : Fn → Fn) : (modFn s k f).planners = s.planners := rfl
@[simp] theorem modFn_images (s : State) (k : Nat) (f : Fn → Fn) : (modFn s k f).images = s.images := rfl
@[simp] theorem modFn_hub (s : State) (k : Nat) (f : Fn → Fn) : (modFn s k f).hub = s.hub := rfl
@[simp] theorem modFn_tick (s : State) (k : Nat) (f : Fn → Fn) : (modFn s k f).tick = s.tick := rfl
@[simp] theorem modFn_agenda (s : State) (k : Nat) (f : Fn → Fn) : (modFn s k f).agenda = s.agenda := rfl
@[simp] theorem modFn_lag (s : State) (k : Nat) (f : Fn → Fn) : (modFn s k f).lag = s.lag := rfl
@[simp] theorem modFn_tear (s : State) (k : Nat) (f : Fn → Fn) : (modFn s k f).tear = s.tear := rfl
@[simp] theorem modFn_eside (s : State) (k : Nat) (f : Fn → Fn) : (modFn s k f).eside = s.eside := rfl
@[simp] theorem modFn_phase (s : State) (k : Nat) (f : Fn → Fn) : (modFn s k f).phase = s.phase := rfl
@[simp] theorem modFn_nextId (s : State) (k : Nat) (f : Fn → Fn) : (modFn s k f).nextId = s.nextId := rfl
@[simp] theorem modFn_fresh (s : State) (k : Nat) (f : Fn → Fn) : (modFn s k f).fresh = s.fresh := rfl

/-! ### modPlanner -/

@[simp] theorem modPlanner_x (s : State) (k : Nat) (f : Planner → Planner) : (modPlanner s k f).x = s.x := rfl
@[simp] theorem modPlanner_xid (s : State) (k : Nat) (f : Planner → Planner) : (modPlanner s k f).xid = s.xid := rfl
@[simp] theorem modPlanner_parked (s : State) (k : Nat) (f : Planner → Planner) : (modPlanner s k f).parked = s.parked := rfl
@[simp] theorem modPlanner_cores (s : State) (k : Nat) (f : Planner → Planner) : (modPlanner s k f).cores = s.cores := rfl
@[simp] theorem modPlanner_clusters (s : State) (k : Nat) (f : Planner → Planner) : (modPlanner s k f).clusters = s.clusters := rfl
@[simp] theorem modPlanner_dies (s : State) (k : Nat) (f : Planner → Planner) : (modPlanner s k f).dies = s.dies := rfl
@[simp] theorem modPlanner_mem (s : State) (k : Nat) (f : Planner → Planner) : (modPlanner s k f).mem = s.mem := rfl
@[simp] theorem modPlanner_badMem (s : State) (k : Nat) (f : Planner → Planner) : (modPlanner s k f).badMem = s.badMem := rfl
@[simp] theorem modPlanner_marks (s : State) (k : Nat) (f : Planner → Planner) : (modPlanner s k f).marks = s.marks := rfl
@[simp] theorem modPlanner_roots (s : State) (k : Nat) (f : Planner → Planner) : (modPlanner s k f).roots = s.roots := rfl
@[simp] theorem modPlanner_ats (s : State) (k : Nat) (f : Planner → Planner) : (modPlanner s k f).ats = s.ats := rfl
@[simp] theorem modPlanner_faults (s : State) (k : Nat) (f : Planner → Planner) : (modPlanner s k f).faults = s.faults := rfl
@[simp] theorem modPlanner_bundles (s : State) (k : Nat) (f : Planner → Planner) : (modPlanner s k f).bundles = s.bundles := rfl
@[simp] theorem modPlanner_pieces (s : State) (k : Nat) (f : Planner → Planner) : (modPlanner s k f).pieces = s.pieces := rfl
@[simp] theorem modPlanner_ready (s : State) (k : Nat) (f : Planner → Planner) : (modPlanner s k f).ready = s.ready := rfl
@[simp] theorem modPlanner_queues (s : State) (k : Nat) (f : Planner → Planner) : (modPlanner s k f).queues = s.queues := rfl
@[simp] theorem modPlanner_qmap (s : State) (k : Nat) (f : Planner → Planner) : (modPlanner s k f).qmap = s.qmap := rfl
@[simp] theorem modPlanner_granules (s : State) (k : Nat) (f : Planner → Planner) : (modPlanner s k f).granules = s.granules := rfl
@[simp] theorem modPlanner_parts (s : State) (k : Nat) (f : Planner → Planner) : (modPlanner s k f).parts = s.parts := rfl
@[simp] theorem modPlanner_fns (s : State) (k : Nat) (f : Planner → Planner) : (modPlanner s k f).fns = s.fns := rfl
@[simp] theorem modPlanner_slots (s : State) (k : Nat) (f : Planner → Planner) : (modPlanner s k f).slots = s.slots := rfl
@[simp] theorem modPlanner_auths (s : State) (k : Nat) (f : Planner → Planner) : (modPlanner s k f).auths = s.auths := rfl
@[simp] theorem modPlanner_sealKeys (s : State) (k : Nat) (f : Planner → Planner) : (modPlanner s k f).sealKeys = s.sealKeys := rfl
@[simp] theorem modPlanner_domains (s : State) (k : Nat) (f : Planner → Planner) : (modPlanner s k f).domains = s.domains := rfl
@[simp] theorem modPlanner_jobKeys (s : State) (k : Nat) (f : Planner → Planner) : (modPlanner s k f).jobKeys = s.jobKeys := rfl
@[simp] theorem modPlanner_comms (s : State) (k : Nat) (f : Planner → Planner) : (modPlanner s k f).comms = s.comms := rfl
@[simp] theorem modPlanner_colls (s : State) (k : Nat) (f : Planner → Planner) : (modPlanner s k f).colls = s.colls := rfl
@[simp] theorem modPlanner_straits (s : State) (k : Nat) (f : Planner → Planner) : (modPlanner s k f).straits = s.straits := rfl
@[simp] theorem modPlanner_net (s : State) (k : Nat) (f : Planner → Planner) : (modPlanner s k f).net = s.net := rfl
@[simp] theorem modPlanner_netCount (s : State) (k : Nat) (f : Planner → Planner) : (modPlanner s k f).netCount = s.netCount := rfl
@[simp] theorem modPlanner_groups (s : State) (k : Nat) (f : Planner → Planner) : (modPlanner s k f).groups = s.groups := rfl
@[simp] theorem modPlanner_endpoints (s : State) (k : Nat) (f : Planner → Planner) : (modPlanner s k f).endpoints = s.endpoints := rfl
@[simp] theorem modPlanner_planners (s : State) (k : Nat) (f : Planner → Planner) : (modPlanner s k f).planners = tabMod {} k f s.planners := rfl
@[simp] theorem modPlanner_images (s : State) (k : Nat) (f : Planner → Planner) : (modPlanner s k f).images = s.images := rfl
@[simp] theorem modPlanner_hub (s : State) (k : Nat) (f : Planner → Planner) : (modPlanner s k f).hub = s.hub := rfl
@[simp] theorem modPlanner_tick (s : State) (k : Nat) (f : Planner → Planner) : (modPlanner s k f).tick = s.tick := rfl
@[simp] theorem modPlanner_agenda (s : State) (k : Nat) (f : Planner → Planner) : (modPlanner s k f).agenda = s.agenda := rfl
@[simp] theorem modPlanner_lag (s : State) (k : Nat) (f : Planner → Planner) : (modPlanner s k f).lag = s.lag := rfl
@[simp] theorem modPlanner_tear (s : State) (k : Nat) (f : Planner → Planner) : (modPlanner s k f).tear = s.tear := rfl
@[simp] theorem modPlanner_eside (s : State) (k : Nat) (f : Planner → Planner) : (modPlanner s k f).eside = s.eside := rfl
@[simp] theorem modPlanner_phase (s : State) (k : Nat) (f : Planner → Planner) : (modPlanner s k f).phase = s.phase := rfl
@[simp] theorem modPlanner_nextId (s : State) (k : Nat) (f : Planner → Planner) : (modPlanner s k f).nextId = s.nextId := rfl
@[simp] theorem modPlanner_fresh (s : State) (k : Nat) (f : Planner → Planner) : (modPlanner s k f).fresh = s.fresh := rfl

/-! ### modSlot -/

@[simp] theorem modSlot_x (s : State) (a k : Nat) (f : Slot → Slot) : (modSlot s a k f).x = s.x := rfl
@[simp] theorem modSlot_xid (s : State) (a k : Nat) (f : Slot → Slot) : (modSlot s a k f).xid = s.xid := rfl
@[simp] theorem modSlot_parked (s : State) (a k : Nat) (f : Slot → Slot) : (modSlot s a k f).parked = s.parked := rfl
@[simp] theorem modSlot_cores (s : State) (a k : Nat) (f : Slot → Slot) : (modSlot s a k f).cores = s.cores := rfl
@[simp] theorem modSlot_clusters (s : State) (a k : Nat) (f : Slot → Slot) : (modSlot s a k f).clusters = s.clusters := rfl
@[simp] theorem modSlot_dies (s : State) (a k : Nat) (f : Slot → Slot) : (modSlot s a k f).dies = s.dies := rfl
@[simp] theorem modSlot_mem (s : State) (a k : Nat) (f : Slot → Slot) : (modSlot s a k f).mem = s.mem := rfl
@[simp] theorem modSlot_badMem (s : State) (a k : Nat) (f : Slot → Slot) : (modSlot s a k f).badMem = s.badMem := rfl
@[simp] theorem modSlot_marks (s : State) (a k : Nat) (f : Slot → Slot) : (modSlot s a k f).marks = s.marks := rfl
@[simp] theorem modSlot_roots (s : State) (a k : Nat) (f : Slot → Slot) : (modSlot s a k f).roots = s.roots := rfl
@[simp] theorem modSlot_ats (s : State) (a k : Nat) (f : Slot → Slot) : (modSlot s a k f).ats = s.ats := rfl
@[simp] theorem modSlot_faults (s : State) (a k : Nat) (f : Slot → Slot) : (modSlot s a k f).faults = s.faults := rfl
@[simp] theorem modSlot_bundles (s : State) (a k : Nat) (f : Slot → Slot) : (modSlot s a k f).bundles = s.bundles := rfl
@[simp] theorem modSlot_pieces (s : State) (a k : Nat) (f : Slot → Slot) : (modSlot s a k f).pieces = s.pieces := rfl
@[simp] theorem modSlot_ready (s : State) (a k : Nat) (f : Slot → Slot) : (modSlot s a k f).ready = s.ready := rfl
@[simp] theorem modSlot_queues (s : State) (a k : Nat) (f : Slot → Slot) : (modSlot s a k f).queues = s.queues := rfl
@[simp] theorem modSlot_qmap (s : State) (a k : Nat) (f : Slot → Slot) : (modSlot s a k f).qmap = s.qmap := rfl
@[simp] theorem modSlot_granules (s : State) (a k : Nat) (f : Slot → Slot) : (modSlot s a k f).granules = s.granules := rfl
@[simp] theorem modSlot_parts (s : State) (a k : Nat) (f : Slot → Slot) : (modSlot s a k f).parts = s.parts := rfl
@[simp] theorem modSlot_fns (s : State) (a k : Nat) (f : Slot → Slot) : (modSlot s a k f).fns = s.fns := rfl
@[simp] theorem modSlot_slots (s : State) (a k : Nat) (f : Slot → Slot) : (modSlot s a k f).slots = tabMod {} (slotKey a k) f s.slots := rfl
@[simp] theorem modSlot_auths (s : State) (a k : Nat) (f : Slot → Slot) : (modSlot s a k f).auths = s.auths := rfl
@[simp] theorem modSlot_sealKeys (s : State) (a k : Nat) (f : Slot → Slot) : (modSlot s a k f).sealKeys = s.sealKeys := rfl
@[simp] theorem modSlot_domains (s : State) (a k : Nat) (f : Slot → Slot) : (modSlot s a k f).domains = s.domains := rfl
@[simp] theorem modSlot_jobKeys (s : State) (a k : Nat) (f : Slot → Slot) : (modSlot s a k f).jobKeys = s.jobKeys := rfl
@[simp] theorem modSlot_comms (s : State) (a k : Nat) (f : Slot → Slot) : (modSlot s a k f).comms = s.comms := rfl
@[simp] theorem modSlot_colls (s : State) (a k : Nat) (f : Slot → Slot) : (modSlot s a k f).colls = s.colls := rfl
@[simp] theorem modSlot_straits (s : State) (a k : Nat) (f : Slot → Slot) : (modSlot s a k f).straits = s.straits := rfl
@[simp] theorem modSlot_net (s : State) (a k : Nat) (f : Slot → Slot) : (modSlot s a k f).net = s.net := rfl
@[simp] theorem modSlot_netCount (s : State) (a k : Nat) (f : Slot → Slot) : (modSlot s a k f).netCount = s.netCount := rfl
@[simp] theorem modSlot_groups (s : State) (a k : Nat) (f : Slot → Slot) : (modSlot s a k f).groups = s.groups := rfl
@[simp] theorem modSlot_endpoints (s : State) (a k : Nat) (f : Slot → Slot) : (modSlot s a k f).endpoints = s.endpoints := rfl
@[simp] theorem modSlot_planners (s : State) (a k : Nat) (f : Slot → Slot) : (modSlot s a k f).planners = s.planners := rfl
@[simp] theorem modSlot_images (s : State) (a k : Nat) (f : Slot → Slot) : (modSlot s a k f).images = s.images := rfl
@[simp] theorem modSlot_hub (s : State) (a k : Nat) (f : Slot → Slot) : (modSlot s a k f).hub = s.hub := rfl
@[simp] theorem modSlot_tick (s : State) (a k : Nat) (f : Slot → Slot) : (modSlot s a k f).tick = s.tick := rfl
@[simp] theorem modSlot_agenda (s : State) (a k : Nat) (f : Slot → Slot) : (modSlot s a k f).agenda = s.agenda := rfl
@[simp] theorem modSlot_lag (s : State) (a k : Nat) (f : Slot → Slot) : (modSlot s a k f).lag = s.lag := rfl
@[simp] theorem modSlot_tear (s : State) (a k : Nat) (f : Slot → Slot) : (modSlot s a k f).tear = s.tear := rfl
@[simp] theorem modSlot_eside (s : State) (a k : Nat) (f : Slot → Slot) : (modSlot s a k f).eside = s.eside := rfl
@[simp] theorem modSlot_phase (s : State) (a k : Nat) (f : Slot → Slot) : (modSlot s a k f).phase = s.phase := rfl
@[simp] theorem modSlot_nextId (s : State) (a k : Nat) (f : Slot → Slot) : (modSlot s a k f).nextId = s.nextId := rfl
@[simp] theorem modSlot_fresh (s : State) (a k : Nat) (f : Slot → Slot) : (modSlot s a k f).fresh = s.fresh := rfl

/-! ### modDomain -/

@[simp] theorem modDomain_x (s : State) (k : Nat) (f : KeyDomain → KeyDomain) : (modDomain s k f).x = s.x := rfl
@[simp] theorem modDomain_xid (s : State) (k : Nat) (f : KeyDomain → KeyDomain) : (modDomain s k f).xid = s.xid := rfl
@[simp] theorem modDomain_parked (s : State) (k : Nat) (f : KeyDomain → KeyDomain) : (modDomain s k f).parked = s.parked := rfl
@[simp] theorem modDomain_cores (s : State) (k : Nat) (f : KeyDomain → KeyDomain) : (modDomain s k f).cores = s.cores := rfl
@[simp] theorem modDomain_clusters (s : State) (k : Nat) (f : KeyDomain → KeyDomain) : (modDomain s k f).clusters = s.clusters := rfl
@[simp] theorem modDomain_dies (s : State) (k : Nat) (f : KeyDomain → KeyDomain) : (modDomain s k f).dies = s.dies := rfl
@[simp] theorem modDomain_mem (s : State) (k : Nat) (f : KeyDomain → KeyDomain) : (modDomain s k f).mem = s.mem := rfl
@[simp] theorem modDomain_badMem (s : State) (k : Nat) (f : KeyDomain → KeyDomain) : (modDomain s k f).badMem = s.badMem := rfl
@[simp] theorem modDomain_marks (s : State) (k : Nat) (f : KeyDomain → KeyDomain) : (modDomain s k f).marks = s.marks := rfl
@[simp] theorem modDomain_roots (s : State) (k : Nat) (f : KeyDomain → KeyDomain) : (modDomain s k f).roots = s.roots := rfl
@[simp] theorem modDomain_ats (s : State) (k : Nat) (f : KeyDomain → KeyDomain) : (modDomain s k f).ats = s.ats := rfl
@[simp] theorem modDomain_faults (s : State) (k : Nat) (f : KeyDomain → KeyDomain) : (modDomain s k f).faults = s.faults := rfl
@[simp] theorem modDomain_bundles (s : State) (k : Nat) (f : KeyDomain → KeyDomain) : (modDomain s k f).bundles = s.bundles := rfl
@[simp] theorem modDomain_pieces (s : State) (k : Nat) (f : KeyDomain → KeyDomain) : (modDomain s k f).pieces = s.pieces := rfl
@[simp] theorem modDomain_ready (s : State) (k : Nat) (f : KeyDomain → KeyDomain) : (modDomain s k f).ready = s.ready := rfl
@[simp] theorem modDomain_queues (s : State) (k : Nat) (f : KeyDomain → KeyDomain) : (modDomain s k f).queues = s.queues := rfl
@[simp] theorem modDomain_qmap (s : State) (k : Nat) (f : KeyDomain → KeyDomain) : (modDomain s k f).qmap = s.qmap := rfl
@[simp] theorem modDomain_granules (s : State) (k : Nat) (f : KeyDomain → KeyDomain) : (modDomain s k f).granules = s.granules := rfl
@[simp] theorem modDomain_parts (s : State) (k : Nat) (f : KeyDomain → KeyDomain) : (modDomain s k f).parts = s.parts := rfl
@[simp] theorem modDomain_fns (s : State) (k : Nat) (f : KeyDomain → KeyDomain) : (modDomain s k f).fns = s.fns := rfl
@[simp] theorem modDomain_slots (s : State) (k : Nat) (f : KeyDomain → KeyDomain) : (modDomain s k f).slots = s.slots := rfl
@[simp] theorem modDomain_auths (s : State) (k : Nat) (f : KeyDomain → KeyDomain) : (modDomain s k f).auths = s.auths := rfl
@[simp] theorem modDomain_sealKeys (s : State) (k : Nat) (f : KeyDomain → KeyDomain) : (modDomain s k f).sealKeys = s.sealKeys := rfl
@[simp] theorem modDomain_domains (s : State) (k : Nat) (f : KeyDomain → KeyDomain) : (modDomain s k f).domains = tabMod {} k f s.domains := rfl
@[simp] theorem modDomain_jobKeys (s : State) (k : Nat) (f : KeyDomain → KeyDomain) : (modDomain s k f).jobKeys = s.jobKeys := rfl
@[simp] theorem modDomain_comms (s : State) (k : Nat) (f : KeyDomain → KeyDomain) : (modDomain s k f).comms = s.comms := rfl
@[simp] theorem modDomain_colls (s : State) (k : Nat) (f : KeyDomain → KeyDomain) : (modDomain s k f).colls = s.colls := rfl
@[simp] theorem modDomain_straits (s : State) (k : Nat) (f : KeyDomain → KeyDomain) : (modDomain s k f).straits = s.straits := rfl
@[simp] theorem modDomain_net (s : State) (k : Nat) (f : KeyDomain → KeyDomain) : (modDomain s k f).net = s.net := rfl
@[simp] theorem modDomain_netCount (s : State) (k : Nat) (f : KeyDomain → KeyDomain) : (modDomain s k f).netCount = s.netCount := rfl
@[simp] theorem modDomain_groups (s : State) (k : Nat) (f : KeyDomain → KeyDomain) : (modDomain s k f).groups = s.groups := rfl
@[simp] theorem modDomain_endpoints (s : State) (k : Nat) (f : KeyDomain → KeyDomain) : (modDomain s k f).endpoints = s.endpoints := rfl
@[simp] theorem modDomain_planners (s : State) (k : Nat) (f : KeyDomain → KeyDomain) : (modDomain s k f).planners = s.planners := rfl
@[simp] theorem modDomain_images (s : State) (k : Nat) (f : KeyDomain → KeyDomain) : (modDomain s k f).images = s.images := rfl
@[simp] theorem modDomain_hub (s : State) (k : Nat) (f : KeyDomain → KeyDomain) : (modDomain s k f).hub = s.hub := rfl
@[simp] theorem modDomain_tick (s : State) (k : Nat) (f : KeyDomain → KeyDomain) : (modDomain s k f).tick = s.tick := rfl
@[simp] theorem modDomain_agenda (s : State) (k : Nat) (f : KeyDomain → KeyDomain) : (modDomain s k f).agenda = s.agenda := rfl
@[simp] theorem modDomain_lag (s : State) (k : Nat) (f : KeyDomain → KeyDomain) : (modDomain s k f).lag = s.lag := rfl
@[simp] theorem modDomain_tear (s : State) (k : Nat) (f : KeyDomain → KeyDomain) : (modDomain s k f).tear = s.tear := rfl
@[simp] theorem modDomain_eside (s : State) (k : Nat) (f : KeyDomain → KeyDomain) : (modDomain s k f).eside = s.eside := rfl
@[simp] theorem modDomain_phase (s : State) (k : Nat) (f : KeyDomain → KeyDomain) : (modDomain s k f).phase = s.phase := rfl
@[simp] theorem modDomain_nextId (s : State) (k : Nat) (f : KeyDomain → KeyDomain) : (modDomain s k f).nextId = s.nextId := rfl
@[simp] theorem modDomain_fresh (s : State) (k : Nat) (f : KeyDomain → KeyDomain) : (modDomain s k f).fresh = s.fresh := rfl

/-! ### modAuth -/

@[simp] theorem modAuth_x (s : State) (k : Nat) (f : Auth → Auth) : (modAuth s k f).x = s.x := rfl
@[simp] theorem modAuth_xid (s : State) (k : Nat) (f : Auth → Auth) : (modAuth s k f).xid = s.xid := rfl
@[simp] theorem modAuth_parked (s : State) (k : Nat) (f : Auth → Auth) : (modAuth s k f).parked = s.parked := rfl
@[simp] theorem modAuth_cores (s : State) (k : Nat) (f : Auth → Auth) : (modAuth s k f).cores = s.cores := rfl
@[simp] theorem modAuth_clusters (s : State) (k : Nat) (f : Auth → Auth) : (modAuth s k f).clusters = s.clusters := rfl
@[simp] theorem modAuth_dies (s : State) (k : Nat) (f : Auth → Auth) : (modAuth s k f).dies = s.dies := rfl
@[simp] theorem modAuth_mem (s : State) (k : Nat) (f : Auth → Auth) : (modAuth s k f).mem = s.mem := rfl
@[simp] theorem modAuth_badMem (s : State) (k : Nat) (f : Auth → Auth) : (modAuth s k f).badMem = s.badMem := rfl
@[simp] theorem modAuth_marks (s : State) (k : Nat) (f : Auth → Auth) : (modAuth s k f).marks = s.marks := rfl
@[simp] theorem modAuth_roots (s : State) (k : Nat) (f : Auth → Auth) : (modAuth s k f).roots = s.roots := rfl
@[simp] theorem modAuth_ats (s : State) (k : Nat) (f : Auth → Auth) : (modAuth s k f).ats = s.ats := rfl
@[simp] theorem modAuth_faults (s : State) (k : Nat) (f : Auth → Auth) : (modAuth s k f).faults = s.faults := rfl
@[simp] theorem modAuth_bundles (s : State) (k : Nat) (f : Auth → Auth) : (modAuth s k f).bundles = s.bundles := rfl
@[simp] theorem modAuth_pieces (s : State) (k : Nat) (f : Auth → Auth) : (modAuth s k f).pieces = s.pieces := rfl
@[simp] theorem modAuth_ready (s : State) (k : Nat) (f : Auth → Auth) : (modAuth s k f).ready = s.ready := rfl
@[simp] theorem modAuth_queues (s : State) (k : Nat) (f : Auth → Auth) : (modAuth s k f).queues = s.queues := rfl
@[simp] theorem modAuth_qmap (s : State) (k : Nat) (f : Auth → Auth) : (modAuth s k f).qmap = s.qmap := rfl
@[simp] theorem modAuth_granules (s : State) (k : Nat) (f : Auth → Auth) : (modAuth s k f).granules = s.granules := rfl
@[simp] theorem modAuth_parts (s : State) (k : Nat) (f : Auth → Auth) : (modAuth s k f).parts = s.parts := rfl
@[simp] theorem modAuth_fns (s : State) (k : Nat) (f : Auth → Auth) : (modAuth s k f).fns = s.fns := rfl
@[simp] theorem modAuth_slots (s : State) (k : Nat) (f : Auth → Auth) : (modAuth s k f).slots = s.slots := rfl
@[simp] theorem modAuth_auths (s : State) (k : Nat) (f : Auth → Auth) : (modAuth s k f).auths = tabMod {} k f s.auths := rfl
@[simp] theorem modAuth_sealKeys (s : State) (k : Nat) (f : Auth → Auth) : (modAuth s k f).sealKeys = s.sealKeys := rfl
@[simp] theorem modAuth_domains (s : State) (k : Nat) (f : Auth → Auth) : (modAuth s k f).domains = s.domains := rfl
@[simp] theorem modAuth_jobKeys (s : State) (k : Nat) (f : Auth → Auth) : (modAuth s k f).jobKeys = s.jobKeys := rfl
@[simp] theorem modAuth_comms (s : State) (k : Nat) (f : Auth → Auth) : (modAuth s k f).comms = s.comms := rfl
@[simp] theorem modAuth_colls (s : State) (k : Nat) (f : Auth → Auth) : (modAuth s k f).colls = s.colls := rfl
@[simp] theorem modAuth_straits (s : State) (k : Nat) (f : Auth → Auth) : (modAuth s k f).straits = s.straits := rfl
@[simp] theorem modAuth_net (s : State) (k : Nat) (f : Auth → Auth) : (modAuth s k f).net = s.net := rfl
@[simp] theorem modAuth_netCount (s : State) (k : Nat) (f : Auth → Auth) : (modAuth s k f).netCount = s.netCount := rfl
@[simp] theorem modAuth_groups (s : State) (k : Nat) (f : Auth → Auth) : (modAuth s k f).groups = s.groups := rfl
@[simp] theorem modAuth_endpoints (s : State) (k : Nat) (f : Auth → Auth) : (modAuth s k f).endpoints = s.endpoints := rfl
@[simp] theorem modAuth_planners (s : State) (k : Nat) (f : Auth → Auth) : (modAuth s k f).planners = s.planners := rfl
@[simp] theorem modAuth_images (s : State) (k : Nat) (f : Auth → Auth) : (modAuth s k f).images = s.images := rfl
@[simp] theorem modAuth_hub (s : State) (k : Nat) (f : Auth → Auth) : (modAuth s k f).hub = s.hub := rfl
@[simp] theorem modAuth_tick (s : State) (k : Nat) (f : Auth → Auth) : (modAuth s k f).tick = s.tick := rfl
@[simp] theorem modAuth_agenda (s : State) (k : Nat) (f : Auth → Auth) : (modAuth s k f).agenda = s.agenda := rfl
@[simp] theorem modAuth_lag (s : State) (k : Nat) (f : Auth → Auth) : (modAuth s k f).lag = s.lag := rfl
@[simp] theorem modAuth_tear (s : State) (k : Nat) (f : Auth → Auth) : (modAuth s k f).tear = s.tear := rfl
@[simp] theorem modAuth_eside (s : State) (k : Nat) (f : Auth → Auth) : (modAuth s k f).eside = s.eside := rfl
@[simp] theorem modAuth_phase (s : State) (k : Nat) (f : Auth → Auth) : (modAuth s k f).phase = s.phase := rfl
@[simp] theorem modAuth_nextId (s : State) (k : Nat) (f : Auth → Auth) : (modAuth s k f).nextId = s.nextId := rfl
@[simp] theorem modAuth_fresh (s : State) (k : Nat) (f : Auth → Auth) : (modAuth s k f).fresh = s.fresh := rfl

/-! ### modHub -/

@[simp] theorem modHub_x (s : State) (f : Hub → Hub) : (modHub s f).x = s.x := rfl
@[simp] theorem modHub_xid (s : State) (f : Hub → Hub) : (modHub s f).xid = s.xid := rfl
@[simp] theorem modHub_parked (s : State) (f : Hub → Hub) : (modHub s f).parked = s.parked := rfl
@[simp] theorem modHub_cores (s : State) (f : Hub → Hub) : (modHub s f).cores = s.cores := rfl
@[simp] theorem modHub_clusters (s : State) (f : Hub → Hub) : (modHub s f).clusters = s.clusters := rfl
@[simp] theorem modHub_dies (s : State) (f : Hub → Hub) : (modHub s f).dies = s.dies := rfl
@[simp] theorem modHub_mem (s : State) (f : Hub → Hub) : (modHub s f).mem = s.mem := rfl
@[simp] theorem modHub_badMem (s : State) (f : Hub → Hub) : (modHub s f).badMem = s.badMem := rfl
@[simp] theorem modHub_marks (s : State) (f : Hub → Hub) : (modHub s f).marks = s.marks := rfl
@[simp] theorem modHub_roots (s : State) (f : Hub → Hub) : (modHub s f).roots = s.roots := rfl
@[simp] theorem modHub_ats (s : State) (f : Hub → Hub) : (modHub s f).ats = s.ats := rfl
@[simp] theorem modHub_faults (s : State) (f : Hub → Hub) : (modHub s f).faults = s.faults := rfl
@[simp] theorem modHub_bundles (s : State) (f : Hub → Hub) : (modHub s f).bundles = s.bundles := rfl
@[simp] theorem modHub_pieces (s : State) (f : Hub → Hub) : (modHub s f).pieces = s.pieces := rfl
@[simp] theorem modHub_ready (s : State) (f : Hub → Hub) : (modHub s f).ready = s.ready := rfl
@[simp] theorem modHub_queues (s : State) (f : Hub → Hub) : (modHub s f).queues = s.queues := rfl
@[simp] theorem modHub_qmap (s : State) (f : Hub → Hub) : (modHub s f).qmap = s.qmap := rfl
@[simp] theorem modHub_granules (s : State) (f : Hub → Hub) : (modHub s f).granules = s.granules := rfl
@[simp] theorem modHub_parts (s : State) (f : Hub → Hub) : (modHub s f).parts = s.parts := rfl
@[simp] theorem modHub_fns (s : State) (f : Hub → Hub) : (modHub s f).fns = s.fns := rfl
@[simp] theorem modHub_slots (s : State) (f : Hub → Hub) : (modHub s f).slots = s.slots := rfl
@[simp] theorem modHub_auths (s : State) (f : Hub → Hub) : (modHub s f).auths = s.auths := rfl
@[simp] theorem modHub_sealKeys (s : State) (f : Hub → Hub) : (modHub s f).sealKeys = s.sealKeys := rfl
@[simp] theorem modHub_domains (s : State) (f : Hub → Hub) : (modHub s f).domains = s.domains := rfl
@[simp] theorem modHub_jobKeys (s : State) (f : Hub → Hub) : (modHub s f).jobKeys = s.jobKeys := rfl
@[simp] theorem modHub_comms (s : State) (f : Hub → Hub) : (modHub s f).comms = s.comms := rfl
@[simp] theorem modHub_colls (s : State) (f : Hub → Hub) : (modHub s f).colls = s.colls := rfl
@[simp] theorem modHub_straits (s : State) (f : Hub → Hub) : (modHub s f).straits = s.straits := rfl
@[simp] theorem modHub_net (s : State) (f : Hub → Hub) : (modHub s f).net = s.net := rfl
@[simp] theorem modHub_netCount (s : State) (f : Hub → Hub) : (modHub s f).netCount = s.netCount := rfl
@[simp] theorem modHub_groups (s : State) (f : Hub → Hub) : (modHub s f).groups = s.groups := rfl
@[simp] theorem modHub_endpoints (s : State) (f : Hub → Hub) : (modHub s f).endpoints = s.endpoints := rfl
@[simp] theorem modHub_planners (s : State) (f : Hub → Hub) : (modHub s f).planners = s.planners := rfl
@[simp] theorem modHub_images (s : State) (f : Hub → Hub) : (modHub s f).images = s.images := rfl
@[simp] theorem modHub_hub (s : State) (f : Hub → Hub) : (modHub s f).hub = f s.hub := rfl
@[simp] theorem modHub_tick (s : State) (f : Hub → Hub) : (modHub s f).tick = s.tick := rfl
@[simp] theorem modHub_agenda (s : State) (f : Hub → Hub) : (modHub s f).agenda = s.agenda := rfl
@[simp] theorem modHub_lag (s : State) (f : Hub → Hub) : (modHub s f).lag = s.lag := rfl
@[simp] theorem modHub_tear (s : State) (f : Hub → Hub) : (modHub s f).tear = s.tear := rfl
@[simp] theorem modHub_eside (s : State) (f : Hub → Hub) : (modHub s f).eside = s.eside := rfl
@[simp] theorem modHub_phase (s : State) (f : Hub → Hub) : (modHub s f).phase = s.phase := rfl
@[simp] theorem modHub_nextId (s : State) (f : Hub → Hub) : (modHub s f).nextId = s.nextId := rfl
@[simp] theorem modHub_fresh (s : State) (f : Hub → Hub) : (modHub s f).fresh = s.fresh := rfl

/-! ### Context.orFlags -/

@[simp] theorem orFlags_run (x : Context) (fl : Flags) : (x.orFlags fl).run = x.run := rfl
@[simp] theorem orFlags_cont (x : Context) (fl : Flags) : (x.orFlags fl).cont = x.cont := rfl
@[simp] theorem orFlags_handler (x : Context) (fl : Flags) : (x.orFlags fl).handler = x.handler := rfl
@[simp] theorem orFlags_pc (x : Context) (fl : Flags) : (x.orFlags fl).pc = x.pc := rfl
@[simp] theorem orFlags_xfer (x : Context) (fl : Flags) : (x.orFlags fl).xfer = x.xfer := rfl
@[simp] theorem orFlags_g (x : Context) (fl : Flags) : (x.orFlags fl).g = x.g := rfl
@[simp] theorem orFlags_gEmpty (x : Context) (fl : Flags) : (x.orFlags fl).gEmpty = x.gEmpty := rfl
@[simp] theorem orFlags_v (x : Context) (fl : Flags) : (x.orFlags fl).v = x.v := rfl
@[simp] theorem orFlags_vEmpty (x : Context) (fl : Flags) : (x.orFlags fl).vEmpty = x.vEmpty := rfl
@[simp] theorem orFlags_p (x : Context) (fl : Flags) : (x.orFlags fl).p = x.p := rfl
@[simp] theorem orFlags_h (x : Context) (fl : Flags) : (x.orFlags fl).h = x.h := rfl
@[simp] theorem orFlags_y (x : Context) (fl : Flags) : (x.orFlags fl).y = x.y := rfl
@[simp] theorem orFlags_k (x : Context) (fl : Flags) : (x.orFlags fl).k = x.k := rfl
@[simp] theorem orFlags_sAE (x : Context) (fl : Flags) : (x.orFlags fl).sAE = x.sAE := rfl
@[simp] theorem orFlags_sEA (x : Context) (fl : Flags) : (x.orFlags fl).sEA = x.sEA := rfl
@[simp] theorem orFlags_vAE (x : Context) (fl : Flags) : (x.orFlags fl).vAE = x.vAE := rfl
@[simp] theorem orFlags_vEA (x : Context) (fl : Flags) : (x.orFlags fl).vEA = x.vEA := rfl
@[simp] theorem orFlags_ring (x : Context) (fl : Flags) : (x.orFlags fl).ring = x.ring := rfl
@[simp] theorem orFlags_ringOv (x : Context) (fl : Flags) : (x.orFlags fl).ringOv = x.ringOv := rfl
@[simp] theorem orFlags_loops (x : Context) (fl : Flags) : (x.orFlags fl).loops = x.loops := rfl
@[simp] theorem orFlags_vtype (x : Context) (fl : Flags) : (x.orFlags fl).vtype = x.vtype := rfl
@[simp] theorem orFlags_fstat (x : Context) (fl : Flags) : (x.orFlags fl).fstat = fstatOr x.fstat fl := rfl
@[simp] theorem orFlags_seed (x : Context) (fl : Flags) : (x.orFlags fl).seed = x.seed := rfl
@[simp] theorem orFlags_lanes (x : Context) (fl : Flags) : (x.orFlags fl).lanes = x.lanes := rfl
@[simp] theorem orFlags_poolpw (x : Context) (fl : Flags) : (x.orFlags fl).poolpw = x.poolpw := rfl
@[simp] theorem orFlags_localw (x : Context) (fl : Flags) : (x.orFlags fl).localw = x.localw := rfl
@[simp] theorem orFlags_clustw (x : Context) (fl : Flags) : (x.orFlags fl).clustw = x.clustw := rfl
@[simp] theorem orFlags_sharedw (x : Context) (fl : Flags) : (x.orFlags fl).sharedw = x.sharedw := rfl
@[simp] theorem orFlags_widhdr (x : Context) (fl : Flags) : (x.orFlags fl).widhdr = x.widhdr := rfl
@[simp] theorem orFlags_nodeid (x : Context) (fl : Flags) : (x.orFlags fl).nodeid = x.nodeid := rfl
@[simp] theorem orFlags_tenant (x : Context) (fl : Flags) : (x.orFlags fl).tenant = x.tenant := rfl
@[simp] theorem orFlags_cause (x : Context) (fl : Flags) : (x.orFlags fl).cause = x.cause := rfl
@[simp] theorem orFlags_epc (x : Context) (fl : Flags) : (x.orFlags fl).epc = x.epc := rfl
@[simp] theorem orFlags_tfp (x : Context) (fl : Flags) : (x.orFlags fl).tfp = x.tfp := rfl
@[simp] theorem orFlags_tvec (x : Context) (fl : Flags) : (x.orFlags fl).tvec = x.tvec := rfl
@[simp] theorem orFlags_pmstat (x : Context) (fl : Flags) : (x.orFlags fl).pmstat = x.pmstat := rfl
@[simp] theorem orFlags_pkbase (x : Context) (fl : Flags) : (x.orFlags fl).pkbase = x.pkbase := rfl
@[simp] theorem orFlags_pats (x : Context) (fl : Flags) : (x.orFlags fl).pats = x.pats := rfl
@[simp] theorem orFlags_cur (x : Context) (fl : Flags) : (x.orFlags fl).cur = x.cur := rfl
@[simp] theorem orFlags_ws (x : Context) (fl : Flags) : (x.orFlags fl).ws = x.ws := rfl
@[simp] theorem orFlags_stream (x : Context) (fl : Flags) : (x.orFlags fl).stream = x.stream := rfl
@[simp] theorem orFlags_replay (x : Context) (fl : Flags) : (x.orFlags fl).replay = x.replay := rfl
@[simp] theorem orFlags_wbs (x : Context) (fl : Flags) : (x.orFlags fl).wbs = x.wbs := rfl
@[simp] theorem orFlags_stores (x : Context) (fl : Flags) : (x.orFlags fl).stores = x.stores := rfl
@[simp] theorem orFlags_asyncs (x : Context) (fl : Flags) : (x.orFlags fl).asyncs = x.asyncs := rfl
@[simp] theorem orFlags_raised (x : Context) (fl : Flags) : (x.orFlags fl).raised = x.raised := rfl
@[simp] theorem orFlags_fincs (x : Context) (fl : Flags) : (x.orFlags fl).fincs = x.fincs := rfl
@[simp] theorem orFlags_pend (x : Context) (fl : Flags) : (x.orFlags fl).pend = x.pend := rfl
@[simp] theorem orFlags_blockA (x : Context) (fl : Flags) : (x.orFlags fl).blockA = x.blockA := rfl
@[simp] theorem orFlags_blockE (x : Context) (fl : Flags) : (x.orFlags fl).blockE = x.blockE := rfl
@[simp] theorem orFlags_since (x : Context) (fl : Flags) : (x.orFlags fl).since = x.since := rfl
@[simp] theorem orFlags_lateSigs (x : Context) (fl : Flags) : (x.orFlags fl).lateSigs = x.lateSigs := rfl
@[simp] theorem orFlags_lateFl (x : Context) (fl : Flags) : (x.orFlags fl).lateFl = x.lateFl := rfl
@[simp] theorem orFlags_wsOld (x : Context) (fl : Flags) : (x.orFlags fl).wsOld = x.wsOld := rfl
@[simp] theorem orFlags_readyA (x : Context) (fl : Flags) : (x.orFlags fl).readyA = x.readyA := rfl
@[simp] theorem orFlags_readyE (x : Context) (fl : Flags) : (x.orFlags fl).readyE = x.readyE := rfl
@[simp] theorem orFlags_promA (x : Context) (fl : Flags) : (x.orFlags fl).promA = x.promA := rfl
@[simp] theorem orFlags_promE (x : Context) (fl : Flags) : (x.orFlags fl).promE = x.promE := rfl
@[simp] theorem orFlags_tokA (x : Context) (fl : Flags) : (x.orFlags fl).tokA = x.tokA := rfl
@[simp] theorem orFlags_tokE (x : Context) (fl : Flags) : (x.orFlags fl).tokE = x.tokE := rfl

/-! ### Context.setV -/

@[simp] theorem setV_run (x : Context) (r : Nat) (w : Vec) : (x.setV r w).run = x.run := rfl
@[simp] theorem setV_cont (x : Context) (r : Nat) (w : Vec) : (x.setV r w).cont = x.cont := rfl
@[simp] theorem setV_handler (x : Context) (r : Nat) (w : Vec) : (x.setV r w).handler = x.handler := rfl
@[simp] theorem setV_pc (x : Context) (r : Nat) (w : Vec) : (x.setV r w).pc = x.pc := rfl
@[simp] theorem setV_xfer (x : Context) (r : Nat) (w : Vec) : (x.setV r w).xfer = x.xfer := rfl
@[simp] theorem setV_g (x : Context) (r : Nat) (w : Vec) : (x.setV r w).g = x.g := rfl
@[simp] theorem setV_gEmpty (x : Context) (r : Nat) (w : Vec) : (x.setV r w).gEmpty = x.gEmpty := rfl
@[simp] theorem setV_v (x : Context) (r : Nat) (w : Vec) : (x.setV r w).v = vecSet x.v r w := rfl
@[simp] theorem setV_vEmpty (x : Context) (r : Nat) (w : Vec) : (x.setV r w).vEmpty = x.vEmpty := rfl
@[simp] theorem setV_p (x : Context) (r : Nat) (w : Vec) : (x.setV r w).p = x.p := rfl
@[simp] theorem setV_h (x : Context) (r : Nat) (w : Vec) : (x.setV r w).h = x.h := rfl
@[simp] theorem setV_y (x : Context) (r : Nat) (w : Vec) : (x.setV r w).y = x.y := rfl
@[simp] theorem setV_k (x : Context) (r : Nat) (w : Vec) : (x.setV r w).k = x.k := rfl
@[simp] theorem setV_sAE (x : Context) (r : Nat) (w : Vec) : (x.setV r w).sAE = x.sAE := rfl
@[simp] theorem setV_sEA (x : Context) (r : Nat) (w : Vec) : (x.setV r w).sEA = x.sEA := rfl
@[simp] theorem setV_vAE (x : Context) (r : Nat) (w : Vec) : (x.setV r w).vAE = x.vAE := rfl
@[simp] theorem setV_vEA (x : Context) (r : Nat) (w : Vec) : (x.setV r w).vEA = x.vEA := rfl
@[simp] theorem setV_ring (x : Context) (r : Nat) (w : Vec) : (x.setV r w).ring = x.ring := rfl
@[simp] theorem setV_ringOv (x : Context) (r : Nat) (w : Vec) : (x.setV r w).ringOv = x.ringOv := rfl
@[simp] theorem setV_loops (x : Context) (r : Nat) (w : Vec) : (x.setV r w).loops = x.loops := rfl
@[simp] theorem setV_vtype (x : Context) (r : Nat) (w : Vec) : (x.setV r w).vtype = x.vtype := rfl
@[simp] theorem setV_fstat (x : Context) (r : Nat) (w : Vec) : (x.setV r w).fstat = x.fstat := rfl
@[simp] theorem setV_seed (x : Context) (r : Nat) (w : Vec) : (x.setV r w).seed = x.seed := rfl
@[simp] theorem setV_lanes (x : Context) (r : Nat) (w : Vec) : (x.setV r w).lanes = x.lanes := rfl
@[simp] theorem setV_poolpw (x : Context) (r : Nat) (w : Vec) : (x.setV r w).poolpw = x.poolpw := rfl
@[simp] theorem setV_localw (x : Context) (r : Nat) (w : Vec) : (x.setV r w).localw = x.localw := rfl
@[simp] theorem setV_clustw (x : Context) (r : Nat) (w : Vec) : (x.setV r w).clustw = x.clustw := rfl
@[simp] theorem setV_sharedw (x : Context) (r : Nat) (w : Vec) : (x.setV r w).sharedw = x.sharedw := rfl
@[simp] theorem setV_widhdr (x : Context) (r : Nat) (w : Vec) : (x.setV r w).widhdr = x.widhdr := rfl
@[simp] theorem setV_nodeid (x : Context) (r : Nat) (w : Vec) : (x.setV r w).nodeid = x.nodeid := rfl
@[simp] theorem setV_tenant (x : Context) (r : Nat) (w : Vec) : (x.setV r w).tenant = x.tenant := rfl
@[simp] theorem setV_cause (x : Context) (r : Nat) (w : Vec) : (x.setV r w).cause = x.cause := rfl
@[simp] theorem setV_epc (x : Context) (r : Nat) (w : Vec) : (x.setV r w).epc = x.epc := rfl
@[simp] theorem setV_tfp (x : Context) (r : Nat) (w : Vec) : (x.setV r w).tfp = x.tfp := rfl
@[simp] theorem setV_tvec (x : Context) (r : Nat) (w : Vec) : (x.setV r w).tvec = x.tvec := rfl
@[simp] theorem setV_pmstat (x : Context) (r : Nat) (w : Vec) : (x.setV r w).pmstat = x.pmstat := rfl
@[simp] theorem setV_pkbase (x : Context) (r : Nat) (w : Vec) : (x.setV r w).pkbase = x.pkbase := rfl
@[simp] theorem setV_pats (x : Context) (r : Nat) (w : Vec) : (x.setV r w).pats = x.pats := rfl
@[simp] theorem setV_cur (x : Context) (r : Nat) (w : Vec) : (x.setV r w).cur = x.cur := rfl
@[simp] theorem setV_ws (x : Context) (r : Nat) (w : Vec) : (x.setV r w).ws = x.ws := rfl
@[simp] theorem setV_stream (x : Context) (r : Nat) (w : Vec) : (x.setV r w).stream = x.stream := rfl
@[simp] theorem setV_replay (x : Context) (r : Nat) (w : Vec) : (x.setV r w).replay = x.replay := rfl
@[simp] theorem setV_wbs (x : Context) (r : Nat) (w : Vec) : (x.setV r w).wbs = x.wbs := rfl
@[simp] theorem setV_stores (x : Context) (r : Nat) (w : Vec) : (x.setV r w).stores = x.stores := rfl
@[simp] theorem setV_asyncs (x : Context) (r : Nat) (w : Vec) : (x.setV r w).asyncs = x.asyncs := rfl
@[simp] theorem setV_raised (x : Context) (r : Nat) (w : Vec) : (x.setV r w).raised = x.raised := rfl
@[simp] theorem setV_fincs (x : Context) (r : Nat) (w : Vec) : (x.setV r w).fincs = x.fincs := rfl
@[simp] theorem setV_pend (x : Context) (r : Nat) (w : Vec) : (x.setV r w).pend = x.pend := rfl
@[simp] theorem setV_blockA (x : Context) (r : Nat) (w : Vec) : (x.setV r w).blockA = x.blockA := rfl
@[simp] theorem setV_blockE (x : Context) (r : Nat) (w : Vec) : (x.setV r w).blockE = x.blockE := rfl
@[simp] theorem setV_since (x : Context) (r : Nat) (w : Vec) : (x.setV r w).since = x.since := rfl
@[simp] theorem setV_lateSigs (x : Context) (r : Nat) (w : Vec) : (x.setV r w).lateSigs = x.lateSigs := rfl
@[simp] theorem setV_lateFl (x : Context) (r : Nat) (w : Vec) : (x.setV r w).lateFl = x.lateFl := rfl
@[simp] theorem setV_wsOld (x : Context) (r : Nat) (w : Vec) : (x.setV r w).wsOld = x.wsOld := rfl
@[simp] theorem setV_readyA (x : Context) (r : Nat) (w : Vec) : (x.setV r w).readyA = x.readyA := rfl
@[simp] theorem setV_readyE (x : Context) (r : Nat) (w : Vec) : (x.setV r w).readyE = x.readyE := rfl
@[simp] theorem setV_promA (x : Context) (r : Nat) (w : Vec) : (x.setV r w).promA = x.promA := rfl
@[simp] theorem setV_promE (x : Context) (r : Nat) (w : Vec) : (x.setV r w).promE = x.promE := rfl
@[simp] theorem setV_tokA (x : Context) (r : Nat) (w : Vec) : (x.setV r w).tokA = x.tokA := rfl
@[simp] theorem setV_tokE (x : Context) (r : Nat) (w : Vec) : (x.setV r w).tokE = x.tokE := rfl

end Sys2Proof.Machine
end

