-- ==== Sys2Proof/Laws/Trap.lean ====
section
/-!
SUPPORT. What taking a trap does (R457, R458): where it goes, and what the context holds at the handler's first instruction.
-/

namespace Sys2Proof.Machine

/-- A cause raised while FINCs are on their way waits for them (R457 step 3). -/
theorem raise_waits {s : State} {r : Raised} (h : trapWaits s = true) : raise s r = modX s (fun x => { x with raised := some r }) := by
  unfold raise; rw [if_pos h]

/-- Otherwise the trap is taken at once. -/
theorem raise_enters {s : State} {r : Raised} (h : trapWaits s = false) : raise s r = trapEntry s r := by
  unfold raise; rw [if_neg (by simp [h])]

theorem choice_eq {b : Bool} {u v t : State} (h : (if b = true then u else v) = t) : t = u ∨ t = v := by
  cases b
  · exact .inr h.symm
  · exact .inl h.symm

/-- Everything that taking a trap can do: the continuation ends with its cause or with 0x014 logged, or the frame is written and the context,
with its results landed and the places of its logged accesses noted, enters the handler (R457, R458, R244). -/
theorem trapEntry_cases (s : State) (r : Raised) :
    (s.x.tvec = 0 ∧ trapEntry s r = endContinuation (logCause (modX s (fun x => { x with raised := none })) s.x.cont.bundle r.cause)) ∨
    (s.x.tvec ≠ 0 ∧ ∃ u, trapEntry s r = endContinuation (logCause u u.x.cont.bundle 0x014)) ∨
    (s.x.tvec ≠ 0 ∧ s.x.handler = false ∧ ∃ (u : State) (ps : List (Word × Loc)),
      trapEntry s r = modX u (fun x => { enterHandler x r with places := ps })) := by
  generalize ht : trapEntry s r = t
  unfold trapEntry at ht
  dsimp only at ht
  by_cases h0 : s.x.tvec = 0
  · rw [if_pos (show (modX s (fun x => { x with raised := none })).x.tvec = 0 from h0)] at ht
    exact .inl ⟨h0, ht.symm⟩
  · rw [if_neg (show ¬(modX s (fun x => { x with raised := none })).x.tvec = 0 from h0)] at ht
    by_cases hb : ((modX s (fun x => { x with raised := none })).x.handler ||
        !frameRangeOk (modX s (fun x => { x with raised := none }))) = true
    · rw [if_pos hb] at ht
      exact .inr (.inl ⟨h0, _, ht.symm⟩)
    · rw [if_neg hb] at ht
      have hh : s.x.handler = false := by
        simp only [Bool.or_eq_true, not_or, Bool.not_eq_true] at hb
        exact hb.1
      rcases choice_eq ht with h | h
      · exact .inr (.inr ⟨h0, hh, _, _, h⟩)
      · exact .inr (.inl ⟨h0, _, h⟩)

/-! ### The context at the handler's first instruction -/

@[simp] theorem enterHandler_run (x : Context) (r : Raised) : (enterHandler x r).run = x.run := rfl
@[simp] theorem enterHandler_cont (x : Context) (r : Raised) : (enterHandler x r).cont = x.cont := rfl
@[simp] theorem enterHandler_handler (x : Context) (r : Raised) : (enterHandler x r).handler = true := rfl
@[simp] theorem enterHandler_pc (x : Context) (r : Raised) : (enterHandler x r).pc = x.tvec.setWidth 48 := rfl
@[simp] theorem enterHandler_xfer (x : Context) (r : Raised) : (enterHandler x r).xfer = none := rfl
@[simp] theorem enterHandler_g (x : Context) (r : Raised) : (enterHandler x r).g = x.g := rfl
@[simp] theorem enterHandler_gEmpty (x : Context) (r : Raised) : (enterHandler x r).gEmpty = 0 := rfl
@[simp] theorem enterHandler_v (x : Context) (r : Raised) : (enterHandler x r).v = x.v := rfl
@[simp] theorem enterHandler_vEmpty (x : Context) (r : Raised) : (enterHandler x r).vEmpty = 0 := rfl
@[simp] theorem enterHandler_p (x : Context) (r : Raised) : (enterHandler x r).p = x.p := rfl
@[simp] theorem enterHandler_h (x : Context) (r : Raised) : (enterHandler x r).h = x.h := rfl
@[simp] theorem enterHandler_y (x : Context) (r : Raised) : (enterHandler x r).y = x.y := rfl
@[simp] theorem enterHandler_k (x : Context) (r : Raised) : (enterHandler x r).k = x.k := rfl
@[simp] theorem enterHandler_sAE (x : Context) (r : Raised) : (enterHandler x r).sAE = Vector.replicate 4 [] := rfl
@[simp] theorem enterHandler_sEA (x : Context) (r : Raised) : (enterHandler x r).sEA = Vector.replicate 4 [] := rfl
@[simp] theorem enterHandler_vAE (x : Context) (r : Raised) : (enterHandler x r).vAE = Vector.replicate 4 [] := rfl
@[simp] theorem enterHandler_vEA (x : Context) (r : Raised) : (enterHandler x r).vEA = Vector.replicate 4 [] := rfl
@[simp] theorem enterHandler_ring (x : Context) (r : Raised) : (enterHandler x r).ring = Vector.replicate 8 0 := rfl
@[simp] theorem enterHandler_loops (x : Context) (r : Raised) : (enterHandler x r).loops = [] := rfl
@[simp] theorem enterHandler_vtype (x : Context) (r : Raised) : (enterHandler x r).vtype = x.vtype := rfl
@[simp] theorem enterHandler_fstat (x : Context) (r : Raised) : (enterHandler x r).fstat = x.fstat := rfl
@[simp] theorem enterHandler_seed (x : Context) (r : Raised) : (enterHandler x r).seed = x.seed := rfl
@[simp] theorem enterHandler_lanes (x : Context) (r : Raised) : (enterHandler x r).lanes = x.lanes := rfl
@[simp] theorem enterHandler_poolpw (x : Context) (r : Raised) : (enterHandler x r).poolpw = x.poolpw := rfl
@[simp] theorem enterHandler_localw (x : Context) (r : Raised) : (enterHandler x r).localw = x.localw := rfl
@[simp] theorem enterHandler_clustw (x : Context) (r : Raised) : (enterHandler x r).clustw = x.clustw := rfl
@[simp] theorem enterHandler_sharedw (x : Context) (r : Raised) : (enterHandler x r).sharedw = x.sharedw := rfl
@[simp] theorem enterHandler_widhdr (x : Context) (r : Raised) : (enterHandler x r).widhdr = x.widhdr := rfl
@[simp] theorem enterHandler_nodeid (x : Context) (r : Raised) : (enterHandler x r).nodeid = x.nodeid := rfl
@[simp] theorem enterHandler_tenant (x : Context) (r : Raised) : (enterHandler x r).tenant = x.tenant := rfl
@[simp] theorem enterHandler_cause (x : Context) (r : Raised) : (enterHandler x r).cause = causeWord r := rfl
@[simp] theorem enterHandler_epc (x : Context) (r : Raised) : (enterHandler x r).epc = x.pc.setWidth 64 := rfl
@[simp] theorem enterHandler_tfp (x : Context) (r : Raised) : (enterHandler x r).tfp = x.tfp := rfl
@[simp] theorem enterHandler_tvec (x : Context) (r : Raised) : (enterHandler x r).tvec = x.tvec := rfl
@[simp] theorem enterHandler_pmstat (x : Context) (r : Raised) : (enterHandler x r).pmstat = x.pmstat := rfl
@[simp] theorem enterHandler_pkbase (x : Context) (r : Raised) : (enterHandler x r).pkbase = x.pkbase := rfl
@[simp] theorem enterHandler_pats (x : Context) (r : Raised) : (enterHandler x r).pats = x.pats := rfl
@[simp] theorem enterHandler_cur (x : Context) (r : Raised) : (enterHandler x r).cur = none := rfl
@[simp] theorem enterHandler_ws (x : Context) (r : Raised) : (enterHandler x r).ws = none := rfl
@[simp] theorem enterHandler_stream (x : Context) (r : Raised) : (enterHandler x r).stream = [] := rfl
@[simp] theorem enterHandler_replay (x : Context) (r : Raised) : (enterHandler x r).replay = [] := rfl
@[simp] theorem enterHandler_wbs (x : Context) (r : Raised) : (enterHandler x r).wbs = x.wbs := rfl
@[simp] theorem enterHandler_stores (x : Context) (r : Raised) : (enterHandler x r).stores = x.stores := rfl
@[simp] theorem enterHandler_asyncs (x : Context) (r : Raised) : (enterHandler x r).asyncs = x.asyncs := rfl
@[simp] theorem enterHandler_raised (x : Context) (r : Raised) : (enterHandler x r).raised = none := rfl
@[simp] theorem enterHandler_fincs (x : Context) (r : Raised) : (enterHandler x r).fincs = x.fincs := rfl
@[simp] theorem enterHandler_pend (x : Context) (r : Raised) : (enterHandler x r).pend = x.pend := rfl
@[simp] theorem enterHandler_blockA (x : Context) (r : Raised) : (enterHandler x r).blockA = false := rfl
@[simp] theorem enterHandler_blockE (x : Context) (r : Raised) : (enterHandler x r).blockE = false := rfl
@[simp] theorem enterHandler_since (x : Context) (r : Raised) : (enterHandler x r).since = x.since := rfl
@[simp] theorem enterHandler_lateSigs (x : Context) (r : Raised) : (enterHandler x r).lateSigs = x.lateSigs := rfl
@[simp] theorem enterHandler_lateFl (x : Context) (r : Raised) : (enterHandler x r).lateFl = x.lateFl := rfl
@[simp] theorem enterHandler_wsOld (x : Context) (r : Raised) : (enterHandler x r).wsOld = x.ws := rfl
@[simp] theorem enterHandler_readyA (x : Context) (r : Raised) : (enterHandler x r).readyA = none := rfl
@[simp] theorem enterHandler_readyE (x : Context) (r : Raised) : (enterHandler x r).readyE = none := rfl
@[simp] theorem enterHandler_promA (x : Context) (r : Raised) : (enterHandler x r).promA = x.promA := rfl
@[simp] theorem enterHandler_promE (x : Context) (r : Raised) : (enterHandler x r).promE = x.promE := rfl
@[simp] theorem enterHandler_tokA (x : Context) (r : Raised) : (enterHandler x r).tokA = none := rfl
@[simp] theorem enterHandler_places (x : Context) (r : Raised) : (enterHandler x r).places = x.places := rfl
@[simp] theorem enterHandler_got (x : Context) (r : Raised) : (enterHandler x r).got = [] := rfl
@[simp] theorem enterHandler_early (x : Context) (r : Raised) : (enterHandler x r).early = x.early := rfl
@[simp] theorem enterHandler_tokE (x : Context) (r : Raised) : (enterHandler x r).tokE = none := rfl

end Sys2Proof.Machine
end

