-- ==== Sys2Proof/Machine/HostReads.lean ====
section
/-!
DEFINITION. What the host reads from the windows of the host port: the layouts of the registers that report the machine's state (R364,
R365, R426, R439, R471, R478, R481, R486, R488). A read changes nothing.
-/

namespace Sys2Proof.Machine

/-- A field placed at bit `lo`. -/
def fieldAt (v lo : Nat) : Word := BitVec.ofNat 64 (v * 2 ^ lo)

/-- The number of a queue state in QSTAT (R365). -/
def QState.code : QState → Nat
  | .disabled => 0
  | .active => 1
  | .error => 2
  | .draining => 3

/-- QSTAT (R365). -/
def qstat (v : Queue) : Word := fieldAt v.cause.toNat 4 ||| fieldAt (if v.late then 1 else 0) 3 ||| fieldAt v.state.code 0

/-- A register of a queue's control page (R364). -/
def queueRead (v : Queue) (o : Nat) : Word :=
  if o = 0x40 then v.qbase
  else if o = 0x48 then v.qcfg
  else if o = 0x50 then v.widx.setWidth 64
  else if o = 0x58 then v.ridx.setWidth 64
  else if o = 0x60 then qstat v
  else if o = 0x70 then v.deadline
  else 0

/-- The mailbox of a function: AUTHRSP (R426), and AUTHCMD as it was written. -/
def mailRead (a : Auth) (o : Nat) : Word :=
  if o < 0x40 then leWord 64 ((a.mail.drop o).take 8)
  else if o = 0x40 then fieldAt a.remaining 32 ||| fieldAt a.phase 16 ||| fieldAt a.status.toNat 8 ||| fieldAt (if a.busy then 1 else 0) 0
  else if o = 0x48 then fieldAt a.gen 20 ||| fieldAt a.slotNo 0
  else 0

/-- A word of a key domain's entry; a function that does not own the domain reads zero (R439). -/
def kdstat (s : State) (fn kd o : Nat) : Word :=
  let d := tabGet {} kd s.domains
  if fn != 0 && (d.state = 0 || d.owner != (getFn s fn).tenant) then 0
  else if o = 0 then fieldAt d.owner 16 ||| fieldAt d.version 8 ||| fieldAt d.state.toNat 0
  else if o < 8 + 8 * 16 then fieldAt (tabGet 0 ((o - 8) / 8) d.marks) 6
  else 0

/-- VFRST (R478). -/
def resetRead (f : Fn) (o : Nat) : Word :=
  if o = 0 then fieldAt f.killed 32 ||| fieldAt f.cancelled 16 ||| fieldAt f.reset 0
  else fieldAt f.completed 32 ||| fieldAt f.abandoned 0

/-- A hub control register (R486). -/
def hubRead (h : Hub) (o : Nat) : Word :=
  if o = 0x00 then h.femode.setWidth 64
  else if o = 0x08 then h.evrbase
  else if o = 0x10 then h.evrcfg
  else if o = 0x18 then h.evrwidx.setWidth 64
  else if o = 0x20 then h.evrridx.setWidth 64
  else if o = 0x28 then h.resval
  else if o = 0x30 then h.resseq
  else if o = 0x38 then fieldAt h.mpctl 0
  else if o = 0x40 then fieldAt h.rotshare 0
  else if 0x48 ≤ o && o < 0x68 then fieldAt (tabGet 50 ((o - 0x48) / 8) h.sndrec) 0
  else 0

/-- The entry of a queue in a planner window (R471). -/
def planEntry (v : QPlan) (o : Nat) : Word :=
  if o = 0 then fieldAt v.dirty 0
  else if o = 8 then match v.remaining with
    | some r => fieldAt r 0
    | none => BitVec.allOnes 64
  else if o = 16 then fieldAt v.cost 0
  else fieldAt v.decision 0 ||| fieldAt v.state 8

/-- A word of a planner window (R481). The bit busy reads zero, since a command is accepted in one step (log entry 241). -/
def planRead (s : State) (part o : Nat) : Word :=
  let p := getPlanner s part
  if o < 0x20000 then planEntry (tabGet {} (o / 32) p.plans) (o % 32)
  else if o < 0x20040 then leWord 64 ((p.cmd.drop (o - 0x20000)).take 8)
  else if o = 0x20040 then fieldAt p.status.toNat 0 ||| fieldAt (if p.vacant && partVacant s part then 1 else 0) 9
  else if o = 0x20048 then BitVec.ofInt 64 p.lastS
  else if o = 0x20050 then BitVec.ofInt 64 p.lastL
  else if o = 0x20058 then fieldAt p.lastA 0
  else if o = 0x20060 then fieldAt p.passAt 0
  else if o = 0x20068 then fieldAt p.vtick 0
  else if o = 0x20080 then fieldAt p.kill 32 ||| fieldAt p.grace 0
  else if o = 0x20088 then fieldAt p.ckbw 0
  else 0

/-- The debug window (R475, R476). -/
def debugRead (s : State) (o : Nat) : Word :=
  let bit (b : Bool) (i : Nat) : Word := fieldAt (if b then 1 else 0) i
  if o < 8 * coreCount then
    let k := getCore s (o / 8)
    bit k.halt 0 ||| bit k.arm 1 ||| bit k.one 2
  else if 0x800 ≤ o && o < 0x800 + 8 * clusterCount then
    let c := getCluster s ((o - 0x800) / 8)
    bit c.freeze 0 ||| bit c.ack 1
  else 0

/-- Eight entries of the granule map. -/
def granuleRead (s : State) (i : Nat) : Word :=
  leWord 64 ((List.range 8).map (fun j => BitVec.ofNat 8 (tabGet 0 (granuleKey s (i + j)) s.granules)))

/-- A word of BAR 2 of the physical function (R486). -/
def pfRead (s : State) (o : Nat) : Word :=
  if o < 0x1000 then mailRead (getAuth s 0) o
  else if 0x1010 ≤ o && o < 0x1010 + 16 * vfCount then resetRead (getFn s ((o - 0x1000) / 16)) (o % 16)
  else if 0x2000 ≤ o && o < 0x3000 then hubRead s.hub (o - 0x2000)
  else if 0x4000 ≤ o && o < 0x5000 then
    let f := getFn s ((o - 0x4000) / 8)
    f.rights.setWidth 64 ||| fieldAt (if f.hreq then 1 else 0) 32
  else if 0x5000 ≤ o && o < 0x7000 then
    ((getFn s ((o - 0x5000) / 128 + 1)).allow >>> (8 * ((o - 0x5000) % 128))).setWidth 64
  else if 0x7000 ≤ o && o < 0x7200 then (getFn s ((o - 0x7000) / 8 + 1)).offset
  else if 0x8000 ≤ o && o < 0x10000 then tabGet 0 ((o - 0x8000) / 8) s.hub.causes
  else if 0x10000 ≤ o && o < 0x14000 then
    leWord 64 ((((tabGet ({} : Partition) ((o - 0x10000) / 64) s.parts).bytes).drop (o % 64)).take 8)
  else if 0x14000 ≤ o && o < 0x1C000 then
    let q := queueOwner s ((o - 0x14000) / 8)
    fieldAt q.1 0 ||| fieldAt q.2 8
  else if 0x20000 ≤ o && o < 0x30000 then granuleRead s (o - 0x20000)
  else if 0x30000 ≤ o && o < 0x31000 then debugRead s (o - 0x30000)
  else if 0x100000 ≤ o && o < 0x200000 then kdstat s 0 ((o - 0x100000) / 256) (o % 256)
  else if 0x1000000 ≤ o && o < 0x5000000 then planRead s ((o - 0x1000000) / 0x40000) ((o - 0x1000000) % 0x40000)
  else if 0x6000000 ≤ o && o < 0x6000800 then fieldAt (tabGet 0 ((o - 0x6000000) / 8) s.hub.floors) 0
  else 0

/-- A word of BAR 2 of a virtual function: its mailbox and its own KDSTAT window (R486). -/
def vfRead (s : State) (fn o : Nat) : Word :=
  if o < 0x1000 then mailRead (getAuth s fn) o
  else if 0x100000 ≤ o && o < 0x200000 then kdstat s fn ((o - 0x100000) / 256) (o % 256)
  else 0

/-- The code of a boot state (R488). -/
def Boot.code : Boot → Nat
  | .off => 0
  | .rom => 1
  | .waitImg => 2
  | .check => 3
  | .config => 4
  | .ready => 5
  | .failed => 7

/-- BOOTST (R488). -/
def bootst (h : Hub) : Word := fieldAt h.boot.code 0 ||| fieldAt h.reason.toNat 8 ||| fieldAt (if h.unsync then 1 else 0) 16

/-- What a function reports of itself on the host port (R1). -/
structure PciId where
  device   : BitVec 16
  revision : BitVec 8
  deriving DecidableEq, Repr

/-- The device and revision identifiers of function `fn`: those of stepping B0 (R1). -/
def pciId (fn : Nat) : PciId := ⟨if fn = 0 then 0x4816 else 0x4817, 0x20⟩

/-- What a read of 4 aligned bytes at offset `off` of a function's configuration space returns: the identifiers, where PCI places them
(PRESUMED, log entry 197); the manual gives none of the rest, which reads zero here. -/
def configRead (fn off : Nat) : BitVec 32 :=
  if vfCount < fn then 0
  else if off = 0 then (pciId fn).device.setWidth 32 <<< 16
  else if off = 8 then (pciId fn).revision.setWidth 32
  else 0

/-- What a read of 8 aligned bytes at offset `off` of a BAR of a function returns; before READY only BAR 4 reads anything (R485). -/
def registerRead (s : State) (fn bar off : Nat) : Word :=
  if off % 8 != 0 || vfCount < fn then 0
  else if bar = 4 then if fn = 0 && off = 0 then bootst s.hub else 0
  else if s.hub.boot != .ready then 0
  else if bar = 0 then match moduleQueue s fn (off / 4096) with
    | some q => queueRead (getQueue s q) (off % 4096)
    | none => 0
  else if bar = 2 then if fn = 0 then pfRead s off else vfRead s fn off
  else 0

end Sys2Proof.Machine
end

