-- ==== Sys2Proof/Tests/Slice0.lean ====
section
/-!
SUPPORT. Tests. Words laid out by hand from the specification's encodings, and its worked words, decode to the instructions that they
stand for; ill-formed instructions and reserved words are refused. Then witnesses: for every statement with hypotheses, a concrete state
and operands that meet them all.
-/

namespace Sys2Proof.Tests

open Sys2Proof.Machine Sys2Proof.Claims

set_option maxRecDepth 8000

/-- No waits and no signals. -/
def r0 : Ring := ⟨false, false, false, false⟩

/-- Each list of words decodes to its instruction and to its own length, and the instruction encodes to it. -/
def wordsOk (l : List (List IWord × Instr)) : Bool :=
  l.all (fun p => match decodeList p.1 with
    | .ok r => r.1 == p.2 && r.2 == p.1.length && encode p.2 == p.1
    | .error _ => false)

/-- The words are refused with the cause beside them. -/
def wordsRefused (l : List (List IWord × Cause)) : Bool :=
  l.all (fun p => match decodeList p.1 with
    | .ok _ => false
    | .error c => c == p.2)

/-- Each first instruction is well-formed and the others are not. -/
def refuses (l : List (Instr × List Instr)) : Bool := l.all (fun p => p.1.wf && p.2.all (fun i => !i.wf))

/-! ### Words -/

/-- Integer words, laid out by hand from R67–R101 and the instructions' entries, fields set to distinct values. -/
def words_integer_1 : List (List IWord × Instr) := [
  ([0x200FF73E], .add { ring := ⟨false, false, true, false⟩, d := 31, a := 59, b := 39, ta := true, tb := true }),
  ([0x101CD07B], .adds { ring := ⟨false, false, false, true⟩, d := 57, a := 40, b := 15, ta := false, tb := true }),
  ([0x80356C72], .sub { ring := ⟨true, false, false, false⟩, d := 42, a := 54, b := 14, ta := false, tb := true }),
  ([0x4026113B], .subs { ring := ⟨false, true, false, false⟩, d := 12, a := 8, b := 39, ta := false, tb := true }),
  ([0x50566750], .mul { ring := ⟨false, true, false, true⟩, d := 44, a := 51, b := 42, ta := false, tb := false }),
  ([0x00720E30], .mulh { ring := r0, d := 36, a := 7, b := 6, ta := false, tb := false }),
  ([0x407489B7], .mulhu { ring := ⟨false, true, false, false⟩, d := 41, a := 4, b := 54, ta := true, tb := true }),
  ([0x4094727A], .div { ring := ⟨false, true, false, false⟩, d := 40, a := 57, b := 15, ta := false, tb := true }),
  ([0x4081DC4F], .divu { ring := ⟨false, true, false, false⟩, d := 3, a := 46, b := 9, ta := true, tb := true }),
  ([0x50B37246], .rem { ring := ⟨false, true, false, true⟩, d := 38, a := 57, b := 8, ta := true, tb := true })]

/-- Each of these words decodes to the instruction beside it, which encodes to the word. -/
theorem test_words_integer_1 : wordsOk words_integer_1 = true := by decide

/-- Integer words, laid out by hand from R67–R101 and the instructions' entries, fields set to distinct values. -/
def words_integer_2 : List (List IWord × Instr) := [
  ([0x20A8C8B1], .remu { ring := ⟨false, false, true, false⟩, d := 17, a := 36, b := 22, ta := false, tb := false }),
  ([0x40DA12EA], .and { ring := ⟨false, true, false, false⟩, d := 52, a := 9, b := 29, ta := false, tb := true }),
  ([0x00E389D8], .or { ring := r0, d := 7, a := 4, b := 59, ta := false, tb := false }),
  ([0x010344E6], .xor { ring := r0, d := 6, a := 34, b := 28, ta := true, tb := true }),
  ([0x0133D87E], .andn { ring := r0, d := 39, a := 44, b := 15, ta := true, tb := true }),
  ([0x014B321C], .shl { ring := r0, d := 22, a := 25, b := 3, ta := true, tb := false }),
  ([0x41696248], .shr { ring := ⟨false, true, false, false⟩, d := 18, a := 49, b := 9, ta := false, tb := false }),
  ([0x217B4473], .sra { ring := ⟨false, false, true, false⟩, d := 54, a := 34, b := 14, ta := false, tb := true }),
  ([0x1187E5B2], .rol { ring := ⟨false, false, false, true⟩, d := 15, a := 50, b := 54, ta := false, tb := true }),
  ([0x01AD94F4], .min { ring := r0, d := 27, a := 10, b := 30, ta := true, tb := false })]

/-- Each of these words decodes to the instruction beside it, which encodes to the word. -/
theorem test_words_integer_2 : wordsOk words_integer_2 = true := by decide

/-- Integer words, laid out by hand from R67–R101 and the instructions' entries, fields set to distinct values. -/
def words_integer_3 : List (List IWord × Instr) := [
  ([0x01AA77BD], .minu { ring := r0, d := 20, a := 59, b := 55, ta := true, tb := false }),
  ([0x01C73BD8], .max { ring := r0, d := 14, a := 29, b := 59, ta := false, tb := false }),
  ([0x51C840A3], .maxu { ring := ⟨false, true, false, true⟩, d := 16, a := 32, b := 20, ta := false, tb := true }),
  ([0x01EAB838], .slt { ring := r0, d := 21, a := 28, b := 7, ta := false, tb := false }),
  ([0x81F45893], .sltu { ring := ⟨true, false, false, false⟩, d := 40, a := 44, b := 18, ta := false, tb := true }),
  ([0x5215405C], .seq { ring := ⟨false, true, false, true⟩, d := 42, a := 32, b := 11, ta := true, tb := false }),
  ([0x020D9D6B], .sne { ring := r0, d := 27, a := 14, b := 45, ta := false, tb := true }),
  ([0x123BD490], .cmov { ring := ⟨false, false, false, true⟩, d := 55, a := 42, b := 18, ta := false, tb := false })]

/-- Each of these words decodes to the instruction beside it, which encodes to the word. -/
theorem test_words_integer_3 : wordsOk words_integer_3 = true := by decide

/-- Unary words, laid out by hand from R67–R101 and the instructions' entries, fields set to distinct values. -/
def words_unary_1 : List (List IWord × Instr) := [
  ([0x1255CC00], .clz { ring := ⟨false, false, false, true⟩, d := 43, a := 38, ta := false }),
  ([0x424DC408], .ctz { ring := ⟨false, true, false, false⟩, d := 27, a := 34, ta := false }),
  ([0x02431410], .popc { ring := r0, d := 6, a := 10, ta := false }),
  ([0x1251A618], .brev { ring := ⟨false, false, false, true⟩, d := 35, a := 19, ta := false }),
  ([0x42583824], .sextB { ring := ⟨false, true, false, false⟩, d := 48, a := 28, ta := true }),
  ([0x825BD22C], .sextH { ring := ⟨true, false, false, false⟩, d := 55, a := 41, ta := true }),
  ([0x02521C30], .sextW { ring := r0, d := 36, a := 14, ta := false }),
  ([0x8248C438], .zextB { ring := ⟨true, false, false, false⟩, d := 17, a := 34, ta := false }),
  ([0x02482240], .zextH { ring := r0, d := 16, a := 17, ta := false }),
  ([0x024A3C4C], .zextW { ring := r0, d := 20, a := 30, ta := true })]

/-- Each of these words decodes to the instruction beside it, which encodes to the word. -/
theorem test_words_unary_1 : wordsOk words_unary_1 = true := by decide

/-- Unary words, laid out by hand from R67–R101 and the instructions' entries, fields set to distinct values. -/
def words_unary_2 : List (List IWord × Instr) := [
  ([0x82430A50], .abs { ring := ⟨true, false, false, false⟩, d := 6, a := 5, ta := false }),
  ([0x024D4A58], .neg { ring := r0, d := 26, a := 37, ta := false })]

/-- Each of these words decodes to the instruction beside it, which encodes to the word. -/
theorem test_words_unary_2 : wordsOk words_unary_2 = true := by decide

/-- Immediate words, laid out by hand from R67–R101 and the instructions' entries, fields set to distinct values. -/
def words_immediate_1 : List (List IWord × Instr) := [
  ([0x826D17FC], .addi { ring := ⟨true, false, false, false⟩, d := 26, a := 11, ta := true, imm := 252 }),
  ([0x0296E498], .andi { ring := r0, d := 45, a := 50, ta := false, imm := 152 }),
  ([0x82A245B4], .ori { ring := ⟨true, false, false, false⟩, d := 4, a := 34, ta := true, imm := 180 }),
  ([0x02C2887C], .xori { ring := r0, d := 5, a := 4, ta := false, imm := 124 }),
  ([0x02F8AD0B], .shli { ring := r0, d := 49, a := 22, ta := true, sh := 11 }),
  ([0x0303C134], .shri { ring := r0, d := 7, a := 32, ta := true, sh := 52 }),
  ([0x83196677], .srai { ring := ⟨true, false, false, false⟩, d := 50, a := 51, ta := false, sh := 55 }),
  ([0x032C91E7], .slti { ring := r0, d := 25, a := 8, ta := true, imm := 231 }),
  ([0x535D73F2], .sltiu { ring := ⟨false, true, false, true⟩, d := 58, a := 57, ta := true, imm := 242 }),
  ([0x43627700, 0x000011D4], .bfx { ring := ⟨false, true, false, false⟩, d := 4, a := 59, ta := true, pos := 20, wm1 := 7, sx := true })]

/-- Each of these words decodes to the instruction beside it, which encodes to the word. -/
theorem test_words_immediate_1 : wordsOk words_immediate_1 = true := by decide

/-- Immediate words, laid out by hand from R67–R101 and the instructions' entries, fields set to distinct values. -/
def words_immediate_2 : List (List IWord × Instr) := [
  ([0x83940600, 0x000002E1], .bfi { ring := ⟨true, false, false, false⟩, d := 40, a := 3, ta := false, pos := 33, wm1 := 11, sx := false }),
  ([0x13BD8000, 0x06A8F1DE], .li { ring := ⟨false, false, false, true⟩, d := 59, imm := 111735262 }),
  ([0x43CC3900, 0x070C6151], .lis { ring := ⟨false, true, false, false⟩, d := 24, a := 28, ta := true, imm := 118251857 }),
  ([0x53FC4A00, 0x084C9560], .addl { ring := ⟨false, true, false, true⟩, d := 56, a := 37, ta := false, imm := 139236704 })]

/-- Each of these words decodes to the instruction beside it, which encodes to the word. -/
theorem test_words_immediate_2 : wordsOk words_immediate_2 = true := by decide

/-- Float words, laid out by hand from R67–R101 and the instructions' entries, fields set to distinct values. -/
def words_float_1 : List (List IWord × Instr) := [
  ([0x041188BA], .fadd { ring := r0, d := 35, a := 4, b := 23, ta := false, tb := true }),
  ([0x8408E057], .fsub { ring := ⟨true, false, false, false⟩, d := 17, a := 48, b := 10, ta := true, tb := true }),
  ([0x2421B6B8], .fmul { ring := ⟨false, false, true, false⟩, d := 3, a := 27, b := 23, ta := false, tb := false }),
  ([0x0446E8CE], .fma { ring := r0, d := 13, a := 52, b := 25, ta := true, tb := true }),
  ([0x146BBB7C], .fdiv { ring := ⟨false, false, false, true⟩, d := 23, a := 29, b := 47, ta := true, tb := false }),
  ([0x448F6FC0], .fmin { ring := ⟨false, true, false, false⟩, d := 30, a := 55, b := 56, ta := false, tb := false }),
  ([0x0488D2C1], .fmax { ring := r0, d := 17, a := 41, b := 24, ta := false, tb := false }),
  ([0x84B133D0], .flt { ring := ⟨true, false, false, false⟩, d := 34, a := 25, b := 58, ta := false, tb := false }),
  ([0x84BB9A57], .fle { ring := ⟨true, false, false, false⟩, d := 55, a := 13, b := 10, ta := true, tb := true }),
  ([0x14C872F6], .feq { ring := ⟨false, false, false, true⟩, d := 16, a := 57, b := 30, ta := true, tb := true })]

/-- Each of these words decodes to the instruction beside it, which encodes to the word. -/
theorem test_words_float_1 : wordsOk words_float_1 = true := by decide

/-- Float words, laid out by hand from R67–R101 and the instructions' entries, fields set to distinct values. -/
def words_float_2 : List (List IWord × Instr) := [
  ([0x84EBE204], .fsqrt { ring := ⟨true, false, false, false⟩, d := 23, a := 49, ta := true }),
  ([0x84E3F208], .fabs { ring := ⟨true, false, false, false⟩, d := 7, a := 57, ta := false }),
  ([0x14FD5210], .fneg { ring := ⟨false, false, false, true⟩, d := 58, a := 41, ta := false }),
  ([0x84F8281C], .fcvti { ring := ⟨true, false, false, false⟩, d := 48, a := 20, ta := true }),
  ([0x14F66C19], .fcvtiz { ring := ⟨false, false, false, true⟩, d := 44, a := 54, ta := false }),
  ([0x04E5BA24], .fcvtf { ring := r0, d := 11, a := 29, ta := true }),
  ([0x04E26A25], .fcvtfu { ring := r0, d := 4, a := 53, ta := true }),
  ([0x14FA1828], .fclass { ring := ⟨false, false, false, true⟩, d := 52, a := 12, ta := false })]

/-- Each of these words decodes to the instruction beside it, which encodes to the word. -/
theorem test_words_float_2 : wordsOk words_float_2 = true := by decide

/-- Predicate and flag words, laid out by hand from R67–R101 and the instructions' entries, fields set to distinct values. -/
def words_predicate_flag : List (List IWord × Instr) := [
  ([0x15012040], .pand { ring := ⟨false, false, false, true⟩, pd := 1, pa := 4, pb := 1 }),
  ([0x55253180], .por { ring := ⟨false, true, false, true⟩, pd := 5, pa := 6, pb := 6 }),
  ([0x05430980], .pxor { ring := r0, pd := 3, pa := 1, pb := 6 }),
  ([0x45623800], .pnot { ring := ⟨false, true, false, false⟩, pd := 2, pa := 7 }),
  ([0x05954000], .pfrom { ring := r0, pd := 5, n := 1, tq := false, j := 2, z := false }),
  ([0x25AA4000], .pto { ring := ⟨false, false, true, false⟩, ps := 2, n := 2, j := 2 }),
  ([0x05D79C00], .fset { ring := r0, f := 47, tf := false, v := 28, tv := false }),
  ([0x05EEE500], .frd { ring := r0, d := 29, f := 50, tf := true })]

/-- Each of these words decodes to the instruction beside it, which encodes to the word. -/
theorem test_words_predicate_flag : wordsOk words_predicate_flag = true := by decide

/-- Control words, laid out by hand from R67–R101 and the instructions' entries, fields set to distinct values. -/
def words_control_1 : List (List IWord × Instr) := [
  ([0x46001CD6], .br { ring := ⟨false, true, false, false⟩, off := 7382 }),
  ([0x2627981E], .bz { ring := ⟨false, false, true, false⟩, a := 15, ta := false, off := 6174 }),
  ([0x8653DDAE], .bnz { ring := ⟨true, false, false, false⟩, a := 39, ta := true, off := 7598 }),
  ([0x16760656], .bltz { ring := ⟨false, false, false, true⟩, a := 44, ta := false, off := 1622 }),
  ([0x069D0DA7], .bgez { ring := r0, a := 58, ta := false, off := 3495 }),
  ([0x26AD9004], .jl { ring := ⟨false, false, true, false⟩, d := 27, a := 8, ta := true }),
  ([0x86DA8000, 0x0EEA93B7], .brl { ring := ⟨true, false, false, false⟩, d := 53, imm := 250254263 }),
  ([0x26E982CA], .loop { ring := ⟨false, false, true, false⟩, a := 19, ta := false, endo := 714 }),
  ([0x4702A84D], .loopi { ring := ⟨false, true, false, false⟩, count := 85, endo := 77 }),
  ([0x272003D5], .trap { ring := ⟨false, false, true, false⟩, code := 981 })]

/-- Each of these words decodes to the instruction beside it, which encodes to the word. -/
theorem test_words_control_1 : wordsOk words_control_1 = true := by decide

/-- Control words, laid out by hand from R67–R101 and the instructions' entries, fields set to distinct values. -/
def words_control_2 : List (List IWord × Instr) := [
  ([0x57400ABC], .svc { ring := ⟨false, true, false, true⟩, svc := 2748 }),
  ([0x07600000], .eret),
  ([0x07800155], .brk { tag := 341 })]

/-- Each of these words decodes to the instruction beside it, which encodes to the word. -/
theorem test_words_control_2 : wordsOk words_control_2 = true := by decide

/-- Memory words, laid out by hand from R67–R101 and the instructions' entries, fields set to distinct values. -/
def words_memory : List (List IWord × Instr) := [
  ([0x0811085B], .ld { ring := r0, t := 34, b := 4, tt := false, tb := false, sz := 2, m := 27 }),
  ([0x28274C45], .ldu { ring := ⟨false, false, true, false⟩, t := 14, b := 38, tt := false, tb := false, sz := 2, m := 5 }),
  ([0x0858C9F7], .st { ring := r0, t := 49, b := 36, tt := true, tb := true, sz := 3, m := 23 }),
  ([0x1879A2F8], .lds { ring := ⟨false, false, false, true⟩, t := 51, b := 17, tt := false, tb := true, sz := 3, sc := 3 }),
  ([0x5886CBF0], .sts { ring := ⟨false, true, false, true⟩, t := 13, b := 37, tt := true, tb := true, sz := 3, sc := 2 }),
  ([0x28BD54B8], .lda { ring := ⟨false, false, true, false⟩, t := 58, b := 42, tt := false, tb := true, sz := 1, sc := 3 }),
  ([0x08CA5158], .stl { ring := r0, t := 20, b := 40, tt := true, tb := false, sz := 2, sc := 3 }),
  ([0x0944A266], .ldm { ring := r0, t := 9, b := 17, tt := false, tb := false, m := 6 }),
  ([0x197490ED], .stm { ring := ⟨false, false, false, true⟩, t := 41, b := 8, tt := false, tb := true, m := 13 })]

/-- Each of these words decodes to the instruction beside it, which encodes to the word. -/
theorem test_words_memory : wordsOk words_memory = true := by decide

/-- Atomic words, laid out by hand from R67–R101 and the instructions' entries, fields set to distinct values. -/
def words_atomic_1 : List (List IWord × Instr) := [
  ([0x88E68F80, 0x00A01800], .aadd { ring := ⟨true, false, false, false⟩, t := 13, b := 7, tt := true, tb := true, sc := 2, ord := 2, c := 0, tc := false, dbl := true, nr := false }),
  ([0x18EF7180, 0x01501800], .aand { ring := ⟨false, false, false, true⟩, t := 30, b := 56, tt := true, tb := true, sc := 1, ord := 1, c := 0, tc := false, dbl := true, nr := false }),
  ([0x08FA0800, 0x02501C00], .aor { ring := r0, t := 52, b := 4, tt := false, tb := false, sc := 1, ord := 1, c := 0, tc := false, dbl := true, nr := true }),
  ([0x08F54480, 0x03F01400], .axor { ring := r0, t := 42, b := 34, tt := false, tb := true, sc := 3, ord := 3, c := 0, tc := false, dbl := false, nr := true }),
  ([0x08EDD900, 0x04D01000], .amin { ring := r0, t := 27, b := 44, tt := true, tb := false, sc := 3, ord := 1, c := 0, tc := false, dbl := false, nr := false }),
  ([0x08F95700, 0x05B01000], .amax { ring := r0, t := 50, b := 43, tt := true, tb := false, sc := 2, ord := 3, c := 0, tc := false, dbl := false, nr := false }),
  ([0x08E5A600, 0x06A01800], .aminu { ring := r0, t := 11, b := 19, tt := false, tb := false, sc := 2, ord := 2, c := 0, tc := false, dbl := true, nr := false }),
  ([0x18EE5800, 0x07701800], .amaxu { ring := ⟨false, false, false, true⟩, t := 28, b := 44, tt := false, tb := false, sc := 1, ord := 3, c := 0, tc := false, dbl := true, nr := false }),
  ([0x08F1D900, 0x08601400], .aswp { ring := r0, t := 35, b := 44, tt := true, tb := false, sc := 1, ord := 2, c := 0, tc := false, dbl := false, nr := true }),
  ([0x18E79C00, 0x0955D000], .acas { ring := ⟨false, false, false, true⟩, t := 15, b := 14, tt := false, tb := false, sc := 1, ord := 1, c := 23, tc := false, dbl := false, nr := false })]

/-- Each of these words decodes to the instruction beside it, which encodes to the word. -/
theorem test_words_atomic_1 : wordsOk words_atomic_1 = true := by decide

/-- Atomic words, laid out by hand from R67–R101 and the instructions' entries, fields set to distinct values. -/
def words_atomic_2 : List (List IWord × Instr) := [
  ([0x28F00E80, 0x0AA01000], .afadd { ring := ⟨false, false, true, false⟩, t := 32, b := 7, tt := false, tb := true, sc := 2, ord := 2, c := 0, tc := false, dbl := false, nr := false })]

/-- Each of these words decodes to the instruction beside it, which encodes to the word. -/
theorem test_words_atomic_2 : wordsOk words_atomic_2 = true := by decide

/-- Wait and fence words, laid out by hand from R67–R101 and the instructions' entries, fields set to distinct values. -/
def words_wait_fence : List (List IWord × Instr) := [
  ([0x2903C240, 0x0B55AC00], .waita { ring := ⟨false, false, true, false⟩, t := 7, b := 33, tt := false, tb := false, dbl := false, cond := 5, sc := 2, acq := true, o := 21, te := true, sus := false, d := 44 }),
  ([0x09200008], .fenceFull { ring := r0, sc := 1 }),
  ([0x59200019], .fenceAcq { ring := ⟨false, true, false, true⟩, sc := 3 }),
  ([0x8920000A], .fenceRel { ring := ⟨true, false, false, false⟩, sc := 1 }),
  ([0x09200003], .fenceShoal { ring := r0 }),
  ([0x59200004], .fenceIo { ring := ⟨false, true, false, true⟩ }),
  ([0x299C615C], .cvta { ring := ⟨false, false, true, false⟩, d := 56, a := 48, b := 43, ta := true, tb := false }),
  ([0x09B431C6], .aspc { ring := r0, d := 40, a := 24, b := 56, ta := true, tb := true }),
  ([0x09D93880], .finc { ring := r0, f := 50, tf := false, v := 56, tv := true }),
  ([0x49EC75E0], .fwait { ring := ⟨false, true, false, false⟩, f := 24, tf := true, v := 53, tv := true, cond := 6, sus := false })]

/-- Each of these words decodes to the instruction beside it, which encodes to the word. -/
theorem test_words_wait_fence : wordsOk words_wait_fence = true := by decide

/-- Vector words, laid out by hand from R67–R101 and the instructions' entries, fields set to distinct values. -/
def words_vector_1 : List (List IWord × Instr) := [
  ([0x4A07C996], .vadd { ring := ⟨false, true, false, false⟩, vd := 7, va := 25, vb := 6, ta := false, tb := true, p := 3 }),
  ([0x1A040B87], .vsub { ring := ⟨false, false, false, true⟩, vd := 4, va := 1, vb := 14, ta := false, tb := false, p := 3 }),
  ([0x0A2A61EA], .vmul { ring := r0, vd := 10, va := 12, vb := 7, ta := true, tb := false, p := 5 }),
  ([0x4A4D944E], .vfma { ring := ⟨false, true, false, false⟩, vd := 13, va := 18, vb := 17, ta := false, tb := false, p := 7 }),
  ([0x4A530947], .vfnma { ring := ⟨false, true, false, false⟩, vd := 19, va := 1, vb := 5, ta := false, tb := false, p := 3 }),
  ([0x0A6D9092], .vmin { ring := r0, vd := 13, va := 18, vb := 2, ta := false, tb := true, p := 1 }),
  ([0x2A6952FB], .vmax { ring := ⟨false, false, true, false⟩, vd := 9, va := 10, vb := 11, ta := true, tb := true, p := 5 }),
  ([0x2A9325AB], .vcmp { ring := ⟨false, false, true, false⟩, c := 5, pd := 3, va := 4, vb := 22, ta := true, tb := false, p := 5 }),
  ([0x4AB6D0A8], .vsel { ring := ⟨false, true, false, false⟩, vd := 22, va := 26, vb := 2, ta := true, tb := false, p := 4 }),
  ([0x2AC6E82A], .vbcast { ring := ⟨false, false, true, false⟩, vd := 6, s := 58, ts := true, p := 5 })]

/-- Each of these words decodes to the instruction beside it, which encodes to the word. -/
theorem test_words_vector_1 : wordsOk words_vector_1 = true := by decide

/-- Vector words, laid out by hand from R67–R101 and the instructions' entries, fields set to distinct values. -/
def words_vector_2 : List (List IWord × Instr) := [
  ([0x4AF41028], .vmov { ring := ⟨false, true, false, false⟩, vd := 20, va := 2, ta := true, p := 4 }),
  ([0x2B1D975E], .vld { ring := ⟨false, false, true, false⟩, q := 29, b := 37, tb := true, dc := true, off := 94 }),
  ([0x1B3E8AAA], .vst { ring := ⟨false, false, false, true⟩, q := 30, b := 34, tb := true, dc := false, off := 170 }),
  ([0x5B5C5402], .vldg { ring := ⟨false, true, false, true⟩, q := 28, b := 21, tb := false, sz := 2 }),
  ([0x0B7FA401], .vsts { ring := r0, q := 31, b := 41, tb := false, sz := 1 }),
  ([0x8B8ED0A2], .vred { ring := ⟨true, false, false, false⟩, vd := 14, va := 26, op := 2, ta := true, p := 1 }),
  ([0x2BA9D000], .vsett { ring := ⟨false, false, true, false⟩, type := 9, rnd := 3, ovf := 1 }),
  ([0x4BD858DC], .vperm { ring := ⟨false, true, false, false⟩, vd := 24, va := 11, vb := 3, ta := false, tb := true, p := 6 })]

/-- Each of these words decodes to the instruction beside it, which encodes to the word. -/
theorem test_words_vector_2 : wordsOk words_vector_2 = true := by decide

/-- Function words, laid out by hand from R67–R101 and the instructions' entries, fields set to distinct values. -/
def words_function_1 : List (List IWord × Instr) := [
  ([0x2BE9D20E, 0x00001100], .vand { ring := ⟨false, false, true, false⟩, vd := 9, va := 26, vb := 8, ta := false, tb := false, p := 7, x := false, rnd := 0, ovf := 0, dt := 1, st := 1, imm := 0 }),
  ([0x4BEE8106, 0x00102200], .vor { ring := ⟨false, true, false, false⟩, vd := 14, va := 16, vb := 4, ta := false, tb := false, p := 3, x := false, rnd := 0, ovf := 0, dt := 2, st := 2, imm := 0 }),
  ([0x2BF44DFE, 0x00201100], .vxor { ring := ⟨false, false, true, false⟩, vd := 20, va := 9, vb := 23, ta := true, tb := true, p := 7, x := false, rnd := 0, ovf := 0, dt := 1, st := 1, imm := 0 }),
  ([0x2BEAD826, 0x00301100], .vnot { ring := ⟨false, false, true, false⟩, vd := 10, va := 27, vb := 0, ta := true, tb := false, p := 3, x := false, rnd := 0, ovf := 0, dt := 1, st := 1, imm := 0 }),
  ([0x0BF53E02, 0x00401100], .vshl { ring := r0, vd := 21, va := 7, vb := 24, ta := false, tb := false, p := 1, x := false, rnd := 0, ovf := 0, dt := 1, st := 1, imm := 0 }),
  ([0x8BF2480B, 0x0050EE0D], .vshr { ring := ⟨true, false, false, false⟩, vd := 18, va := 9, vb := 0, ta := false, tb := false, p := 5, x := true, rnd := 0, ovf := 0, dt := 14, st := 14, imm := 13 }),
  ([0x4BEB8E8E, 0x00601100], .vsra { ring := ⟨false, true, false, false⟩, vd := 11, va := 17, vb := 26, ta := false, tb := false, p := 7, x := false, rnd := 0, ovf := 0, dt := 1, st := 1, imm := 0 }),
  ([0x5BEEC826, 0x00703300], .vabs { ring := ⟨false, true, false, true⟩, vd := 14, va := 25, vb := 0, ta := true, tb := false, p := 3, x := false, rnd := 0, ovf := 0, dt := 3, st := 3, imm := 0 }),
  ([0x4BE67828, 0x00803300], .vneg { ring := ⟨false, true, false, false⟩, vd := 6, va := 15, vb := 0, ta := true, tb := false, p := 4, x := false, rnd := 0, ovf := 0, dt := 3, st := 3, imm := 0 }),
  ([0x4BFBB3E2, 0x01072200], .vdiv { ring := ⟨false, true, false, false⟩, vd := 27, va := 22, vb := 15, ta := true, tb := false, p := 1, x := false, rnd := 1, ovf := 3, dt := 2, st := 2, imm := 0 })]

/-- Each of these words decodes to the instruction beside it, which encodes to the word. -/
theorem test_words_function_1 : wordsOk words_function_1 = true := by decide

/-- Function words, laid out by hand from R67–R101 and the instructions' entries, fields set to distinct values. -/
def words_function_2 : List (List IWord × Instr) := [
  ([0x8BF8D024, 0x011B1100], .vsqrt { ring := ⟨true, false, false, false⟩, vd := 24, va := 26, vb := 0, ta := true, tb := false, p := 2, x := false, rnd := 2, ovf := 3, dt := 1, st := 1, imm := 0 }),
  ([0x2BF7782A, 0x012A3300], .vrcp { ring := ⟨false, false, true, false⟩, vd := 23, va := 15, vb := 0, ta := true, tb := false, p := 5, x := false, rnd := 2, ovf := 2, dt := 3, st := 3, imm := 0 }),
  ([0x8BE81826, 0x013E3300], .vrsqrt { ring := ⟨true, false, false, false⟩, vd := 8, va := 3, vb := 0, ta := true, tb := false, p := 3, x := false, rnd := 3, ovf := 2, dt := 3, st := 3, imm := 0 }),
  ([0x0BFA6804, 0x014A3300], .vexp2 { ring := r0, vd := 26, va := 13, vb := 0, ta := false, tb := false, p := 2, x := false, rnd := 2, ovf := 2, dt := 3, st := 3, imm := 0 }),
  ([0x0BF2302C, 0x01573300], .vlog2 { ring := r0, vd := 18, va := 6, vb := 0, ta := true, tb := false, p := 6, x := false, rnd := 1, ovf := 3, dt := 3, st := 3, imm := 0 }),
  ([0x4BEB1802, 0x016F3300], .vsinpi { ring := ⟨false, true, false, false⟩, vd := 11, va := 3, vb := 0, ta := false, tb := false, p := 1, x := false, rnd := 3, ovf := 3, dt := 3, st := 3, imm := 0 }),
  ([0x1BE8C02E, 0x017A2200], .vcospi { ring := ⟨false, false, false, true⟩, vd := 8, va := 24, vb := 0, ta := true, tb := false, p := 7, x := false, rnd := 2, ovf := 2, dt := 2, st := 2, imm := 0 }),
  ([0x2BE58808, 0x01862200], .vtanh { ring := ⟨false, false, true, false⟩, vd := 5, va := 17, vb := 0, ta := false, tb := false, p := 4, x := false, rnd := 1, ovf := 2, dt := 2, st := 2, imm := 0 }),
  ([0x0BF50820, 0x020A5180], .vcvt { ring := r0, vd := 21, va := 1, vb := 0, ta := true, tb := false, p := 0, x := false, rnd := 2, ovf := 2, dt := 5, st := 1, imm := 128 }),
  ([0x4BE96AC0, 0x02195262], .vquant { ring := ⟨false, true, false, false⟩, vd := 9, va := 13, vb := 11, ta := false, tb := false, p := 0, x := false, rnd := 2, ovf := 1, dt := 5, st := 2, imm := 98 })]

/-- Each of these words decodes to the instruction beside it, which encodes to the word. -/
theorem test_words_function_2 : wordsOk words_function_2 = true := by decide

/-- Function words, laid out by hand from R67–R101 and the instructions' entries, fields set to distinct values. -/
def words_function_3 : List (List IWord × Instr) := [
  ([0x8BEAC920, 0x02262741], .vdeq { ring := ⟨true, false, false, false⟩, vd := 10, va := 25, vb := 4, ta := true, tb := false, p := 0, x := false, rnd := 1, ovf := 2, dt := 2, st := 7, imm := 65 }),
  ([0x4BE94020, 0x02306681], .vpack { ring := ⟨false, true, false, false⟩, vd := 9, va := 8, vb := 0, ta := true, tb := false, p := 0, x := false, rnd := 0, ovf := 0, dt := 6, st := 6, imm := 129 }),
  ([0x1BE65000, 0x0240CC80], .vunpk { ring := ⟨false, false, false, true⟩, vd := 6, va := 10, vb := 0, ta := false, tb := false, p := 0, x := false, rnd := 0, ovf := 0, dt := 12, st := 12, imm := 128 }),
  ([0x5BF2D0E0, 0x0300224D], .vslide { ring := ⟨false, true, false, true⟩, vd := 18, va := 26, vb := 3, ta := true, tb := false, p := 0, x := false, rnd := 0, ovf := 0, dt := 2, st := 2, imm := 77 }),
  ([0x2BE2D000, 0x0310EE64], .vextr { ring := ⟨false, false, true, false⟩, vd := 2, va := 26, vb := 0, ta := false, tb := false, p := 0, x := false, rnd := 0, ovf := 0, dt := 14, st := 14, imm := 100 }),
  ([0x8BEDB000, 0x03201132], .vins { ring := ⟨true, false, false, false⟩, vd := 13, s := 44, ts := false, dt := 1, st := 1, k := 50 }),
  ([0x5BFA0004, 0x03301100], .viota { ring := ⟨false, true, false, true⟩, vd := 26, va := 0, vb := 0, ta := false, tb := false, p := 2, x := false, rnd := 0, ovf := 0, dt := 1, st := 1, imm := 0 }),
  ([0x8BE51828, 0x03473300], .vscan { ring := ⟨true, false, false, false⟩, vd := 5, va := 3, vb := 0, ta := true, tb := false, p := 4, x := false, rnd := 1, ovf := 3, dt := 3, st := 3, imm := 0 }),
  ([0x4BE1D82C, 0x03503300], .vclass { ring := ⟨false, true, false, false⟩, vd := 1, va := 27, vb := 0, ta := true, tb := false, p := 6, x := false, rnd := 0, ovf := 0, dt := 3, st := 3, imm := 0 })]

/-- Each of these words decodes to the instruction beside it, which encodes to the word. -/
theorem test_words_function_3 : wordsOk words_function_3 = true := by decide

/-- Matrix words, laid out by hand from R67–R101 and the instructions' entries, fields set to distinct values. -/
def words_matrix : List (List IWord × Instr) := [
  ([0x0C0717C0], .mlease { ring := r0, k := 3, pri := 2, b := 23, tb := true, sus := true }),
  ([0x4C330000], .mrel { ring := ⟨false, true, false, false⟩, k := 9, pri := 2 }),
  ([0x4C579830, 0x01CBF8C0, 0x0D974480, 0x0B7B6000], .mma { ring := ⟨false, true, false, false⟩, k := 11, pri := 3, dt := false, ha := 12, hb := 3, z := false, acc := 28, ga := 47, ta := true, gb := 49, tb := true, gs := 54, ts := false, gsa := 46, tsa := true, gsb := 4, tsb := true, bufa := 183, bufb := 182 }),
  ([0x0C691FA0, 0x0DCED600, 0x05B45B80, 0x08FAB000], .mmaq { ring := r0, k := 4, pri := 2, dt := false, ha := 15, hb := 26, z := false, acc := 220, ga := 59, ta := false, gb := 44, tb := false, gs := 22, ts := true, gsa := 40, tsa := true, gsb := 27, tsb := true, bufa := 143, bufb := 171 }),
  ([0x0C8A9B90, 0x0555F540, 0x0D714800, 0x025A0000], .mmv { ring := r0, k := 5, pri := 1, dt := false, ha := 13, hb := 25, z := false, acc := 85, ga := 23, ta := true, gb := 42, tb := true, gs := 53, ts := true, gsa := 34, tsa := true, gsb := 8, tsb := false, bufa := 37, bufb := 160 }),
  ([0x4CA78BCF], .mzero { ring := ⟨false, true, false, false⟩, k := 3, pri := 3, dt := false, acc := 47, cnt := 15 }),
  ([0x5CC30850, 0x0FD2EF80, 0x05800000], .mdrain { ring := ⟨false, true, false, true⟩, k := 1, pri := 2, dt := false, h := 4, z := false, rnd := 1, ovf := 1, acc := 253, gt := 11, tt := true, gs := 31, ts := false, buf := 88 }),
  ([0x4CEFAA00, 0x0638AF00, 0x0BB00000], .mldacc { ring := ⟨false, true, false, false⟩, k := 7, pri := 3, dt := false, h := 21, z := false, rnd := 0, ovf := 0, acc := 99, gt := 34, tt := true, gs := 30, ts := false, buf := 187 })]

/-- Each of these words decodes to the instruction beside it, which encodes to the word. -/
theorem test_words_matrix : wordsOk words_matrix = true := by decide

/-- Copy words, laid out by hand from R67–R101 and the instructions' entries, fields set to distinct values. -/
def words_copy : List (List IWord × Instr) := [
  ([0x0D15F5B8, 0x0BC9D34F, 0x079B37C0], .cpy { ring := r0, k := 10, pri := 3, dt := true, hd := 26, hs := 27, dc := true, gd := 47, td := false, gs := 19, ts := true, yd := 2, ys := 3, buf := 79, dfmt := 7, rnd := 2, ovf := 1, pat := true, esz := 1, gn := 38, tn := true, che := true, ch := 7 }),
  ([0x8D3593A8, 0x0A0DAE33, 0x05F62280, 0x054DDA00], .cpyg { c := { ring := ⟨true, false, false, false⟩, k := 10, pri := 3, dt := false, hd := 9, hs := 26, dc := true, gd := 40, td := false, gs := 27, ts := false, yd := 5, ys := 6, buf := 51, dfmt := 5, rnd := 3, ovf := 3, pat := false, esz := 3, gn := 4, tn := false, che := true, ch := 2 }, hi := 10, gi := 38, ti := true, gc := 54, tc := true }),
  ([0x2D455E40, 0x0CCA2B2C, 0x0003DB80, 0x06AD4000], .cpys { c := { ring := ⟨false, false, true, false⟩, k := 2, pri := 2, dt := true, hd := 15, hs := 4, dc := false, gd := 51, td := false, gs := 20, ts := false, yd := 5, ys := 3, buf := 44, dfmt := 0, rnd := 0, ovf := 0, pat := false, esz := 1, gn := 59, tn := false, che := true, ch := 6 }, hi := 13, gi := 22, ti := true, gc := 16, tc := false }),
  ([0x0D72C4E0, 0x0D8BEDA4, 0x02551000, 0x04000000], .cpyr { c := { ring := r0, k := 9, pri := 1, dt := true, hd := 2, hs := 14, dc := false, gd := 54, td := false, gs := 23, ts := true, yd := 5, ys := 5, buf := 164, dfmt := 2, rnd := 1, ovf := 1, pat := false, esz := 2, gn := 34, tn := false, che := false, ch := 0 }, op := 1 }),
  ([0x5D951728, 0x0515A700, 0x0AC00000], .cfill { ring := ⟨false, true, false, true⟩, k := 10, pri := 2, dt := false, hd := 11, gv := 37, tv := false, gd := 20, td := false, yd := 5, gn := 26, tn := false, che := true, ch := 6, buf := 172 }),
  ([0x4DA75180, 0x07BAC000], .chbind { ring := ⟨false, true, false, false⟩, k := 3, pri := 2, dt := true, se := false, c := 4, h := 12, go := 30, te := true, gl := 53, tl := true }),
  ([0x2DDF6670], .chrd { ring := ⟨false, false, true, false⟩, k := 15, pri := 2, dt := true, se := true, c := 1, gp := 39, tp := false }),
  ([0x8DCDE401], .chunb { ring := ⟨true, false, false, false⟩, k := 6, pri := 3, dt := true, se := true, c := 1 }),
  ([0x4DFED000, 0x06000000], .pkset { ring := ⟨false, true, false, false⟩, k := 15, pri := 1, dt := true, n := 4, cnt := 6 })]

/-- Each of these words decodes to the instruction beside it, which encodes to the word. -/
theorem test_words_copy : wordsOk words_copy = true := by decide

/-- Fabric words, laid out by hand from R67–R101 and the instructions' entries, fields set to distinct values. -/
def words_fabric_1 : List (List IWord × Instr) := [
  ([0x0E1973B0, 0x05893C3F, 0x09E34000, 0x0B1F0000], .xst { ring := r0, k := 12, pri := 2, dt := true, hd := 25, hs := 27, gd := 22, td := false, gs := 18, ts := false, yd := 7, ys := 4, buf := 63, gf := 39, tf := true, gn := 6, tn := true, grp := 2847 }),
  ([0x1E32ECD0, 0x04DA7D6C, 0x0A9C0000, 0x00000000], .xld { ring := ⟨false, false, false, true⟩, k := 9, pri := 1, dt := true, hd := 22, hs := 13, gd := 19, td := false, gs := 52, ts := true, yd := 7, ys := 5, buf := 108, gn := 42, tn := false, che := true, ch := 6 }),
  ([0x0E4F873E, 0x02E25580, 0x01A00000], .xamo { ring := r0, k := 7, pri := 3, dt := false, h := 3, op := 9, ord := 3, sz := 3, go := 11, te := true, gv := 4, tv := true, gc := 21, tc := true, gp := 6, tp := true }),
  ([0x0E657718, 0x03390B08, 0x0748FA00, 0x095C8000], .car { ring := r0, k := 2, pri := 2, dt := true, hd := 27, hs := 17, exact := true, gd := 12, td := true, gs := 50, ts := false, yd := 1, ys := 3, buf := 8, comm := 1864, efmt := 15, rnd := 2, ovf := 2, op := 0, gn := 37, tn := false, ent := 57, groot := 0, troot := false }),
  ([0x8E690EC1, 0x08C82E3D, 0x03110000, 0x066B8000], .cag { ring := ⟨true, false, false, false⟩, k := 4, pri := 2, dt := false, hd := 7, hs := 12, exact := false, gd := 35, td := false, gs := 16, ts := false, yd := 5, ys := 6, buf := 61, comm := 785, efmt := 0, rnd := 0, ovf := 0, op := 0, gn := 25, tn := true, ent := 23, groot := 0, troot := false }),
  ([0x8E794672, 0x06199AB9, 0x03C59E80, 0x07560000], .crs { ring := ⟨true, false, false, false⟩, k := 12, pri := 2, dt := true, hd := 3, hs := 7, exact := false, gd := 24, td := false, gs := 51, ts := false, yd := 3, ys := 2, buf := 185, comm := 965, efmt := 9, rnd := 3, ovf := 2, op := 2, gn := 29, tn := false, ent := 44, groot := 0, troot := false }),
  ([0x0E7E9253, 0x0890A902, 0x09990000, 0x08078000], .ca2a { ring := r0, k := 15, pri := 1, dt := false, hd := 9, hs := 5, exact := false, gd := 34, td := false, gs := 33, ts := false, yd := 5, ys := 1, buf := 2, comm := 2457, efmt := 0, rnd := 0, ovf := 0, op := 0, gn := 32, tn := false, ent := 15, groot := 0, troot := false }),
  ([0x2E670DB4, 0x017B4C10, 0x02E10000, 0x067D0F00], .cbc { ring := ⟨false, false, true, false⟩, k := 3, pri := 2, dt := false, hd := 6, hs := 27, exact := false, gd := 5, td := true, gs := 54, ts := true, yd := 1, ys := 4, buf := 16, comm := 737, efmt := 0, rnd := 0, ovf := 0, op := 0, gn := 25, tn := true, ent := 58, groot := 7, troot := true }),
  ([0x0E9DA604, 0x0D000000], .cbar { ring := r0, k := 14, pri := 3, dt := false, comm := 2433, gn := 52, tn := false }),
  ([0x0EB52CF8, 0x0DBC187E, 0x09D5D400, 0x00000000], .nsend { ring := r0, k := 10, pri := 2, dt := false, he := 22, hs := 15, mode := 2, gp := 54, tp := true, gs := 56, ts := false, ys := 3, buf := 126, gt := 39, tt := false, gn := 43, tn := true, ent := 20 })]

/-- Each of these words decodes to the instruction beside it, which encodes to the word. -/
theorem test_words_fabric_1 : wordsOk words_fabric_1 = true := by decide

/-- Fabric words, laid out by hand from R67–R101 and the instructions' entries, fields set to distinct values. -/
def words_fabric_2 : List (List IWord × Instr) := [
  ([0x5EC9A6F0, 0x06562880, 0x0EB34000, 0x0DA00000], .nrecv { ring := ⟨false, true, false, true⟩, k := 4, pri := 3, dt := false, he := 19, hd := 15, mode := 0, gp := 25, tp := false, gd := 44, td := false, yd := 5, buf := 128, gt := 58, tt := true, gn := 38, tn := true, gm := 54, tm := true }),
  ([0x2EFA8874, 0x0B560850, 0x081A6FBE, 0x00000000], .nwrite { ring := ⟨false, false, true, false⟩, k := 13, pri := 1, dt := false, he := 4, hl := 7, mode := 1, gp := 45, tp := false, gl := 44, tl := false, yl := 1, buf := 80, gr := 32, tr := false, gn := 52, tn := true, ent := 47, region := 190 }),
  ([0x8EFB4769, 0x03AA9080, 0x0CE3E278, 0x00000000], .nread { ring := ⟨true, false, false, false⟩, k := 13, pri := 2, dt := true, he := 3, hl := 22, mode := 2, gp := 14, tp := true, gl := 21, tl := false, yl := 2, buf := 128, gr := 51, tr := true, gn := 7, tn := true, ent := 34, region := 120 })]

/-- Each of these words decodes to the instruction beside it, which encodes to the word. -/
theorem test_words_fabric_2 : wordsOk words_fabric_2 = true := by decide

/-- Token and task words, laid out by hand from R67–R101 and the instructions' entries, fields set to distinct values. -/
def words_token_task_1 : List (List IWord × Instr) := [
  ([0x0F018120], .opwait { ring := r0, k := 12, d := 2, sus := true }),
  ([0x5F031980], .optest { ring := ⟨false, true, false, true⟩, k := 8, d := 51 }),
  ([0x0F054580], .opcancel { ring := r0, k := 10, d := 11 }),
  ([0x2F079000], .opdetach { ring := ⟨false, false, true, false⟩, k := 12, d := 32 }),
  ([0x0F098280], .opadopt { ring := r0, k := 12, a := 5, ta := false }),
  ([0x0F0AF800], .oppri { ring := r0, k := 7, pri := 3 }),
  ([0x2F0C4F00], .opfault { ring := ⟨false, false, true, false⟩, k := 2, d := 30 }),
  ([0x4F0EA000], .oprel { ring := ⟨false, true, false, false⟩, k := 5 }),
  ([0x4F200000], .kdone { ring := ⟨false, true, false, false⟩ }),
  ([0x0F220000], .kyield { ring := r0, free := false })]

/-- Each of these words decodes to the instruction beside it, which encodes to the word. -/
theorem test_words_token_task_1 : wordsOk words_token_task_1 = true := by decide

/-- Token and task words, laid out by hand from R67–R101 and the instructions' entries, fields set to distinct values. -/
def words_token_task_2 : List (List IWord × Instr) := [
  ([0x5F25762C, 0x08D48738], .kspawn { ring := ⟨false, true, false, true⟩, d := 46, w := 49, tw := false, free := true, pri := 2, inh := false, imm := 148145976 }),
  ([0x8F2693D0, 0x020BA5E2], .krange { ring := ⟨true, false, false, false⟩, d := 18, a := 30, ta := true, b := 8, tb := false, off := 763362 }),
  ([0x2F28C000], .knext { ring := ⟨false, false, true, false⟩, d := 24 }),
  ([0x0F2A8100], .widf { ring := r0, d := 16, n := 1 }),
  ([0x2F2C0068], .depdec { ring := ⟨false, false, true, false⟩, mask := 104 }),
  ([0x1F2E0000], .nextok { ring := ⟨false, false, false, true⟩ }),
  ([0x0F300000], .prevwait { ring := r0 }),
  ([0x1F400000], .bar { ring := ⟨false, false, false, true⟩ })]

/-- Each of these words decodes to the instruction beside it, which encodes to the word. -/
theorem test_words_token_task_2 : wordsOk words_token_task_2 = true := by decide

/-- Handle and system words, laid out by hand from R67–R101 and the instructions' entries, fields set to distinct values. -/
def words_handle_system_1 : List (List IWord × Instr) := [
  ([0x4F813600], .hld { ring := ⟨false, true, false, false⟩, y := true, reg := 6, b := 48, tb := false }),
  ([0x4F82EA10], .hst { ring := ⟨false, true, false, false⟩, y := false, reg := 29, b := 16, tb := true }),
  ([0x5F85A100, 0x042D8C00], .hnarrow { ring := ⟨false, true, false, true⟩, hd := 26, hs := 2, go := 16, te := true, gl := 27, tl := false, mask := 48 }),
  ([0x4F8736A8], .hinfo { ring := ⟨false, true, false, false⟩, d := 38, h := 26, n := 5 }),
  ([0x2F888352], .hchk { ring := ⟨false, false, true, false⟩, d := 16, h := 13, a := 18 }),
  ([0x5F8AF000], .hdrop { ring := ⟨false, true, false, true⟩, h := 15 }),
  ([0x4F8CB421], .hreq { ring := ⟨false, true, false, false⟩, d := 22, h := 16, a := 33 }),
  ([0x0FA2BADE], .csrr { ring := r0, d := 43, csr := 2782 }),
  ([0x0FA7A7CC], .csrw { ring := r0, a := 58, csr := 1996 }),
  ([0x1FAA5621, 0x07500000], .csrx { ring := ⟨false, false, false, true⟩, d := 37, csr := 1569, a := 29, ta := false, op := 2 })]

/-- Each of these words decodes to the instruction beside it, which encodes to the word. -/
theorem test_words_handle_system_1 : wordsOk words_handle_system_1 = true := by decide

/-- Handle and system words, laid out by hand from R67–R101 and the instructions' entries, fields set to distinct values. -/
def words_handle_system_2 : List (List IWord × Instr) := [
  ([0x2FAD46E0], .pmcrd { ring := ⟨false, false, true, false⟩, d := 20, a := 27, ta := true }),
  ([0x2FB04000], .timerd { ring := ⟨false, false, true, false⟩, d := 4 })]

/-- Each of these words decodes to the instruction beside it, which encodes to the word. -/
theorem test_words_handle_system_2 : wordsOk words_handle_system_2 = true := by decide

/-- The worked words of 02_assembly_language.md: ADD.wp g1, g2, g3?; LD.w g5, [g4+16]; BNZ g7, top (top 12 bytes back); LI g9, 0x0123_4567. -/
theorem test_examples_02 : wordsOk [
  ([0x8000841A], .add { ring := ⟨true, false, false, false⟩, d := 1, a := 2, b := 3, ta := false, tb := true }),
  ([0x08028844], .ld { ring := r0, t := 5, b := 4, tt := false, tb := false, sz := 2, m := 4 }),
  ([0x0643BFFD], .bnz { ring := r0, a := 7, ta := false, off := 16381 }),
  ([0x03A48000, 0x01234567], .li { ring := r0, d := 9, imm := 19088743 })] = true := by decide

/-- The worked words of 03_formats_and_opcodes.md: ADDI g4, g4, -1; ST.d g7, [g2+24]; BZ g3, ahead (5 words on); RET; VFMA v3, v1, v2 when p2; VADD.wp v5, qv0, v6; VLD qv0, [g4]; VEXP2.bf16.rne v2, v1. -/
theorem test_examples_03 : wordsOk [
  ([0x026208FF], .addi { ring := r0, d := 4, a := 4, ta := false, imm := 255 }),
  ([0x08438463], .st { ring := r0, t := 7, b := 2, tt := false, tb := false, sz := 3, m := 3 }),
  ([0x06218005], .bz { ring := r0, a := 3, ta := false, off := 5 }),
  ([0x06A07600], .jl { ring := r0, d := 0, a := 59, ta := false }),
  ([0x0A430884], .vfma { ring := r0, vd := 3, va := 1, vb := 2, ta := false, tb := false, p := 2 }),
  ([0x8A05E180], .vadd { ring := ⟨true, false, false, false⟩, vd := 5, va := 28, vb := 6, ta := false, tb := false, p := 0 }),
  ([0x0B1C1000], .vld { ring := r0, q := 28, b := 4, tb := false, dc := false, off := 0 }),
  ([0x0BE20800, 0x01402200], .vexp2 { ring := r0, vd := 2, va := 1, vb := 0, ta := false, tb := false, p := 0, x := false, rnd := 0, ovf := 0, dt := 2, st := 2, imm := 0 })] = true := by decide

/-- The worked words of 06_arith_scalar_control.md: DIV g5, g6, g7; FMA g3, g1, g2; FCVTIZ g4, g9; CALL fn (fn 64 bytes on). -/
theorem test_examples_06 : wordsOk [
  ([0x00828C38], .div { ring := r0, d := 5, a := 6, b := 7, ta := false, tb := false }),
  ([0x04418210], .fma { ring := r0, d := 3, a := 1, b := 2, ta := false, tb := false }),
  ([0x04E21219], .fcvtiz { ring := r0, d := 4, a := 9, ta := false }),
  ([0x06DD8000, 0x00000010], .brl { ring := r0, d := 59, imm := 16 })] = true := by decide

/-- The worked words of 07_arith_vector.md: VADD v1, v2, v3; VCMP.lt p2, v4, v5; VBCAST v3, g7; VSETT bf16, rne, sat; VFMA v2, qv0, v1; VMOV qv1, v2; VST qv1, [g5+256]; VQUANT.e4m3.fp32.0.g1 v6, v1, v7. -/
theorem test_examples_07 : wordsOk [
  ([0x0A0110C0], .vadd { ring := r0, vd := 1, va := 2, vb := 3, ta := false, tb := false, p := 0 }),
  ([0x0A8A2140], .vcmp { ring := r0, c := 2, pd := 2, va := 4, vb := 5, ta := false, tb := false, p := 0 }),
  ([0x0AC31C00], .vbcast { ring := r0, vd := 3, s := 7, ts := false, p := 0 }),
  ([0x0BA20000], .vsett { ring := r0, type := 2, rnd := 0, ovf := 0 }),
  ([0x0A42E040], .vfma { ring := r0, vd := 2, va := 28, vb := 1, ta := false, tb := false, p := 0 }),
  ([0x0AFD1000], .vmov { ring := r0, vd := 29, va := 2, ta := false, p := 0 }),
  ([0x0B3D1401], .vst { ring := r0, q := 29, b := 5, tb := false, dc := false, off := 1 }),
  ([0x0BE609C0, 0x02105101], .vquant { ring := r0, vd := 6, va := 1, vb := 7, ta := false, tb := false, p := 0, x := false, rnd := 0, ovf := 0, dt := 5, st := 1, imm := 1 })] = true := by decide

/-- The worked words of 08_arith_matrix.md: MLEASE k1, g5; MLEASE.sus k1, g5; MREL k1; MMA k2, 0, h1, g10, h2, g11, g12; MZERO k2, 8; MDRAIN k3, 0, h2, g20, g21. -/
theorem test_examples_08 : wordsOk [
  ([0x0C020500], .mlease { ring := r0, k := 1, pri := 0, b := 5, tb := false, sus := false }),
  ([0x0C020540], .mlease { ring := r0, k := 1, pri := 0, b := 5, tb := false, sus := true }),
  ([0x0C220000], .mrel { ring := r0, k := 1, pri := 0 }),
  ([0x0C440220, 0x00028580, 0x03000000, 0x00000000], .mma { ring := r0, k := 2, pri := 0, dt := false, ha := 1, hb := 2, z := false, acc := 0, ga := 10, ta := false, gb := 11, tb := false, gs := 12, ts := false, gsa := 0, tsa := false, gsb := 0, tsb := false, bufa := 0, bufb := 0 }),
  ([0x0CA40200], .mzero { ring := r0, k := 2, pri := 0, dt := false, acc := 8, cnt := 0 }),
  ([0x0CC60400, 0x00050A80, 0x00000000], .mdrain { ring := r0, k := 3, pri := 0, dt := false, h := 2, z := false, rnd := 0, ovf := 0, acc := 0, gt := 20, tt := false, gs := 21, ts := false, buf := 0 })] = true := by decide

/-- The worked words of 12_order_memory_instr.md: LDU.b g6, [g7+3]; STL.w.dv g2, [g11]; LDA.w.sy g3, [g8]; AADD.w.dv.rlx g7, [g6]; ACAS.d.pd.ar g5, [g6], g9; WAITA.gew.w.sy.acq g6, g5, [g4], g7; FENCE.full.dv; FENCE.acq.sy; FENCE.shoal; FSET g10, g2; FRD g3, g10; FINC g10, g11. -/
theorem test_examples_12_1 : wordsOk [
  ([0x08230E03], .ldu { ring := r0, t := 6, b := 7, tt := false, tb := false, sz := 0, m := 3 }),
  ([0x08C11648], .stl { ring := r0, t := 2, b := 11, tt := false, tb := false, sz := 2, sc := 1 }),
  ([0x08A19058], .lda { ring := r0, t := 3, b := 8, tt := false, tb := false, sz := 2, sc := 3 }),
  ([0x08E38C00, 0x00401000], .aadd { ring := r0, t := 7, b := 6, tt := false, tb := false, sc := 1, ord := 0, c := 0, tc := false, dbl := false, nr := false }),
  ([0x08E28C00, 0x09B25800], .acas { ring := r0, t := 5, b := 6, tt := false, tb := false, sc := 2, ord := 3, c := 9, tc := false, dbl := true, nr := false }),
  ([0x09028840, 0x09C70600], .waita { ring := r0, t := 5, b := 4, tt := false, tb := false, dbl := false, cond := 4, sc := 3, acq := true, o := 7, te := false, sus := false, d := 6 }),
  ([0x09200008], .fenceFull { ring := r0, sc := 1 }),
  ([0x09200019], .fenceAcq { ring := r0, sc := 3 }),
  ([0x09200003], .fenceShoal { ring := r0 }),
  ([0x05C50200], .fset { ring := r0, f := 10, tf := false, v := 2, tv := false }),
  ([0x05E19400], .frd { ring := r0, d := 3, f := 10, tf := false }),
  ([0x09C50B00], .finc { ring := r0, f := 10, tf := false, v := 11, tv := false })] = true := by decide

/-- The worked words of 12_order_memory_instr.md: FWAIT.geu g10, g12; CVTA g3, g4, g5; ASPC g3, g4, g0. -/
theorem test_examples_12_2 : wordsOk [
  ([0x09E50C20], .fwait { ring := r0, f := 10, tf := false, v := 12, tv := false, cond := 2, sus := false }),
  ([0x09818828], .cvta { ring := r0, d := 3, a := 4, b := 5, ta := false, tb := false }),
  ([0x09A18800], .aspc { ring := r0, d := 3, a := 4, b := 0, ta := false, tb := false })] = true := by decide

/-- The worked words of 13_order_copy_fabric_instr.md: CPY.ch2 k2, h0, g10, y0, h3, g11, y1, g12; CHBIND.ld k1, 2, h0, g5, g6; XST k4, h6, g14, y2, h0, g15, y3, g16; CAR.sum.bf16 k5, h0, g20, y4, h0, g21, y5, 3. -/
theorem test_examples_13 : wordsOk [
  ([0x0D040030, 0x02858100, 0x00006280], .cpy { ring := r0, k := 2, pri := 0, dt := false, hd := 0, hs := 3, dc := false, gd := 10, td := false, gs := 11, ts := false, yd := 0, ys := 1, buf := 0, dfmt := 0, rnd := 0, ovf := 0, pat := false, esz := 0, gn := 12, tn := false, che := true, ch := 2 }),
  ([0x0DA20800, 0x01430000], .chbind { ring := r0, k := 1, pri := 0, dt := false, se := false, c := 2, h := 0, go := 5, te := false, gl := 6, tl := false }),
  ([0x0E080C00, 0x03879300, 0x04000000, 0x00000000], .xst { ring := r0, k := 4, pri := 0, dt := false, hd := 6, hs := 0, gd := 14, td := false, gs := 15, ts := false, yd := 2, ys := 3, buf := 0, gf := 16, tf := false, gn := 0, tn := false, grp := 0 }),
  ([0x0E6A0000, 0x050AA500, 0x00032000, 0x00000000], .car { ring := r0, k := 5, pri := 0, dt := false, hd := 0, hs := 0, exact := false, gd := 20, td := false, gs := 21, ts := false, yd := 4, ys := 5, buf := 0, comm := 3, efmt := 2, rnd := 0, ovf := 0, op := 0, gn := 0, tn := false, ent := 0, groot := 0, troot := false })] = true := by decide

/-- The worked words of 14_program_command_ring.md: LDM g2, 6, [g1]; LOOP g6, last; WAITA.gew.w.sy.acq g0, g9, [g3], g0; BNZ g12, badseq; LDU.h g13, [g10+4]; FADD g16, g16, g15; ZEXT.W g7, g9; STL.w.sy g7, [g4]; KDONE; TRAP 0x3C0. -/
theorem test_examples_14 : wordsOk [
  ([0x09410265], .ldm { ring := r0, t := 2, b := 1, tt := false, tb := false, m := 5 }),
  ([0x06E30017], .loop { ring := r0, a := 6, ta := false, endo := 23 }),
  ([0x09048640, 0x09C00000], .waita { ring := r0, t := 9, b := 3, tt := false, tb := false, dbl := false, cond := 4, sc := 3, acq := true, o := 0, te := false, sus := false, d := 0 }),
  ([0x06460010], .bnz { ring := r0, a := 12, ta := false, off := 16 }),
  ([0x08269422], .ldu { ring := r0, t := 13, b := 10, tt := false, tb := false, sz := 1, m := 2 }),
  ([0x04082078], .fadd { ring := r0, d := 16, a := 16, b := 15, ta := false, tb := false }),
  ([0x02439248], .zextW { ring := r0, d := 7, a := 9, ta := false }),
  ([0x08C38858], .stl { ring := r0, t := 7, b := 4, tt := false, tb := false, sz := 2, sc := 3 }),
  ([0x0F200000], .kdone { ring := r0 }),
  ([0x072003C0], .trap { ring := r0, code := 960 })] = true := by decide

/-- The worked words of 16_progress_task_token_instr.md: OPWAIT g5, k2; OPWAIT.sus g1, k0; OPTEST g3, k4; OPCANCEL g0, k2; OPDETACH g5, k1; OPADOPT k1, g6; OPPRI k2, 3; OPFAULT g10, k3; OPREL k2; KYIELD.free; KSPAWN g4, g7, worker (16 words on); KRANGE g4, g8, g9, body (64 words back). -/
theorem test_examples_16_1 : wordsOk [
  ([0x0F004280], .opwait { ring := r0, k := 2, d := 5, sus := false }),
  ([0x0F0000A0], .opwait { ring := r0, k := 0, d := 1, sus := true }),
  ([0x0F028180], .optest { ring := r0, k := 4, d := 3 }),
  ([0x0F044000], .opcancel { ring := r0, k := 2, d := 0 }),
  ([0x0F062280], .opdetach { ring := r0, k := 1, d := 5 }),
  ([0x0F082300], .opadopt { ring := r0, k := 1, a := 6, ta := false }),
  ([0x0F0A5800], .oppri { ring := r0, k := 2, pri := 3 }),
  ([0x0F0C6500], .opfault { ring := r0, k := 3, d := 10 }),
  ([0x0F0E4000], .oprel { ring := r0, k := 2 }),
  ([0x0F230000], .kyield { ring := r0, free := true }),
  ([0x0F2420E1, 0x00000010], .kspawn { ring := r0, d := 4, w := 7, tw := false, free := false, pri := 0, inh := true, imm := 16 }),
  ([0x0F262100, 0x025FFFC0], .krange { ring := r0, d := 4, a := 8, ta := false, b := 9, tb := false, off := 2097088 })] = true := by decide

/-- The worked words of 16_progress_task_token_instr.md: KNEXT g2; WIDF g3, 1; DEPDEC 0b100; NEXTOK; PREVWAIT; BAR. -/
theorem test_examples_16_2 : wordsOk [
  ([0x0F281000], .knext { ring := r0, d := 2 }),
  ([0x0F2A1900], .widf { ring := r0, d := 3, n := 1 }),
  ([0x0F2C0004], .depdec { ring := r0, mask := 4 }),
  ([0x0F2E0000], .nextok { ring := r0 }),
  ([0x0F300000], .prevwait { ring := r0 }),
  ([0x0F400000], .bar { ring := r0 })] = true := by decide

/-- The worked words of 17_program_early_start.md: WIDF g1, 6; SHLI g1, g1, 9; VFMA v3, qv0, v1; CHBIND.ld k1, 0, h0, g5, g6; MLEASE k2, g0; CPY.ch0 k3, h0, g5, y0, ysrc, g1, y0; CVTA g9, g5, g10; VMUL qv1, v2, v2; CHUNB.ld k4, 0. -/
theorem test_examples_17 : wordsOk [
  ([0x0F2A0E00], .widf { ring := r0, d := 1, n := 6 }),
  ([0x02E08209], .shli { ring := r0, d := 1, a := 1, ta := false, sh := 9 }),
  ([0x0A43E040], .vfma { ring := r0, vd := 3, va := 28, vb := 1, ta := false, tb := false, p := 0 }),
  ([0x0DA20000, 0x01430000], .chbind { ring := r0, k := 1, pri := 0, dt := false, se := false, c := 0, h := 0, go := 5, te := false, gl := 6, tl := false }),
  ([0x0C040000], .mlease { ring := r0, k := 2, pri := 0, b := 0, tb := false, sus := false }),
  ([0x0D060010, 0x01408000, 0x00000200], .cpy { ring := r0, k := 3, pri := 0, dt := false, hd := 0, hs := 1, dc := false, gd := 5, td := false, gs := 1, ts := false, yd := 0, ys := 0, buf := 0, dfmt := 0, rnd := 0, ovf := 0, pat := false, esz := 0, gn := 0, tn := false, che := true, ch := 0 }),
  ([0x09848A50], .cvta { ring := r0, d := 9, a := 5, b := 10, ta := false, tb := false }),
  ([0x0A3D1080], .vmul { ring := r0, vd := 29, va := 2, vb := 2, ta := false, tb := false, p := 0 }),
  ([0x0DC80001], .chunb { ring := r0, k := 4, pri := 0, dt := false, se := false, c := 0 })] = true := by decide

/-- The worked words of 18_isolation.md: HLD h5, [g7]; HLD y0, [g7]; HST h5, [g8]; HNARROW h6, h1, g4, g5, 0b101; HINFO g3, h5, 4; HCHK g4, h5, g9; HDROP h5; HREQ g2, h7, g6. -/
theorem test_examples_18 : wordsOk [
  ([0x0F8028E0], .hld { ring := r0, y := false, reg := 5, b := 7, tb := false }),
  ([0x0F8100E0], .hld { ring := r0, y := true, reg := 0, b := 7, tb := false }),
  ([0x0F822900], .hst { ring := r0, y := false, reg := 5, b := 8, tb := false }),
  ([0x0F846080, 0x01028140], .hnarrow { ring := r0, hd := 6, hs := 1, go := 4, te := false, gl := 5, tl := false, mask := 5 }),
  ([0x0F861960], .hinfo { ring := r0, d := 3, h := 5, n := 4 }),
  ([0x0F882149], .hchk { ring := r0, d := 4, h := 5, a := 9 }),
  ([0x0F8A5000], .hdrop { ring := r0, h := 5 }),
  ([0x0F8C11C6], .hreq { ring := r0, d := 2, h := 7, a := 6 })] = true := by decide

/-- The worked words of 19_program_key_rotation.md: HNARROW h5, bshr, g0, g17, 0b1; CPY.wp k4, h0, g14, y0, h5, g0, y0; STL.w.sy g1, [g30]; WAITA.eq.w.sy.acq g0, g1, [g31], g0; OPTEST g20, k4; NOP.sn; OPFAULT g23, k4; MMA.z k6, 0, h0, g10, h0, g11, g12; MDRAIN k3, 0, h3, g13, g12. -/
theorem test_examples_19 : wordsOk [
  ([0x0F845200, 0x00088040], .hnarrow { ring := r0, hd := 5, hs := 4, go := 0, te := false, gl := 17, tl := false, mask := 1 }),
  ([0x8D080050, 0x03800000, 0x00000000], .cpy { ring := ⟨true, false, false, false⟩, k := 4, pri := 0, dt := false, hd := 0, hs := 5, dc := false, gd := 14, td := false, gs := 0, ts := false, yd := 0, ys := 0, buf := 0, dfmt := 0, rnd := 0, ovf := 0, pat := false, esz := 0, gn := 0, tn := false, che := false, ch := 0 }),
  ([0x08C0BC58], .stl { ring := r0, t := 1, b := 30, tt := false, tb := false, sz := 2, sc := 3 }),
  ([0x0900BE40, 0x01C00000], .waita { ring := r0, t := 1, b := 31, tt := false, tb := false, dbl := false, cond := 0, sc := 3, acq := true, o := 0, te := false, sus := false, d := 0 }),
  ([0x0F028A00], .optest { ring := r0, k := 4, d := 20 }),
  ([0x10000000], .add { ring := ⟨false, false, false, true⟩, d := 0, a := 0, b := 0, ta := false, tb := false }),
  ([0x0F0C8B80], .opfault { ring := r0, k := 4, d := 23 }),
  ([0x0C4C0008, 0x00028580, 0x03000000, 0x00000000], .mma { ring := r0, k := 6, pri := 0, dt := false, ha := 0, hb := 0, z := true, acc := 0, ga := 10, ta := false, gb := 11, tb := false, gs := 12, ts := false, gsa := 0, tsa := false, gsb := 0, tsb := false, bufa := 0, bufb := 0 }),
  ([0x0CC60600, 0x00034600, 0x00000000], .mdrain { ring := r0, k := 3, pri := 0, dt := false, h := 3, z := false, rnd := 0, ovf := 0, acc := 0, gt := 13, tt := false, gs := 12, ts := false, buf := 0 })] = true := by decide

/-- The worked words of 20_recovery.md: CSRR g3, fstat; CSRW vtype, g5; CSRX.clr g2, fstat, g4; PMCRD g6, g7; TIMERD g8. -/
theorem test_examples_20 : wordsOk [
  ([0x0FA03001], .csrr { ring := r0, d := 3, csr := 1 }),
  ([0x0FA45000], .csrw { ring := r0, a := 5, csr := 0 }),
  ([0x0FA82001, 0x01100000], .csrx { ring := r0, d := 2, csr := 1, a := 4, ta := false, op := 2 }),
  ([0x0FAC61C0], .pmcrd { ring := r0, d := 6, a := 7, ta := false }),
  ([0x0FB08000], .timerd { ring := r0, d := 8 })] = true := by decide

/-- The worked words of 21_program_vf_reset.md: VSETT fp32, rne, sat; LD.d g3, [g1+8]; VLD qv0, [g2]; VRED.sum v2, qv0; VEXTR.fp32 qs0, v2, 0; ST.w qs0, [g3]. -/
theorem test_examples_21 : wordsOk [
  ([0x0BA10000], .vsett { ring := r0, type := 1, rnd := 0, ovf := 0 }),
  ([0x08018261], .ld { ring := r0, t := 3, b := 1, tt := false, tb := false, sz := 3, m := 1 }),
  ([0x0B1C0800], .vld { ring := r0, q := 28, b := 2, tb := false, dc := false, off := 0 }),
  ([0x0B82E000], .vred { ring := r0, vd := 2, va := 28, op := 0, ta := false, p := 0 }),
  ([0x0BE01000, 0x03101100], .vextr { ring := r0, vd := 0, va := 2, vb := 0, ta := false, tb := false, p := 0, x := false, rnd := 0, ovf := 0, dt := 1, st := 1, imm := 0 }),
  ([0x085E0640], .st { ring := r0, t := 60, b := 3, tt := false, tb := false, sz := 2, m := 0 })] = true := by decide

/-- The worked words of 22_program_eviction.md: CSRR g1, ctxid; BFX g1, g1, 4, 2; MLEASE k5, g6; MDRAIN.sn k3, 1, h0, g13, g12; CPY.dt.wp k4, h1, g4, y0, h0, g14, y0; WIDF g3, 6; OPREL k4; MREL k7. -/
theorem test_examples_22 : wordsOk [
  ([0x0FA01007], .csrr { ring := r0, d := 1, csr := 7 }),
  ([0x03608200, 0x00000044], .bfx { ring := r0, d := 1, a := 1, ta := false, pos := 4, wm1 := 1, sx := false }),
  ([0x0C0A0600], .mlease { ring := r0, k := 5, pri := 0, b := 6, tb := false, sus := false }),
  ([0x1CC60000, 0x00134600, 0x00000000], .mdrain { ring := ⟨false, false, false, true⟩, k := 3, pri := 0, dt := false, h := 0, z := false, rnd := 0, ovf := 0, acc := 1, gt := 13, tt := false, gs := 12, ts := false, buf := 0 }),
  ([0x8D084200, 0x01070000, 0x00000000], .cpy { ring := ⟨true, false, false, false⟩, k := 4, pri := 0, dt := true, hd := 1, hs := 0, dc := false, gd := 4, td := false, gs := 14, ts := false, yd := 0, ys := 0, buf := 0, dfmt := 0, rnd := 0, ovf := 0, pat := false, esz := 0, gn := 0, tn := false, che := false, ch := 0 }),
  ([0x0F2A1E00], .widf { ring := r0, d := 3, n := 6 }),
  ([0x0F0E8000], .oprel { ring := r0, k := 4 }),
  ([0x0C2E0000], .mrel { ring := r0, k := 7, pri := 0 })] = true := by decide

/-- Well-formed terms, and ill-formed ones that differ in the field under check: trap bit, bit field, insert field, third source, predicate zero, compare predicate, queue predicate, trap code, link (R76, R80, R81 and the entries). -/
theorem test_wellformed_1 : refuses [
  ((.add { ring := r0, d := 1, a := 2, b := 3, ta := false, tb := false }), [(.add { ring := r0, d := 1, a := 0, b := 3, ta := true, tb := false }), (.add { ring := r0, d := 1, a := 2, b := 0, ta := false, tb := true })]),
  ((.bfx { ring := r0, d := 1, a := 2, ta := false, pos := 40, wm1 := 23, sx := false }), [(.bfx { ring := r0, d := 1, a := 2, ta := false, pos := 41, wm1 := 23, sx := false }), (.bfx { ring := r0, d := 1, a := 0, ta := true, pos := 40, wm1 := 23, sx := false })]),
  ((.bfi { ring := r0, d := 1, a := 2, ta := false, pos := 40, wm1 := 23, sx := false }), [(.bfi { ring := r0, d := 1, a := 2, ta := false, pos := 41, wm1 := 23, sx := false }), (.bfi { ring := r0, d := 1, a := 2, ta := false, pos := 40, wm1 := 23, sx := true }), (.bfi { ring := r0, d := 60, a := 2, ta := false, pos := 40, wm1 := 23, sx := false })]),
  ((.cmov { ring := r0, d := 1, a := 60, b := 61, ta := false, tb := false }), [(.cmov { ring := r0, d := 60, a := 60, b := 61, ta := false, tb := false })]),
  ((.pand { ring := r0, pd := 1, pa := 0, pb := 0 }), [(.pand { ring := r0, pd := 0, pa := 0, pb := 0 })]),
  ((.vcmp { ring := r0, c := 1, pd := 2, va := 0, vb := 0, ta := false, tb := false, p := 0 }), [(.vcmp { ring := r0, c := 1, pd := 0, va := 0, vb := 0, ta := false, tb := false, p := 0 })]),
  ((.pfrom { ring := r0, pd := 7, n := 0, tq := false, j := 0, z := false }), [(.pfrom { ring := r0, pd := 0, n := 0, tq := false, j := 0, z := false })]),
  ((.trap { ring := r0, code := 960 }), [(.trap { ring := r0, code := 959 })]),
  ((.jl { ring := r0, d := 59, a := 4, ta := false }), [(.jl { ring := r0, d := 60, a := 4, ta := false }), (.jl { ring := r0, d := 59, a := 63, ta := false })])] = true := by decide

/-- Well-formed terms, and ill-formed ones that differ in the field under check: call, load, store, atomic, reduction, atomic float, wait memory, wait flag, block load (R76, R80, R81 and the entries). -/
theorem test_wellformed_2 : refuses [
  ((.brl { ring := r0, d := 59, imm := 2 }), [(.brl { ring := r0, d := 62, imm := 2 })]),
  ((.ld { ring := r0, t := 60, b := 3, tt := false, tb := false, sz := 2, m := 1 }), [(.ld { ring := r0, t := 60, b := 3, tt := true, tb := false, sz := 2, m := 1 }), (.ld { ring := r0, t := 60, b := 60, tt := false, tb := false, sz := 2, m := 1 }), (.ld { ring := r0, t := 60, b := 0, tt := false, tb := true, sz := 2, m := 1 })]),
  ((.st { ring := r0, t := 60, b := 3, tt := true, tb := false, sz := 2, m := 0 }), [(.st { ring := r0, t := 0, b := 3, tt := true, tb := false, sz := 2, m := 0 }), (.st { ring := r0, t := 60, b := 61, tt := true, tb := false, sz := 2, m := 0 })]),
  ((.aadd { ring := r0, t := 5, b := 6, tt := false, tb := false, sc := 0, ord := 0, c := 0, tc := false, dbl := false, nr := false }), [(.aadd { ring := r0, t := 5, b := 6, tt := false, tb := false, sc := 0, ord := 0, c := 1, tc := false, dbl := false, nr := false }), (.aadd { ring := r0, t := 5, b := 6, tt := false, tb := false, sc := 0, ord := 0, c := 0, tc := true, dbl := false, nr := false }), (.aadd { ring := r0, t := 60, b := 6, tt := false, tb := false, sc := 0, ord := 0, c := 0, tc := false, dbl := false, nr := false }), (.aadd { ring := r0, t := 5, b := 60, tt := false, tb := false, sc := 0, ord := 0, c := 0, tc := false, dbl := false, nr := false })]),
  ((.aadd { ring := r0, t := 60, b := 6, tt := false, tb := false, sc := 0, ord := 0, c := 0, tc := false, dbl := false, nr := true }), [(.aadd { ring := r0, t := 60, b := 6, tt := false, tb := false, sc := 0, ord := 0, c := 0, tc := false, dbl := false, nr := false })]),
  ((.afadd { ring := r0, t := 5, b := 6, tt := false, tb := false, sc := 0, ord := 0, c := 0, tc := false, dbl := false, nr := false }), [(.afadd { ring := r0, t := 5, b := 6, tt := false, tb := false, sc := 0, ord := 0, c := 0, tc := false, dbl := true, nr := false })]),
  ((.waita { ring := r0, t := 5, b := 6, tt := false, tb := false, dbl := false, cond := 6, sc := 0, acq := false, o := 7, te := false, sus := true, d := 3 }), [(.waita { ring := r0, t := 5, b := 6, tt := false, tb := false, dbl := false, cond := 7, sc := 0, acq := false, o := 7, te := false, sus := true, d := 3 }), (.waita { ring := r0, t := 5, b := 6, tt := false, tb := false, dbl := false, cond := 6, sc := 0, acq := false, o := 7, te := false, sus := true, d := 4 }), (.waita { ring := r0, t := 60, b := 6, tt := false, tb := false, dbl := false, cond := 6, sc := 0, acq := false, o := 7, te := false, sus := true, d := 3 }), (.waita { ring := r0, t := 5, b := 60, tt := false, tb := false, dbl := false, cond := 6, sc := 0, acq := false, o := 7, te := false, sus := true, d := 3 }), (.waita { ring := r0, t := 5, b := 6, tt := false, tb := false, dbl := false, cond := 6, sc := 0, acq := false, o := 60, te := false, sus := true, d := 3 }), (.waita { ring := r0, t := 5, b := 6, tt := false, tb := false, dbl := false, cond := 6, sc := 0, acq := false, o := 7, te := false, sus := true, d := 60 })]),
  ((.fwait { ring := r0, f := 5, tf := false, v := 6, tv := false, cond := 6, sus := false }), [(.fwait { ring := r0, f := 5, tf := false, v := 6, tv := false, cond := 7, sus := false }), (.fwait { ring := r0, f := 0, tf := true, v := 6, tv := false, cond := 6, sus := false })]),
  ((.ldm { ring := r0, t := 50, b := 1, tt := false, tb := false, m := 9 }), [(.ldm { ring := r0, t := 50, b := 1, tt := false, tb := false, m := 10 }), (.ldm { ring := r0, t := 50, b := 1, tt := true, tb := false, m := 9 }), (.ldm { ring := r0, t := 60, b := 1, tt := false, tb := false, m := 9 }), (.ldm { ring := r0, t := 50, b := 60, tt := false, tb := false, m := 9 })])] = true := by decide

/-- Well-formed terms, and ill-formed ones that differ in the field under check: block store, lane third source, broadcast, vector load, vector store, gather, scatter, bitwise, one source (R76, R80, R81 and the entries). -/
theorem test_wellformed_3 : refuses [
  ((.stm { ring := r0, t := 50, b := 1, tt := true, tb := false, m := 9 }), [(.stm { ring := r0, t := 50, b := 1, tt := true, tb := false, m := 10 }), (.stm { ring := r0, t := 60, b := 1, tt := true, tb := false, m := 9 }), (.stm { ring := r0, t := 50, b := 60, tt := true, tb := false, m := 9 })]),
  ((.vfma { ring := r0, vd := 27, va := 28, vb := 29, ta := false, tb := false, p := 0 }), [(.vfma { ring := r0, vd := 28, va := 28, vb := 29, ta := false, tb := false, p := 0 })]),
  ((.vbcast { ring := r0, vd := 1, s := 60, ts := true, p := 0 }), [(.vbcast { ring := r0, vd := 1, s := 0, ts := true, p := 0 })]),
  ((.vld { ring := r0, q := 28, b := 1, tb := false, dc := true, off := 0 }), [(.vld { ring := r0, q := 27, b := 1, tb := false, dc := true, off := 0 }), (.vld { ring := r0, q := 28, b := 60, tb := false, dc := true, off := 0 }), (.vld { ring := r0, q := 28, b := 0, tb := true, dc := true, off := 0 })]),
  ((.vst { ring := r0, q := 28, b := 1, tb := false, dc := false, off := 0 }), [(.vst { ring := r0, q := 28, b := 1, tb := false, dc := true, off := 0 }), (.vst { ring := r0, q := 27, b := 1, tb := false, dc := false, off := 0 })]),
  ((.vldg { ring := r0, q := 31, b := 1, tb := false, sz := 2 }), [(.vldg { ring := r0, q := 31, b := 1, tb := false, sz := 3 }), (.vldg { ring := r0, q := 27, b := 1, tb := false, sz := 2 })]),
  ((.vsts { ring := r0, q := 31, b := 1, tb := false, sz := 2 }), [(.vsts { ring := r0, q := 31, b := 1, tb := false, sz := 3 }), (.vsts { ring := r0, q := 0, b := 1, tb := false, sz := 2 })]),
  ((.vand { ring := r0, vd := 1, va := 2, vb := 3, ta := false, tb := false, p := 0, x := false, rnd := 0, ovf := 0, dt := 4, st := 4, imm := 0 }), [(.vand { ring := r0, vd := 1, va := 2, vb := 3, ta := false, tb := false, p := 0, x := false, rnd := 1, ovf := 0, dt := 4, st := 4, imm := 0 }), (.vand { ring := r0, vd := 1, va := 2, vb := 3, ta := false, tb := false, p := 0, x := false, rnd := 0, ovf := 1, dt := 4, st := 4, imm := 0 }), (.vand { ring := r0, vd := 1, va := 2, vb := 3, ta := false, tb := false, p := 0, x := false, rnd := 0, ovf := 0, dt := 3, st := 4, imm := 0 }), (.vand { ring := r0, vd := 1, va := 2, vb := 3, ta := false, tb := false, p := 0, x := false, rnd := 0, ovf := 0, dt := 4, st := 4, imm := 1 }), (.vand { ring := r0, vd := 1, va := 2, vb := 3, ta := false, tb := false, p := 0, x := true, rnd := 0, ovf := 0, dt := 4, st := 4, imm := 0 })]),
  ((.vnot { ring := r0, vd := 1, va := 2, vb := 0, ta := false, tb := false, p := 0, x := false, rnd := 0, ovf := 0, dt := 4, st := 4, imm := 0 }), [(.vnot { ring := r0, vd := 1, va := 2, vb := 1, ta := false, tb := false, p := 0, x := false, rnd := 0, ovf := 0, dt := 4, st := 4, imm := 0 }), (.vnot { ring := r0, vd := 1, va := 2, vb := 0, ta := false, tb := true, p := 0, x := false, rnd := 0, ovf := 0, dt := 4, st := 4, imm := 0 })])] = true := by decide

/-- Well-formed terms, and ill-formed ones that differ in the field under check: shift, division, root, convert, quantise, dequantise, pack, slide, extract (R76, R80, R81 and the entries). -/
theorem test_wellformed_4 : refuses [
  ((.vshl { ring := r0, vd := 1, va := 2, vb := 0, ta := false, tb := false, p := 0, x := true, rnd := 0, ovf := 0, dt := 2, st := 2, imm := 15 }), [(.vshl { ring := r0, vd := 1, va := 2, vb := 0, ta := false, tb := false, p := 0, x := true, rnd := 0, ovf := 0, dt := 2, st := 2, imm := 16 }), (.vshl { ring := r0, vd := 1, va := 2, vb := 0, ta := false, tb := false, p := 0, x := false, rnd := 0, ovf := 0, dt := 2, st := 2, imm := 15 }), (.vshl { ring := r0, vd := 1, va := 2, vb := 1, ta := false, tb := false, p := 0, x := true, rnd := 0, ovf := 0, dt := 2, st := 2, imm := 15 })]),
  ((.vdiv { ring := r0, vd := 1, va := 2, vb := 3, ta := false, tb := false, p := 0, x := false, rnd := 1, ovf := 1, dt := 2, st := 2, imm := 0 }), [(.vdiv { ring := r0, vd := 1, va := 2, vb := 3, ta := false, tb := false, p := 0, x := false, rnd := 1, ovf := 1, dt := 1, st := 2, imm := 0 }), (.vdiv { ring := r0, vd := 1, va := 2, vb := 3, ta := false, tb := false, p := 0, x := false, rnd := 1, ovf := 1, dt := 2, st := 2, imm := 1 }), (.vdiv { ring := r0, vd := 1, va := 2, vb := 3, ta := false, tb := false, p := 0, x := true, rnd := 1, ovf := 1, dt := 2, st := 2, imm := 0 })]),
  ((.vsqrt { ring := r0, vd := 1, va := 2, vb := 0, ta := false, tb := false, p := 0, x := false, rnd := 0, ovf := 0, dt := 2, st := 2, imm := 0 }), [(.vsqrt { ring := r0, vd := 1, va := 2, vb := 3, ta := false, tb := false, p := 0, x := false, rnd := 0, ovf := 0, dt := 2, st := 2, imm := 0 })]),
  ((.vcvt { ring := r0, vd := 1, va := 2, vb := 0, ta := false, tb := false, p := 0, x := false, rnd := 0, ovf := 0, dt := 5, st := 1, imm := 192 }), [(.vcvt { ring := r0, vd := 1, va := 2, vb := 0, ta := false, tb := false, p := 1, x := false, rnd := 0, ovf := 0, dt := 5, st := 1, imm := 192 }), (.vcvt { ring := r0, vd := 1, va := 2, vb := 0, ta := false, tb := false, p := 0, x := false, rnd := 0, ovf := 0, dt := 5, st := 1, imm := 193 }), (.vcvt { ring := r0, vd := 1, va := 2, vb := 0, ta := false, tb := false, p := 0, x := false, rnd := 0, ovf := 0, dt := 5, st := 2, imm := 192 }), (.vcvt { ring := r0, vd := 28, va := 2, vb := 0, ta := false, tb := false, p := 0, x := false, rnd := 0, ovf := 0, dt := 5, st := 1, imm := 192 }), (.vcvt { ring := r0, vd := 1, va := 2, vb := 1, ta := false, tb := false, p := 0, x := false, rnd := 0, ovf := 0, dt := 5, st := 1, imm := 192 }), (.vcvt { ring := r0, vd := 1, va := 2, vb := 0, ta := false, tb := false, p := 0, x := true, rnd := 0, ovf := 0, dt := 5, st := 1, imm := 192 })]),
  ((.vquant { ring := r0, vd := 1, va := 2, vb := 3, ta := false, tb := false, p := 0, x := false, rnd := 0, ovf := 0, dt := 5, st := 1, imm := 1 }), [(.vquant { ring := r0, vd := 1, va := 2, vb := 3, ta := false, tb := false, p := 0, x := false, rnd := 0, ovf := 0, dt := 5, st := 1, imm := 0 }), (.vquant { ring := r0, vd := 1, va := 2, vb := 3, ta := false, tb := false, p := 0, x := false, rnd := 0, ovf := 0, dt := 5, st := 1, imm := 5 }), (.vquant { ring := r0, vd := 1, va := 2, vb := 3, ta := false, tb := false, p := 0, x := false, rnd := 0, ovf := 0, dt := 5, st := 1, imm := 9 }), (.vquant { ring := r0, vd := 1, va := 2, vb := 3, ta := false, tb := false, p := 1, x := false, rnd := 0, ovf := 0, dt := 5, st := 1, imm := 1 }), (.vquant { ring := r0, vd := 1, va := 2, vb := 3, ta := false, tb := true, p := 0, x := false, rnd := 0, ovf := 0, dt := 5, st := 1, imm := 1 }), (.vquant { ring := r0, vd := 28, va := 2, vb := 3, ta := false, tb := false, p := 0, x := false, rnd := 0, ovf := 0, dt := 5, st := 1, imm := 1 }), (.vquant { ring := r0, vd := 1, va := 2, vb := 28, ta := false, tb := false, p := 0, x := false, rnd := 0, ovf := 0, dt := 5, st := 1, imm := 1 }), (.vquant { ring := r0, vd := 1, va := 2, vb := 3, ta := false, tb := false, p := 0, x := false, rnd := 0, ovf := 0, dt := 5, st := 2, imm := 129 })]),
  ((.vdeq { ring := r0, vd := 1, va := 2, vb := 3, ta := false, tb := false, p := 0, x := false, rnd := 0, ovf := 0, dt := 1, st := 9, imm := 2 }), [(.vdeq { ring := r0, vd := 1, va := 2, vb := 3, ta := false, tb := false, p := 0, x := false, rnd := 0, ovf := 0, dt := 1, st := 9, imm := 1 }), (.vdeq { ring := r0, vd := 1, va := 2, vb := 3, ta := false, tb := false, p := 0, x := false, rnd := 0, ovf := 0, dt := 1, st := 9, imm := 32 }), (.vdeq { ring := r0, vd := 1, va := 2, vb := 3, ta := false, tb := false, p := 0, x := true, rnd := 0, ovf := 0, dt := 1, st := 9, imm := 2 })]),
  ((.vpack { ring := r0, vd := 1, va := 2, vb := 0, ta := false, tb := false, p := 0, x := false, rnd := 0, ovf := 0, dt := 6, st := 6, imm := 129 }), [(.vpack { ring := r0, vd := 1, va := 2, vb := 0, ta := false, tb := false, p := 0, x := false, rnd := 0, ovf := 0, dt := 8, st := 8, imm := 129 }), (.vpack { ring := r0, vd := 1, va := 2, vb := 0, ta := false, tb := false, p := 0, x := false, rnd := 0, ovf := 0, dt := 6, st := 6, imm := 2 }), (.vpack { ring := r0, vd := 28, va := 2, vb := 0, ta := false, tb := false, p := 0, x := false, rnd := 0, ovf := 0, dt := 6, st := 6, imm := 129 }), (.vpack { ring := r0, vd := 1, va := 2, vb := 0, ta := false, tb := false, p := 1, x := false, rnd := 0, ovf := 0, dt := 6, st := 6, imm := 129 })]),
  ((.vslide { ring := r0, vd := 1, va := 2, vb := 3, ta := false, tb := false, p := 0, x := false, rnd := 0, ovf := 0, dt := 1, st := 1, imm := 63 }), [(.vslide { ring := r0, vd := 1, va := 2, vb := 3, ta := false, tb := false, p := 0, x := false, rnd := 0, ovf := 0, dt := 1, st := 1, imm := 64 }), (.vslide { ring := r0, vd := 1, va := 2, vb := 3, ta := false, tb := false, p := 1, x := false, rnd := 0, ovf := 0, dt := 1, st := 1, imm := 63 }), (.vslide { ring := r0, vd := 1, va := 2, vb := 3, ta := false, tb := false, p := 0, x := true, rnd := 0, ovf := 0, dt := 1, st := 1, imm := 63 })]),
  ((.vextr { ring := r0, vd := 3, va := 2, vb := 0, ta := false, tb := false, p := 0, x := false, rnd := 0, ovf := 0, dt := 4, st := 4, imm := 255 }), [(.vextr { ring := r0, vd := 4, va := 2, vb := 0, ta := false, tb := false, p := 0, x := false, rnd := 0, ovf := 0, dt := 4, st := 4, imm := 255 }), (.vextr { ring := r0, vd := 3, va := 2, vb := 0, ta := false, tb := false, p := 0, x := false, rnd := 0, ovf := 0, dt := 2, st := 2, imm := 255 })])] = true := by decide

/-- Well-formed terms, and ill-formed ones that differ in the field under check: insert, iota, scan, lease, multiply, drain, copy, gather copy, scatter copy (R76, R80, R81 and the entries). -/
theorem test_wellformed_5 : refuses [
  ((.vins { ring := r0, vd := 1, s := 60, ts := true, dt := 1, st := 1, k := 63 }), [(.vins { ring := r0, vd := 1, s := 60, ts := true, dt := 1, st := 1, k := 64 }), (.vins { ring := r0, vd := 1, s := 0, ts := true, dt := 1, st := 1, k := 63 }), (.vins { ring := r0, vd := 1, s := 60, ts := true, dt := 2, st := 1, k := 63 }), (.vins { ring := r0, vd := 28, s := 60, ts := true, dt := 1, st := 1, k := 63 })]),
  ((.viota { ring := r0, vd := 1, va := 0, vb := 0, ta := false, tb := false, p := 2, x := false, rnd := 0, ovf := 0, dt := 9, st := 9, imm := 0 }), [(.viota { ring := r0, vd := 1, va := 1, vb := 0, ta := false, tb := false, p := 2, x := false, rnd := 0, ovf := 0, dt := 9, st := 9, imm := 0 }), (.viota { ring := r0, vd := 1, va := 0, vb := 0, ta := true, tb := false, p := 2, x := false, rnd := 0, ovf := 0, dt := 9, st := 9, imm := 0 }), (.viota { ring := r0, vd := 1, va := 0, vb := 1, ta := false, tb := false, p := 2, x := false, rnd := 0, ovf := 0, dt := 9, st := 9, imm := 0 })]),
  ((.vscan { ring := r0, vd := 1, va := 2, vb := 0, ta := false, tb := false, p := 0, x := false, rnd := 2, ovf := 0, dt := 1, st := 1, imm := 0 }), [(.vscan { ring := r0, vd := 1, va := 2, vb := 0, ta := false, tb := false, p := 0, x := false, rnd := 2, ovf := 0, dt := 2, st := 1, imm := 0 }), (.vscan { ring := r0, vd := 1, va := 2, vb := 1, ta := false, tb := false, p := 0, x := false, rnd := 2, ovf := 0, dt := 1, st := 1, imm := 0 })]),
  ((.mlease { ring := r0, k := 1, pri := 0, b := 5, tb := true, sus := false }), [(.mlease { ring := r0, k := 1, pri := 0, b := 60, tb := true, sus := false }), (.mlease { ring := r0, k := 1, pri := 0, b := 0, tb := true, sus := false })]),
  ((.mma { ring := r0, k := 1, pri := 0, dt := false, ha := 0, hb := 0, z := false, acc := 0, ga := 1, ta := false, gb := 2, tb := false, gs := 3, ts := false, gsa := 0, tsa := false, gsb := 0, tsb := false, bufa := 0, bufb := 0 }), [(.mma { ring := r0, k := 1, pri := 0, dt := false, ha := 0, hb := 0, z := false, acc := 0, ga := 60, ta := false, gb := 2, tb := false, gs := 3, ts := false, gsa := 0, tsa := false, gsb := 0, tsb := false, bufa := 0, bufb := 0 }), (.mma { ring := r0, k := 1, pri := 0, dt := false, ha := 0, hb := 0, z := false, acc := 0, ga := 1, ta := false, gb := 60, tb := false, gs := 3, ts := false, gsa := 0, tsa := false, gsb := 0, tsb := false, bufa := 0, bufb := 0 }), (.mma { ring := r0, k := 1, pri := 0, dt := false, ha := 0, hb := 0, z := false, acc := 0, ga := 1, ta := false, gb := 2, tb := false, gs := 60, ts := false, gsa := 0, tsa := false, gsb := 0, tsb := false, bufa := 0, bufb := 0 }), (.mma { ring := r0, k := 1, pri := 0, dt := false, ha := 0, hb := 0, z := false, acc := 0, ga := 1, ta := false, gb := 2, tb := false, gs := 3, ts := false, gsa := 60, tsa := false, gsb := 0, tsb := false, bufa := 0, bufb := 0 }), (.mma { ring := r0, k := 1, pri := 0, dt := false, ha := 0, hb := 0, z := false, acc := 0, ga := 1, ta := false, gb := 2, tb := false, gs := 3, ts := false, gsa := 0, tsa := false, gsb := 60, tsb := false, bufa := 0, bufb := 0 }), (.mma { ring := r0, k := 1, pri := 0, dt := false, ha := 0, hb := 0, z := false, acc := 0, ga := 1, ta := false, gb := 2, tb := false, gs := 3, ts := false, gsa := 0, tsa := true, gsb := 0, tsb := false, bufa := 0, bufb := 0 }), (.mma { ring := r0, k := 1, pri := 0, dt := false, ha := 0, hb := 0, z := false, acc := 0, ga := 1, ta := false, gb := 2, tb := false, gs := 3, ts := false, gsa := 0, tsa := false, gsb := 0, tsb := true, bufa := 0, bufb := 0 })]),
  ((.mdrain { ring := r0, k := 1, pri := 0, dt := false, h := 0, z := false, rnd := 0, ovf := 0, acc := 0, gt := 1, tt := false, gs := 2, ts := false, buf := 0 }), [(.mdrain { ring := r0, k := 1, pri := 0, dt := false, h := 0, z := false, rnd := 0, ovf := 0, acc := 0, gt := 60, tt := false, gs := 2, ts := false, buf := 0 }), (.mdrain { ring := r0, k := 1, pri := 0, dt := false, h := 0, z := false, rnd := 0, ovf := 0, acc := 0, gt := 1, tt := false, gs := 0, ts := true, buf := 0 })]),
  ((.cpy { ring := r0, k := 1, pri := 0, dt := false, hd := 0, hs := 0, dc := true, gd := 1, td := false, gs := 2, ts := false, yd := 0, ys := 0, buf := 0, dfmt := 7, rnd := 1, ovf := 0, pat := true, esz := 0, gn := 3, tn := false, che := true, ch := 2 }), [(.cpy { ring := r0, k := 1, pri := 0, dt := false, hd := 0, hs := 0, dc := false, gd := 1, td := false, gs := 2, ts := false, yd := 0, ys := 0, buf := 0, dfmt := 7, rnd := 1, ovf := 0, pat := true, esz := 0, gn := 3, tn := false, che := true, ch := 2 }), (.cpy { ring := r0, k := 1, pri := 0, dt := false, hd := 0, hs := 0, dc := true, gd := 1, td := false, gs := 2, ts := false, yd := 0, ys := 0, buf := 0, dfmt := 10, rnd := 1, ovf := 0, pat := true, esz := 0, gn := 3, tn := false, che := true, ch := 2 }), (.cpy { ring := r0, k := 1, pri := 0, dt := false, hd := 0, hs := 0, dc := true, gd := 1, td := false, gs := 2, ts := false, yd := 0, ys := 0, buf := 0, dfmt := 12, rnd := 1, ovf := 0, pat := true, esz := 0, gn := 3, tn := false, che := true, ch := 2 }), (.cpy { ring := r0, k := 1, pri := 0, dt := false, hd := 0, hs := 0, dc := true, gd := 1, td := false, gs := 2, ts := false, yd := 0, ys := 0, buf := 0, dfmt := 5, rnd := 1, ovf := 0, pat := true, esz := 0, gn := 3, tn := false, che := true, ch := 2 }), (.cpy { ring := r0, k := 1, pri := 0, dt := false, hd := 0, hs := 0, dc := true, gd := 1, td := false, gs := 2, ts := false, yd := 0, ys := 0, buf := 0, dfmt := 0, rnd := 1, ovf := 0, pat := false, esz := 0, gn := 3, tn := false, che := true, ch := 2 }), (.cpy { ring := r0, k := 1, pri := 0, dt := false, hd := 0, hs := 0, dc := true, gd := 1, td := false, gs := 2, ts := false, yd := 0, ys := 0, buf := 0, dfmt := 7, rnd := 1, ovf := 0, pat := true, esz := 0, gn := 3, tn := false, che := false, ch := 2 }), (.cpy { ring := r0, k := 1, pri := 0, dt := false, hd := 0, hs := 0, dc := true, gd := 60, td := false, gs := 2, ts := false, yd := 0, ys := 0, buf := 0, dfmt := 7, rnd := 1, ovf := 0, pat := true, esz := 0, gn := 3, tn := false, che := true, ch := 2 }), (.cpy { ring := r0, k := 1, pri := 0, dt := false, hd := 0, hs := 0, dc := true, gd := 1, td := false, gs := 2, ts := false, yd := 0, ys := 0, buf := 0, dfmt := 7, rnd := 1, ovf := 0, pat := true, esz := 0, gn := 0, tn := true, che := true, ch := 2 })]),
  ((.cpyg { c := { ring := r0, k := 1, pri := 0, dt := false, hd := 0, hs := 0, dc := false, gd := 0, td := false, gs := 0, ts := false, yd := 0, ys := 0, buf := 0, dfmt := 0, rnd := 0, ovf := 0, pat := false, esz := 0, gn := 0, tn := false, che := false, ch := 0 }, hi := 0, gi := 1, ti := true, gc := 2, tc := true }), [(.cpyg { c := { ring := r0, k := 1, pri := 0, dt := false, hd := 0, hs := 0, dc := false, gd := 0, td := false, gs := 0, ts := false, yd := 0, ys := 0, buf := 0, dfmt := 0, rnd := 0, ovf := 0, pat := false, esz := 0, gn := 0, tn := false, che := false, ch := 0 }, hi := 0, gi := 0, ti := true, gc := 2, tc := true }), (.cpyg { c := { ring := r0, k := 1, pri := 0, dt := false, hd := 0, hs := 0, dc := false, gd := 0, td := false, gs := 0, ts := false, yd := 0, ys := 0, buf := 0, dfmt := 0, rnd := 0, ovf := 0, pat := false, esz := 0, gn := 0, tn := false, che := false, ch := 0 }, hi := 0, gi := 1, ti := true, gc := 0, tc := true }), (.cpyg { c := { ring := r0, k := 1, pri := 0, dt := false, hd := 0, hs := 0, dc := false, gd := 0, td := false, gs := 0, ts := false, yd := 0, ys := 0, buf := 0, dfmt := 0, rnd := 0, ovf := 0, pat := false, esz := 0, gn := 0, tn := false, che := false, ch := 0 }, hi := 0, gi := 60, ti := true, gc := 2, tc := true })]),
  ((.cpys { c := { ring := r0, k := 1, pri := 0, dt := false, hd := 0, hs := 0, dc := false, gd := 0, td := false, gs := 0, ts := false, yd := 0, ys := 0, buf := 0, dfmt := 0, rnd := 0, ovf := 0, pat := false, esz := 0, gn := 0, tn := false, che := false, ch := 0 }, hi := 0, gi := 1, ti := false, gc := 2, tc := false }), [(.cpys { c := { ring := r0, k := 1, pri := 0, dt := false, hd := 0, hs := 0, dc := true, gd := 0, td := false, gs := 0, ts := false, yd := 0, ys := 0, buf := 0, dfmt := 0, rnd := 0, ovf := 0, pat := false, esz := 0, gn := 0, tn := false, che := false, ch := 0 }, hi := 0, gi := 1, ti := false, gc := 2, tc := false }), (.cpys { c := { ring := r0, k := 1, pri := 0, dt := false, hd := 0, hs := 0, dc := false, gd := 0, td := false, gs := 0, ts := false, yd := 0, ys := 0, buf := 0, dfmt := 0, rnd := 0, ovf := 0, pat := false, esz := 0, gn := 0, tn := false, che := false, ch := 0 }, hi := 0, gi := 1, ti := false, gc := 60, tc := false })])] = true := by decide

/-- Well-formed terms, and ill-formed ones that differ in the field under check: reduce copy, fill, channel, channel read, packet, remote store, remote load, remote atomic, reduce (R76, R80, R81 and the entries). -/
theorem test_wellformed_6 : refuses [
  ((.cpyr { c := { ring := r0, k := 1, pri := 0, dt := false, hd := 0, hs := 0, dc := false, gd := 0, td := false, gs := 0, ts := false, yd := 0, ys := 0, buf := 0, dfmt := 1, rnd := 0, ovf := 0, pat := false, esz := 0, gn := 0, tn := false, che := false, ch := 0 }, op := 0 }), [(.cpyr { c := { ring := r0, k := 1, pri := 0, dt := false, hd := 0, hs := 0, dc := true, gd := 0, td := false, gs := 0, ts := false, yd := 0, ys := 0, buf := 0, dfmt := 1, rnd := 0, ovf := 0, pat := false, esz := 0, gn := 0, tn := false, che := false, ch := 0 }, op := 0 }), (.cpyr { c := { ring := r0, k := 1, pri := 0, dt := false, hd := 0, hs := 0, dc := false, gd := 0, td := false, gs := 0, ts := false, yd := 0, ys := 0, buf := 0, dfmt := 1, rnd := 0, ovf := 0, pat := false, esz := 0, gn := 0, tn := false, che := true, ch := 0 }, op := 0 }), (.cpyr { c := { ring := r0, k := 1, pri := 0, dt := false, hd := 0, hs := 0, dc := false, gd := 0, td := false, gs := 0, ts := false, yd := 0, ys := 0, buf := 0, dfmt := 1, rnd := 0, ovf := 0, pat := false, esz := 0, gn := 0, tn := false, che := false, ch := 1 }, op := 0 }), (.cpyr { c := { ring := r0, k := 1, pri := 0, dt := false, hd := 0, hs := 0, dc := false, gd := 0, td := false, gs := 0, ts := false, yd := 0, ys := 0, buf := 0, dfmt := 1, rnd := 0, ovf := 0, pat := true, esz := 0, gn := 0, tn := false, che := false, ch := 0 }, op := 0 })]),
  ((.cfill { ring := r0, k := 1, pri := 0, dt := false, hd := 0, gv := 4, tv := false, gd := 0, td := false, yd := 0, gn := 0, tn := false, che := false, ch := 0, buf := 0 }), [(.cfill { ring := r0, k := 1, pri := 0, dt := false, hd := 0, gv := 4, tv := false, gd := 0, td := false, yd := 0, gn := 0, tn := false, che := false, ch := 1, buf := 0 }), (.cfill { ring := r0, k := 1, pri := 0, dt := false, hd := 0, gv := 60, tv := false, gd := 0, td := false, yd := 0, gn := 0, tn := false, che := false, ch := 0, buf := 0 })]),
  ((.chbind { ring := r0, k := 1, pri := 0, dt := false, se := false, c := 0, h := 0, go := 1, te := false, gl := 2, tl := false }), [(.chbind { ring := r0, k := 1, pri := 0, dt := false, se := false, c := 0, h := 0, go := 60, te := false, gl := 2, tl := false }), (.chbind { ring := r0, k := 1, pri := 0, dt := false, se := false, c := 0, h := 0, go := 1, te := false, gl := 0, tl := true })]),
  ((.chrd { ring := r0, k := 1, pri := 0, dt := false, se := false, c := 0, gp := 1, tp := false }), [(.chrd { ring := r0, k := 1, pri := 0, dt := false, se := false, c := 0, gp := 60, tp := false }), (.chrd { ring := r0, k := 1, pri := 0, dt := false, se := false, c := 0, gp := 0, tp := true })]),
  ((.pkset { ring := r0, k := 0, pri := 0, dt := false, n := 15, cnt := 0 }), [(.pkset { ring := r0, k := 0, pri := 0, dt := false, n := 15, cnt := 1 })]),
  ((.xst { ring := r0, k := 1, pri := 0, dt := false, hd := 0, hs := 0, gd := 0, td := false, gs := 0, ts := false, yd := 0, ys := 0, buf := 0, gf := 5, tf := false, gn := 0, tn := false, grp := 0 }), [(.xst { ring := r0, k := 1, pri := 0, dt := false, hd := 0, hs := 0, gd := 0, td := false, gs := 0, ts := false, yd := 0, ys := 0, buf := 0, gf := 60, tf := false, gn := 0, tn := false, grp := 0 }), (.xst { ring := r0, k := 1, pri := 0, dt := false, hd := 0, hs := 0, gd := 0, td := false, gs := 0, ts := false, yd := 0, ys := 0, buf := 0, gf := 0, tf := true, gn := 0, tn := false, grp := 0 })]),
  ((.xld { ring := r0, k := 1, pri := 0, dt := false, hd := 0, hs := 0, gd := 0, td := false, gs := 0, ts := false, yd := 0, ys := 0, buf := 0, gn := 0, tn := false, che := false, ch := 0 }), [(.xld { ring := r0, k := 1, pri := 0, dt := false, hd := 0, hs := 0, gd := 0, td := false, gs := 0, ts := false, yd := 0, ys := 0, buf := 0, gn := 0, tn := false, che := false, ch := 1 }), (.xld { ring := r0, k := 1, pri := 0, dt := false, hd := 0, hs := 0, gd := 0, td := false, gs := 0, ts := false, yd := 0, ys := 0, buf := 0, gn := 60, tn := false, che := false, ch := 0 })]),
  ((.xamo { ring := r0, k := 1, pri := 0, dt := false, h := 0, op := 9, ord := 0, sz := 3, go := 0, te := false, gv := 0, tv := false, gc := 4, tc := false, gp := 0, tp := false }), [(.xamo { ring := r0, k := 1, pri := 0, dt := false, h := 0, op := 8, ord := 0, sz := 3, go := 0, te := false, gv := 0, tv := false, gc := 4, tc := false, gp := 0, tp := false }), (.xamo { ring := r0, k := 1, pri := 0, dt := false, h := 0, op := 9, ord := 0, sz := 1, go := 0, te := false, gv := 0, tv := false, gc := 4, tc := false, gp := 0, tp := false }), (.xamo { ring := r0, k := 1, pri := 0, dt := false, h := 0, op := 10, ord := 0, sz := 3, go := 0, te := false, gv := 0, tv := false, gc := 0, tc := false, gp := 0, tp := false }), (.xamo { ring := r0, k := 1, pri := 0, dt := false, h := 0, op := 9, ord := 0, sz := 3, go := 0, te := false, gv := 60, tv := false, gc := 4, tc := false, gp := 0, tp := false })]),
  ((.car { ring := r0, k := 1, pri := 0, dt := false, hd := 0, hs := 0, exact := false, gd := 0, td := false, gs := 0, ts := false, yd := 0, ys := 0, buf := 0, comm := 3, efmt := 0, rnd := 0, ovf := 0, op := 2, gn := 0, tn := false, ent := 0, groot := 0, troot := false }), [(.car { ring := r0, k := 1, pri := 0, dt := false, hd := 0, hs := 0, exact := false, gd := 0, td := false, gs := 0, ts := false, yd := 0, ys := 0, buf := 0, comm := 3, efmt := 0, rnd := 0, ovf := 0, op := 3, gn := 0, tn := false, ent := 0, groot := 0, troot := false }), (.car { ring := r0, k := 1, pri := 0, dt := false, hd := 0, hs := 0, exact := true, gd := 0, td := false, gs := 0, ts := false, yd := 0, ys := 0, buf := 0, comm := 3, efmt := 0, rnd := 0, ovf := 0, op := 2, gn := 0, tn := false, ent := 0, groot := 0, troot := false }), (.car { ring := r0, k := 1, pri := 0, dt := false, hd := 0, hs := 0, exact := false, gd := 0, td := false, gs := 0, ts := false, yd := 0, ys := 0, buf := 0, comm := 3, efmt := 0, rnd := 0, ovf := 0, op := 2, gn := 0, tn := false, ent := 0, groot := 1, troot := false }), (.car { ring := r0, k := 1, pri := 0, dt := false, hd := 0, hs := 0, exact := false, gd := 0, td := false, gs := 0, ts := false, yd := 0, ys := 0, buf := 0, comm := 3, efmt := 0, rnd := 0, ovf := 0, op := 2, gn := 0, tn := false, ent := 0, groot := 0, troot := true })])] = true := by decide

/-- Well-formed terms, and ill-formed ones that differ in the field under check: gather all, broadcast all, barrier all, send, receive, remote write, wait token, adopt, fault record (R76, R80, R81 and the entries). -/
theorem test_wellformed_7 : refuses [
  ((.cag { ring := r0, k := 1, pri := 0, dt := false, hd := 0, hs := 0, exact := false, gd := 0, td := false, gs := 0, ts := false, yd := 0, ys := 0, buf := 0, comm := 3, efmt := 0, rnd := 0, ovf := 0, op := 0, gn := 0, tn := false, ent := 0, groot := 0, troot := false }), [(.cag { ring := r0, k := 1, pri := 0, dt := false, hd := 0, hs := 0, exact := true, gd := 0, td := false, gs := 0, ts := false, yd := 0, ys := 0, buf := 0, comm := 3, efmt := 0, rnd := 0, ovf := 0, op := 0, gn := 0, tn := false, ent := 0, groot := 0, troot := false }), (.cag { ring := r0, k := 1, pri := 0, dt := false, hd := 0, hs := 0, exact := false, gd := 0, td := false, gs := 0, ts := false, yd := 0, ys := 0, buf := 0, comm := 3, efmt := 1, rnd := 0, ovf := 0, op := 0, gn := 0, tn := false, ent := 0, groot := 0, troot := false }), (.cag { ring := r0, k := 1, pri := 0, dt := false, hd := 0, hs := 0, exact := false, gd := 0, td := false, gs := 0, ts := false, yd := 0, ys := 0, buf := 0, comm := 3, efmt := 0, rnd := 1, ovf := 0, op := 0, gn := 0, tn := false, ent := 0, groot := 0, troot := false }), (.cag { ring := r0, k := 1, pri := 0, dt := false, hd := 0, hs := 0, exact := false, gd := 0, td := false, gs := 0, ts := false, yd := 0, ys := 0, buf := 0, comm := 3, efmt := 0, rnd := 0, ovf := 1, op := 0, gn := 0, tn := false, ent := 0, groot := 0, troot := false }), (.cag { ring := r0, k := 1, pri := 0, dt := false, hd := 0, hs := 0, exact := false, gd := 0, td := false, gs := 0, ts := false, yd := 0, ys := 0, buf := 0, comm := 3, efmt := 0, rnd := 0, ovf := 0, op := 1, gn := 0, tn := false, ent := 0, groot := 0, troot := false }), (.cag { ring := r0, k := 1, pri := 0, dt := false, hd := 0, hs := 0, exact := false, gd := 0, td := false, gs := 0, ts := false, yd := 0, ys := 0, buf := 0, comm := 3, efmt := 0, rnd := 0, ovf := 0, op := 0, gn := 0, tn := false, ent := 0, groot := 1, troot := false })]),
  ((.cbc { ring := r0, k := 1, pri := 0, dt := false, hd := 0, hs := 0, exact := false, gd := 0, td := false, gs := 0, ts := false, yd := 0, ys := 0, buf := 0, comm := 0, efmt := 0, rnd := 0, ovf := 0, op := 0, gn := 0, tn := false, ent := 0, groot := 5, troot := true }), [(.cbc { ring := r0, k := 1, pri := 0, dt := false, hd := 0, hs := 0, exact := false, gd := 0, td := false, gs := 0, ts := false, yd := 0, ys := 0, buf := 0, comm := 0, efmt := 1, rnd := 0, ovf := 0, op := 0, gn := 0, tn := false, ent := 0, groot := 5, troot := true }), (.cbc { ring := r0, k := 1, pri := 0, dt := false, hd := 0, hs := 0, exact := false, gd := 0, td := false, gs := 0, ts := false, yd := 0, ys := 0, buf := 0, comm := 0, efmt := 0, rnd := 0, ovf := 0, op := 0, gn := 0, tn := false, ent := 0, groot := 0, troot := true }), (.cbc { ring := r0, k := 1, pri := 0, dt := false, hd := 0, hs := 0, exact := false, gd := 0, td := false, gs := 0, ts := false, yd := 0, ys := 0, buf := 0, comm := 0, efmt := 0, rnd := 0, ovf := 0, op := 0, gn := 0, tn := false, ent := 0, groot := 60, troot := true })]),
  ((.cbar { ring := r0, k := 1, pri := 0, dt := false, comm := 0, gn := 5, tn := false }), [(.cbar { ring := r0, k := 1, pri := 0, dt := false, comm := 0, gn := 60, tn := false }), (.cbar { ring := r0, k := 1, pri := 0, dt := false, comm := 0, gn := 0, tn := true })]),
  ((.nsend { ring := r0, k := 1, pri := 0, dt := false, he := 0, hs := 0, mode := 2, gp := 0, tp := false, gs := 0, ts := false, ys := 0, buf := 0, gt := 0, tt := false, gn := 0, tn := false, ent := 0 }), [(.nsend { ring := r0, k := 1, pri := 0, dt := false, he := 0, hs := 0, mode := 1, gp := 0, tp := false, gs := 0, ts := false, ys := 0, buf := 0, gt := 0, tt := false, gn := 0, tn := false, ent := 0 }), (.nsend { ring := r0, k := 1, pri := 0, dt := false, he := 0, hs := 0, mode := 3, gp := 0, tp := false, gs := 0, ts := false, ys := 0, buf := 0, gt := 0, tt := false, gn := 0, tn := false, ent := 0 }), (.nsend { ring := r0, k := 1, pri := 0, dt := false, he := 0, hs := 0, mode := 2, gp := 60, tp := false, gs := 0, ts := false, ys := 0, buf := 0, gt := 0, tt := false, gn := 0, tn := false, ent := 0 })]),
  ((.nrecv { ring := r0, k := 1, pri := 0, dt := false, he := 0, hd := 0, mode := 0, gp := 0, tp := false, gd := 0, td := false, yd := 0, buf := 0, gt := 0, tt := false, gn := 0, tn := false, gm := 0, tm := false }), [(.nrecv { ring := r0, k := 1, pri := 0, dt := false, he := 0, hd := 0, mode := 1, gp := 0, tp := false, gd := 0, td := false, yd := 0, buf := 0, gt := 0, tt := false, gn := 0, tn := false, gm := 0, tm := false }), (.nrecv { ring := r0, k := 1, pri := 0, dt := false, he := 0, hd := 0, mode := 0, gp := 0, tp := false, gd := 0, td := false, yd := 0, buf := 0, gt := 0, tt := false, gn := 0, tn := false, gm := 60, tm := false })]),
  ((.nwrite { ring := r0, k := 1, pri := 0, dt := false, he := 0, hl := 0, mode := 1, gp := 0, tp := false, gl := 0, tl := false, yl := 0, buf := 0, gr := 0, tr := false, gn := 0, tn := false, ent := 0, region := 0 }), [(.nwrite { ring := r0, k := 1, pri := 0, dt := false, he := 0, hl := 0, mode := 3, gp := 0, tp := false, gl := 0, tl := false, yl := 0, buf := 0, gr := 0, tr := false, gn := 0, tn := false, ent := 0, region := 0 }), (.nwrite { ring := r0, k := 1, pri := 0, dt := false, he := 0, hl := 0, mode := 1, gp := 0, tp := false, gl := 0, tl := false, yl := 0, buf := 0, gr := 60, tr := false, gn := 0, tn := false, ent := 0, region := 0 })]),
  ((.opwait { ring := r0, k := 1, d := 3, sus := true }), [(.opwait { ring := r0, k := 1, d := 4, sus := true }), (.opwait { ring := r0, k := 1, d := 60, sus := false })]),
  ((.opadopt { ring := r0, k := 1, a := 3, ta := true }), [(.opadopt { ring := r0, k := 1, a := 0, ta := true }), (.opadopt { ring := r0, k := 1, a := 60, ta := true })]),
  ((.opfault { ring := r0, k := 1, d := 57 }), [(.opfault { ring := r0, k := 1, d := 0 }), (.opfault { ring := r0, k := 1, d := 58 }), (.opfault { ring := r0, k := 1, d := 60 })])] = true := by decide

/-- Well-formed terms, and ill-formed ones that differ in the field under check: spawn, range, claim, identifier, load handle, narrow, handle field, handle check, exchange (R76, R80, R81 and the entries). -/
theorem test_wellformed_8 : refuses [
  ((.kspawn { ring := r0, d := 1, w := 2, tw := false, free := false, pri := 3, inh := false, imm := 0 }), [(.kspawn { ring := r0, d := 1, w := 2, tw := false, free := false, pri := 3, inh := true, imm := 0 }), (.kspawn { ring := r0, d := 60, w := 2, tw := false, free := false, pri := 3, inh := false, imm := 0 }), (.kspawn { ring := r0, d := 1, w := 60, tw := false, free := false, pri := 3, inh := false, imm := 0 })]),
  ((.krange { ring := r0, d := 1, a := 2, ta := false, b := 3, tb := false, off := 0 }), [(.krange { ring := r0, d := 60, a := 2, ta := false, b := 3, tb := false, off := 0 }), (.krange { ring := r0, d := 1, a := 60, ta := false, b := 3, tb := false, off := 0 }), (.krange { ring := r0, d := 1, a := 2, ta := false, b := 0, tb := true, off := 0 })]),
  ((.knext { ring := r0, d := 59 }), [(.knext { ring := r0, d := 60 })]),
  ((.widf { ring := r0, d := 59, n := 7 }), [(.widf { ring := r0, d := 60, n := 7 })]),
  ((.hld { ring := r0, y := true, reg := 7, b := 1, tb := false }), [(.hld { ring := r0, y := true, reg := 8, b := 1, tb := false }), (.hld { ring := r0, y := true, reg := 7, b := 60, tb := false })]),
  ((.hnarrow { ring := r0, hd := 0, hs := 0, go := 1, te := false, gl := 2, tl := false, mask := 0 }), [(.hnarrow { ring := r0, hd := 0, hs := 0, go := 60, te := false, gl := 2, tl := false, mask := 0 }), (.hnarrow { ring := r0, hd := 0, hs := 0, go := 1, te := false, gl := 0, tl := true, mask := 0 })]),
  ((.hinfo { ring := r0, d := 60, h := 0, n := 5 }), [(.hinfo { ring := r0, d := 60, h := 0, n := 6 })]),
  ((.hchk { ring := r0, d := 60, h := 0, a := 2 }), [(.hchk { ring := r0, d := 60, h := 0, a := 60 })]),
  ((.csrx { ring := r0, d := 60, csr := 0, a := 61, ta := false, op := 2 }), [(.csrx { ring := r0, d := 60, csr := 0, a := 61, ta := false, op := 3 }), (.csrx { ring := r0, d := 60, csr := 0, a := 0, ta := true, op := 2 })])] = true := by decide

/-- The reserved and refused words of R86, with their causes; SNE is legal. -/
theorem test_words_refused : wordsRefused [([0x07A00000], 0x001), ([0x02408460], 0x001), ([0x00400001], 0x003),
    ([0x03A48000, 0x11234567], 0x002), ([0x0800F840], 0x004), ([0x0B031000], 0x007)] = true := by decide +kernel

/-! ### Witnesses for the results of instructions -/

/-- A running context whose registers are full, whose queues hold entries and have room, and whose ring counters are not zero. -/
def full : Context :=
  { run := true, g := Vector.replicate 60 0x1000, sAE := Vector.replicate 4 [0x1000, 0x1000, 0x1000, 0x1000, 0x1000], sEA := Vector.replicate 4 [0x1000, 0x1000, 0x1000, 0x1000, 0x1000],
    vAE := Vector.replicate 4 [0, 0, 0], vEA := Vector.replicate 4 [0, 0, 0], ring := Vector.replicate 8 5 }

/-- A state in which that context runs in a mapped page that can be read and written. -/
def ready : State :=
  let s := State.reset.withFetchWord 32 0
  { s with x := full, mem := memWrite s.mem 0x110000 (leBytes 16 (0x20002F + 2 ^ 97)) }

/-- The instructions of a list of words. -/
def insts (l : List (List IWord × Instr)) : List Instr := l.map (·.2)

/-- The hypotheses of `results` hold of an instruction in a state. -/
def meetsResults (table : Instr → Option Scalar) (s : State) (i : Instr) : Bool :=
  match table i with
  | some f => (issueReads s f.ring f.reads).any (fun r => roomG r.2 f.dest)
  | none => false

def meetsLater (table : Instr → Option Scalar) (s : State) (i : Instr) : Bool :=
  match table i with
  | some f => (issueReads s f.ring f.reads).any (fun r => mayOwe r.2 f.dest)
  | none => false

/-- The state with the execute side behind, so that an M instruction joins its stream. -/
def lagging (s : State) : State := { s with lag := true }

/-- The state at the execute side's turn with the M instruction `i` at the head of its stream, as the access side passed it. -/
def standing (s : State) (i : Instr) (fs : List SrcF) : State :=
  let e : Entry := { pc := s.x.pc, words := encode i, exec := true, waited := false, caps := sent s.x fs, cont := false, prog := 0 }
  { s with eside := true, x := { s.x with stream := [.instr e] } }

/-- The sources of an M instruction at the head of the stream. -/
def headSrcs (s : State) (i : Instr) (r : Ring) (fs : List SrcF) : Option (List Src × Context) :=
  (headReads (standing s i fs) r fs (sent s.x fs)).bind (fun q => if q.1.all Option.isSome then some (q.1.filterMap id, q.2) else none)

/-- An M instruction can join the stream of a side that lags, gets its sources at its head, and gets them at issue where the side has caught up;
`p` accepts what it reads. -/
def executes (s : State) (i : Instr) (r : Ring) (fs : List SrcF) (p : List Src → Context → Bool) : Bool :=
  (lagging s).x.cur.isNone && !(lagging s).eside && streamRoom (lagging s).x && forwarded (lagging s).x fs &&
    (headSrcs s i r fs).any (fun q => p q.1 q.2) && (executeReads s r fs).any (fun q => p q.1 q.2)

def meetsLate (table : Instr → Option Late) (s : State) (i : Instr) : Bool :=
  match table i with
  | some f => executes s i f.ring f.reads (fun _ x => f.room x)
  | none => false

def meetsLanes (table : Instr → Option Lanes) (s : State) (i : Instr) : Bool :=
  match table i with
  | some f => executes s i f.ring f.reads (fun vs x => f.takes (f.type x) && calm x vs f && roomV x f.dest)
  | none => false

def meetsLanesLater (table : Instr → Option Lanes) (s : State) (i : Instr) : Bool :=
  match table i with
  | some f => executes s i f.ring f.reads (fun vs x => f.takes (f.type x) && calm x vs f && mayOweV x f.dest)
  | none => false

def meetsEffect (table : Instr → Option Effect) (s : State) (i : Instr) : Bool :=
  match table i with
  | some f => (issueCaptures s .P f.ring f.reads).any (fun r => f.ready (issued i s r.1 r.2) r.1)
  | none => false

def meetsAccess (table : Instr → Option Operation) (s : State) (i : Instr) : Bool :=
  match table i with
  | some o => (issueCaptures s (engMember (o.eng s.x)) o.ring o.reads).any (fun r =>
      !streamOwesK r.2 o.k && roomOp { s with x := r.2 } (o.eng r.2))
  | none => false

/-- The sources of an operation of the matrix sequencer at the head of the stream. -/
def headOp (s : State) (i : Instr) (fs : List SrcF) : Option (List Src × Context) :=
  match capture true false fs (sent s.x fs) (standing s i fs).x with
  | (cs, y, .ok) => if cs.all Option.isSome then some (cs.filterMap id, y) else none
  | _ => none

def meetsExecute (table : Instr → Option Operation) (s : State) (i : Instr) : Bool :=
  match table i with
  | some o =>
    let room (u : State) (q : List Src × Context) : Bool := roomOp { u with x := q.2 } (o.eng q.2)
    (lagging s).x.cur.isNone && !(lagging s).eside && streamRoom (lagging s).x && forwarded (lagging s).x o.reads &&
      (headOp s i o.reads).any (room (standing s i o.reads)) && (executeOp s o.reads).any (room s)
  | none => false

/-- The list has `n` instructions of a table, and the hypotheses hold of each. -/
def covers {α : Type} (n : Nat) (table : Instr → Option α) (meets : (Instr → Option α) → State → Instr → Bool) (s : State)
    (l : List Instr) : Bool :=
  (l.filter (fun i => (table i).isSome)).length == n && l.all (fun i => (table i).isNone || meets table s i)

/-- What the first check says: the hypotheses of the statement's form, all together. -/
theorem meetsResults_says {table s i} (h : meetsResults table s i = true) :
    ∃ f ws x, table i = some f ∧ issueReads s f.ring f.reads = some (ws, x) ∧ roomG x f.dest = true := by
  unfold meetsResults at h
  split at h
  · obtain ⟨⟨ws, x⟩, hr, hx⟩ := (Option.any_eq_true ..).mp h
    exact ⟨_, ws, x, ‹_›, hr, hx⟩
  · cases h

/-- The same of the form for effects. -/
theorem meetsEffect_says {table s i} (h : meetsEffect table s i = true) :
    ∃ f caps x, table i = some f ∧ issueCaptures s .P f.ring f.reads = some (caps, x) ∧ f.ready (issued i s caps x) caps = true := by
  unfold meetsEffect at h
  split at h
  · obtain ⟨⟨caps, x⟩, hr, hx⟩ := (Option.any_eq_true ..).mp h
    exact ⟨_, caps, x, ‹_›, hr, hx⟩
  · cases h

/-- The same of the forms for the execute side, at issue. -/
theorem executes_says {s i r fs p} (h : executes s i r fs p = true) :
    ∃ vs x, mReads false [] i s r fs vs x ∧ p vs x = true := by
  simp only [executes, Bool.and_eq_true] at h
  obtain ⟨⟨vs, x⟩, hr, hx⟩ := (Option.any_eq_true ..).mp h.2
  exact ⟨vs, x, hr, hx⟩

theorem all_some {cs : List (Option Src)} (h : cs.all Option.isSome = true) : cs = (cs.filterMap id).map some := by
  induction cs with
  | nil => rfl
  | cons c cs ih =>
    simp only [List.all_cons, Bool.and_eq_true] at h
    obtain ⟨v, rfl⟩ := Option.isSome_iff_exists.mp h.1
    show some v :: cs = some v :: (cs.filterMap id).map some
    rw [← ih h.2]

/-- The same at the head of the stream. -/
theorem executes_head {s i r fs p} (h : executes s i r fs p = true) :
    ∃ caps vs x, mReads true caps i (standing s i fs) r fs vs x ∧ p vs x = true := by
  simp only [executes, Bool.and_eq_true] at h
  obtain ⟨⟨vs, x⟩, hr, hx⟩ := (Option.any_eq_true ..).mp h.1.2
  obtain ⟨⟨cs, y⟩, hq, he⟩ := Option.bind_eq_some_iff.mp hr
  refine ⟨sent s.x fs, vs, x, ⟨⟨rfl, _, [], rfl, rfl, rfl, rfl⟩, ?_⟩, hx⟩
  simp only at he
  split at he
  · rename_i ha
    obtain ⟨h1, h2⟩ := Prod.mk.inj (Option.some.inj he)
    rw [hq, ← h1, h2, ← all_some ha]
  · cases he

/-- And for an operation of the matrix sequencer. -/
theorem meetsExecute_head {table s i} (h : meetsExecute table s i = true) :
    ∃ o caps vs x, table i = some o ∧ mOpReads true caps i (standing s i o.reads) o.reads vs x ∧
      roomOp { standing s i o.reads with x := x } (o.eng x) = true := by
  unfold meetsExecute at h
  split at h
  · rename_i o ho
    simp only [Bool.and_eq_true] at h
    obtain ⟨⟨vs, x⟩, hq, hr⟩ := (Option.any_eq_true ..).mp h.1.2
    unfold headOp at hq
    split at hq
    · rename_i cs y hc
      split at hq
      · rename_i ha
        obtain ⟨h1, h2⟩ := Prod.mk.inj (Option.some.inj hq)
        refine ⟨o, sent s.x o.reads, vs, x, ho, ⟨⟨rfl, _, [], rfl, rfl, rfl, rfl⟩, ?_⟩, hr⟩
        rw [hc, ← h1, ← h2, ← all_some ha]
      · cases hq
    · cases hq
  · cases h

/-- Every instruction of the table for IntegerResults. -/
theorem witness_integerResults :
    covers 24 integerTable meetsResults ready (insts words_integer_1 ++ insts words_integer_2 ++ insts words_integer_3) = true := by decide +kernel

/-- For both tables of UnaryAndImmediateResults. -/
theorem witness_unaryAndImmediateResults :
    covers 12 unaryTable meetsResults ready (insts words_unary_1 ++ insts words_unary_2) = true ∧
    covers 14 immediateTable meetsResults ready (insts words_immediate_1 ++ insts words_immediate_2) = true := by decide +kernel

theorem witness_floatResults : covers 16 floatTable meetsResults ready (insts words_float_1 ++ insts words_float_2) = true := by decide +kernel

/-- For Division, and operands for each clause of its law. -/
theorem witness_division :
    covers 4 divisionTable meetsLater ready (insts words_integer_1 ++ insts words_integer_2) = true ∧
    ((2#64 : Word) ≠ 0 ∧ ((-7 : Word) ≠ BitVec.intMin 64 ∨ (2 : Word) ≠ -1)) ∧
    (divisionTable (.div ⟨r0, 1, 2, 3, false, false⟩)).isSome = true ∧ (divisionTable (.rem ⟨r0, 1, 2, 3, false, false⟩)).isSome = true ∧
    (divisionTable (.divu ⟨r0, 1, 2, 3, false, false⟩)).isSome = true ∧ (divisionTable (.remu ⟨r0, 1, 2, 3, false, false⟩)).isSome = true := by
  decide +kernel

theorem witness_floatLongResults : covers 2 floatLongTable meetsLater ready (insts words_float_1 ++ insts words_float_2) = true := by decide +kernel

theorem witness_predicateResults : covers 6 predTable meetsLate ready (insts words_predicate_flag) = true := by decide +kernel

/-- A type-13 VIOTA. -/
def viota13 : Instr :=
  .viota { ring := r0, vd := 26, va := 0, vb := 0, ta := false, tb := false, p := 2, x := false, rnd := 0, ovf := 0, dt := 13, st := 13, imm := 0 }

theorem witness_wholeVectorResults :
    covers 8 wholeTable meetsLate ready ((insts words_vector_1 ++ insts words_vector_2 ++ insts words_function_1 ++ insts words_function_2 ++
      (insts words_function_3).filter (fun i => match i with
        | .viota _ => false
        | _ => true)) ++ [viota13]) = true := by decide +kernel

theorem witness_packResults : covers 2 packTable meetsLate ready (insts words_function_1 ++ insts words_function_2 ++ insts words_function_3) = true := by
  decide +kernel

theorem witness_laneArithmetic : covers 7 arithTable meetsLanes ready (insts words_vector_1) = true := by decide +kernel

theorem witness_laneMoves : covers 3 moveTable meetsLanes ready (insts words_vector_1 ++ insts words_vector_2) = true := by decide +kernel

theorem witness_laneBits :
    covers 10 vxBitTable meetsLanes ready (insts words_function_1 ++ insts words_function_2 ++ insts words_function_3) = true := by decide +kernel

theorem witness_conversions :
    covers 2 convertTable meetsLanes ready (insts words_function_1 ++ insts words_function_2 ++ insts words_function_3) = true := by decide +kernel

theorem witness_laneFunctions :
    covers 9 funcTable meetsLanesLater ready (insts words_function_1 ++ insts words_function_2 ++ insts words_function_3) = true := by decide +kernel

/-! ### Witnesses for memory, tasks, tokens, handles and system registers -/

theorem witness_loads : covers 4 Claims.loadTable meetsEffect ready (insts words_memory) = true := by decide +kernel

theorem witness_stores : covers 3 storeTable meetsEffect ready (insts words_memory) = true := by decide +kernel

theorem witness_atomics : covers 11 amoTable meetsEffect ready (insts words_atomic_1 ++ insts words_atomic_2) = true := by decide +kernel

/-- An FWAIT whose flag holds 0, for 0. -/
def fwait0 (sus : Bool) : Instr := .fwait { ring := r0, f := 0, tf := false, v := 0, tv := false, cond := if sus then 1 else 0, sus := sus }

theorem witness_fencesAndSpaces :
    covers 5 fenceTable meetsEffect ready (insts words_wait_fence) = true ∧
    covers 2 addressTable meetsEffect ready (insts words_wait_fence) = true := by decide +kernel

theorem witness_flagsAndWaits :
    covers 4 flagTable meetsEffect ready ((insts words_predicate_flag ++ insts words_wait_fence).filter (fun i => match i with
      | .fwait _ => false
      | _ => true) ++ [fwait0 false]) = true ∧
    covers 1 waitTable meetsEffect ready (insts words_wait_fence) = true := by decide +kernel

theorem witness_blockMoves : covers 2 blockTable meetsEffect ready (insts words_memory) = true := by decide +kernel

/-- A decoding and a plain VLD. -/
def vlds : List Instr := [.vld ⟨r0, 29, 37, true, true, 0⟩, .vld ⟨r0, 29, 37, true, false, 0⟩]

/-- The same state with index vectors that name one element. -/
def oneLane : State :=
  let v : Vec := BitVec.ofNat 2048 (2 ^ 2048 - 2 ^ 32)
  { ready with x := { full with vAE := Vector.replicate 4 [v, v, v], vEA := Vector.replicate 4 [v, v, v] } }

theorem witness_vectorMemory :
    covers 5 vectorMemoryTable meetsEffect oneLane ((insts words_vector_1 ++ insts words_vector_2).filter (fun i => match i with
      | .vld _ => false
      | _ => true) ++ vlds) = true := by decide +kernel

/-- A token-table entry in a state, of an operation of context 0 that captured these registers. -/
def tokenOf (i : Instr) (st : OpState) (owner : Option Nat) (gs : List Word) (hs : List HReg) (ys : List (BitVec 256)) : TokEntry :=
  { state := st, pri := 0, bundle := 0, node := 0, owner := owner, released := false, held := false, scope := 0, done := 0, total := 1, fr := {},
    op := { instr := i, ring := r0, member := 0, ctx := 0, cid := 0, core := 0, gs := gs, hs := hs, ys := ys, seed := 1, pkbase := 0, since := 0,
            seq := 0 },
    waited := true, started := st ≠ .queued, stop := none, flags := 0, lanes := [], todo := none, quit := false }

/-- A matrix clear of one tile. -/
def mzero1 : Instr := .mzero { ring := r0, k := 0, pri := 0, dt := false, acc := 0, cnt := 0 }

/-- A state in which every k and g register holds the token of slot 5, whose operation has ended in `st`. -/
def tokens (st : OpState) : State :=
  { ready with
    x := { full with g := Vector.replicate 60 517, k := Vector.replicate 16 517 }
    clusters := [(0, { toks := [(5, tokenOf mzero1 st none [] [] [])], gens := [(5, 1)], fresh := 6 })] }

theorem witness_tokenInstructions :
    covers 8 tokenTable meetsEffect (tokens .done) (insts words_token_task_1) = true ∧
    (entry (tokens .done) (token (tokens .done) 12)).isSome = true := by decide +kernel

/-- A node whose range is 0 to 16 in fields of 3 and 1 bits, at page 0. -/
def aNode : Node :=
  { kind := 1, group := 1, pri := 0, succ := 0, poolpw := 0, pc := 0, pcend := 0x4000, lo := 0, hi := 16, widths := [3, 1, 0, 0, 0, 0], hcount := 0, htab := 0,
    list := 0, deps := 0, ready := true, retired := false, held := false, clusters := [0] }

/-- A job with two nodes. -/
def aJob : Bundle :=
  { queue := 0, addr := 0, recAddr := 0x1000, key := 0, nodes := [aNode, aNode], resident := 0, nextok := false, pred := none, late := false, logged := false,
    cause := 0, executed := 0, flags := 0, destroyed := false, discarded := false, counters := [], retired := false, seq := 0 }

/-- A state whose current continuation belongs to node 0 of job 1. -/
def inJob : State :=
  { ready with
    x := { full with cont := { cid := 7, bundle := 1, node := 0, wid := 10 } }
    bundles := [(1, aJob)], clusters := [(0, { node := some (1, 0) })], nextId := 8 }

theorem witness_taskInstructions :
    covers 8 taskTable meetsEffect inJob ((insts words_token_task_1 ++ insts words_token_task_2).filter (fun i => match i with
      | .depdec _ => false
      | _ => true) ++ [.depdec ⟨r0, 2⟩]) = true := by decide +kernel

/-- WIDF of field 0, of the whole identifier and of its place in the group, in a node that is resident. -/
theorem witness_workIdentifierFields : ∀ n ∈ [(0 : BitVec 3), 6, 7],
    (∃ x, issueCaptures inJob .P r0 [] = some ([], x) ∧ roomG x 5 = true) ∧ n ≤ 7 ∧ (nodeOf inJob 1 0).isSome = true := by
  have h : issueCaptures inJob .P r0 [] = some ([], inJob.x) := rfl
  have g : roomG inJob.x 5 = true ∧ (nodeOf inJob 1 0).isSome = true := by decide +kernel
  intro n hn
  refine ⟨⟨_, h, g.1⟩, ?_, g.2⟩
  revert n
  decide

/-- A state whose handle registers hold a live handle with every right. -/
def handles : State :=
  { ready with x := { full with h := Vector.replicate 32 ⟨1#256 <<< 172 ||| 0xFF#256 <<< 112 ||| 0x100000#256 <<< 64, 0⟩ } }

theorem witness_handleInstructions : covers 7 Claims.handleTable meetsEffect handles (insts words_handle_system_1) = true := by
  decide +kernel

/-- CSR instructions on registers that exist. -/
def csrs : List Instr :=
  [.csrr ⟨r0, 43, 0x007⟩, .csrw ⟨r0, 58, 0x002⟩, .csrx ⟨r0, 37, 0x030, 29, false, 2⟩, .pmcrd ⟨r0, 5, 6, false⟩, .timerd ⟨r0, 5⟩]

theorem witness_systemRegisters : covers 5 systemTable meetsEffect ready csrs = true := by decide +kernel

/-- A number outside the table, a write of a read-only register and a write of TVEC with a handler: what the last clause of SystemRegisters
asks, with the cause of each. -/
theorem witness_csrTraps :
    let s := { ready with x := { full with tvec := 0x100 } }
    [((.csrr ⟨r0, 43, 0x00B⟩ : Instr), (0x011 : Cause)), (.csrw ⟨r0, 58, 0x007⟩, 0x010), (.csrx ⟨r0, 37, 0x013, 29, false, 0⟩, 0x012)].all (fun e =>
      match csrNamed e.1 with
      | some q => (issueCaptures s .P q.1 q.2.1).any (fun r => csrTrap r.2 q.2.2.1 q.2.2.2 = some e.2)
      | none => false) = true := by decide +kernel

/-- Memories in canonical form, as data. -/
def canonical (s : State) : Bool :=
  decide s.mem.wf && s.clusters.all (fun c => decide c.2.pool.wf && decide c.2.tiles.wf) &&
    s.images.all (fun m => m.clusters.all (fun c => decide c.2.pool.wf && decide c.2.tiles.wf)) && decide s.hub.record.wf &&
    decide s.hub.image.wf

theorem memOk_of_canonical {s : State} (h : canonical s = true) : s.memOk := by
  simp only [canonical, Bool.and_eq_true, List.all_eq_true, decide_eq_true_eq] at h
  exact ⟨h.1.1.1.1, h.1.1.1.2, h.1.1.2, h.1.2, h.2⟩

theorem ready_memOk : ready.memOk := memOk_of_canonical (by decide +kernel)

/-- For the clauses of StoresChangeTheirBytesOnly: no store is on its way, and memory is canonical; a near location without an error, which the
key of the job reaches. The tables of the second clause have their witnesses above, in `ready`, `handles`, `oneLane` and `inJob`. -/
theorem witness_storesChangeTheirBytesOnly :
    ready.memOk ∧ ready.x.stores = [] ∧
    (insts words_memory ++ insts words_atomic_1 ++ insts words_atomic_2).all (fun i => ((storeTable i).isNone && (amoTable i).isNone) ||
      ((storeAccess i).isSome && (meetsEffect storeTable ready i || meetsEffect amoTable ready i))) = true ∧
    homeIs ready needStore 0x1000 8 (fun l => near ready l && (writeBad ready l 8).isNone && keyed ready l) = true ∧
    handles.x.stores = [] ∧ oneLane.x.stores = [] :=
  ⟨ready_memOk, rfl, by decide +kernel, by decide +kernel, rfl, rfl⟩

/-! ### Witnesses for vectors that move by queue, quantisation and scans -/

/-- VMOV of vector queue 1 to a register or a queue. -/
def moves1 (vd : BitVec 5) (ta : Bool) : Instr := .vmov ⟨r0, vd, 29, ta, 0⟩

/-- The state in which no queue holds an entry. -/
def dry : State := { ready with x := { full with vAE := Vector.replicate 4 [] } }

/-- The clauses of QueueMoves: an entry stands in the queue, and the queue is empty with the bit clear and with it set. -/
theorem witness_queueMoves :
    [(3 : BitVec 5), 30].all (fun vd => executes ready (moves1 vd true) r0 [.v 29 true] (fun _ x => anyCode (typeOf x) && roomV x vd) &&
      (executeReads dry r0 []).any (fun q => anyCode (typeOf q.2) && mayOweV q.2 vd) &&
      (headReads (standing dry (moves1 vd false) [.v 29 false]) r0 [] [none]).any (fun q => q.1.isEmpty && mayOweV q.2 vd) &&
      sent dry.x [.v 29 false] == [none] && vecGet dry.x.vAE 1 [] == []) = true := by decide +kernel

/-- VQUANT of BF16 lanes of zeros to code 5, rounded stochastically. -/
def quant : VXF :=
  { ring := r0, vd := 3, va := 4, vb := 5, ta := false, tb := false, p := 0, x := false, rnd := 2, ovf := 0, dt := 5, st := 2, imm := 98 }

theorem witness_quantisation :
    (Instr.vquant quant).wf = true ∧ [1, 2, 3].contains quant.st.toNat = true ∧ (4 ≤ quant.dt.toNat ∧ quant.dt.toNat ≤ 12) ∧ quant.vd ≠ quant.vb ∧
    executes ready (.vquant quant) r0 [.v 4 false] (fun vs x => !x.vEmpty.getLsbD 3 && !x.vEmpty.getLsbD 5 &&
      quiet (quantCount quant) (quantAt quant x (vec vs 0))) = true := by decide +kernel

/-- VSCAN of a floating and of an integer type. -/
theorem witness_scans : [(2 : BitVec 4), 13].all (fun ty =>
    let f : VXF := { quant with st := ty, dt := ty, vb := 0, rnd := 0, imm := 0 }
    [1, 2, 3, 9, 13, 14].contains f.st.toNat && executes ready (.vscan f) r0 [.v 4 false] (fun vs x => roomV x f.vd &&
      quiet (256 / contBytes f.st.toNat) (scanRaised f x (vec vs 0)))) = true := by decide +kernel

/-! ### Witnesses for control, traps and departures -/

/-- Branches and jumps, with their links. -/
theorem witness_branches :
    ((insts words_control_1 ++ insts words_control_2).filter (fun i => (branchTable (at0 ready) i).isSome)).length = 7 ∧
    (insts words_control_1 ++ insts words_control_2).all (fun i => match branchTable (at0 ready) i with
      | some f => (issueReads ready f.ring f.reads).any (fun r => match f.link with
        | some l => roomG r.2 l.1
        | none => true)
      | none => true) = true := by decide +kernel

/-- Which clause of Loops an instruction meets: 1 a count of zero, 2 another count, 0 the error. -/
def loopCase (s : State) (i : Instr) : Option Nat :=
  match loopTable i with
  | none => none
  | some f => (issueReads s f.1 f.2.1).bind (fun r =>
    let e : Word := at0 s + 4 * f.2.2.2.setWidth 64
    let u := issued i s (scalarCaps r.1) r.2
    if f.2.2.2 = 0 ∨ e.toNat < (codeRange u).1 ∨ (codeRange u).2 ≤ e.toNat then some 0
    else if r.2.loops.head?.all (fun l => e.toNat ≤ l.stop.toNat) then
      match fetchWord u e.toNat with
      | .ok w _ => if wordCount w ≠ 0 ∧ isLoopWord w = false then
          (if f.2.2.1 r.1 = 0 then some 1 else if r.2.loops.length < 4 then some 2 else none) else none
      | _ => none
    else none)

/-- Every clause of Loops, for LOOPI with a count, and for LOOP of a register; an end offset of zero, and an end behind the code. -/
theorem witness_loops :
    [Instr.loopi ⟨r0, 0, 1⟩, .loopi ⟨r0, 3, 1⟩, .loopi ⟨r0, 3, 0⟩, .loop ⟨r0, 0, false, 1⟩, .loop ⟨r0, 4, false, 1⟩, .loop ⟨r0, 4, false, 0⟩].map (loopCase inJob) =
      [some 1, some 2, some 0, some 1, some 2, some 0] ∧
    loopCase { inJob with bundles := [(1, { aJob with nodes := [{ aNode with pcend := 4 }] })] } (.loopi ⟨r0, 3, 1⟩) = some 0 := by
  decide +kernel

theorem witness_softwareTraps : [Instr.trap ⟨r0, 0x3C0⟩, .svc ⟨r0, 5⟩].all (fun i => match trapTable i with
    | some f => (issueReads ready f.1 []).any (fun r => r.1.isEmpty && decide (r.2 = ready.x))
    | none => false) = true := by decide +kernel

/-- Breakpoints disarmed and armed. -/
theorem witness_breakpoints : (getCore ready ready.core).arm = false ∧
    (getCore { ready with cores := [(0, { arm := true })] } ready.core).arm = true := by decide +kernel

/-- A state whose local region holds a frame and whose handler stands at 0x3000. -/
def handled : State := { inJob with x := { inJob.x with localw := 0x10003C8, tvec := 0x3000 } }

/-- The clauses of TrapEntry: no handler, in handler mode, a frame that does not fit, and a trap that is taken. -/
theorem witness_trapEntry :
    (trapWaits inJob = false ∧ inJob.x.tvec = 0) ∧
    (let s := { handled with x := { handled.x with handler := true } }; trapWaits s = false ∧ s.x.tvec ≠ 0 ∧ s.x.handler = true) ∧
    (let s := { inJob with x := { inJob.x with localw := 0x1000001, tvec := 0x3000 } }; trapWaits s = false ∧ s.x.tvec ≠ 0 ∧ frameRangeOk s = false) ∧
    (trapWaits handled = false ∧ handled.x.tvec ≠ 0 ∧ handled.x.handler = false ∧ windowOf handled.x handled.x.tfp.toNat = 1 ∧
      frameRangeOk handled = true ∧ canonical handled = true ∧ (getCluster handled handled.cl).badPool = [] ∧ handled.x.wbs = []) := by
  decide +kernel

/-- A context that suspends or ends here has nothing under way. -/
def settledNow (s : State) (x : Context) : Bool := x.stream.isEmpty && x.wbs.isEmpty && x.fincs == 0 && (ownShoal s s.xid).isEmpty &&
  s.net.isEmpty && x.stores.isEmpty

theorem settledDown_of_settledNow {s : State} {x : Context} (h : settledNow s x = true) : settledDown s x := by
  simp only [settledNow, Bool.and_eq_true, List.isEmpty_iff, beq_iff_eq, and_assoc] at h
  obtain ⟨h1, h2, h3, h4, h5, h6⟩ := h
  exact ⟨h1, h2, h3, h4, by simp [h5], by simp [h6]⟩

theorem witness_continuationEnds : (issueReads inJob r0 []).any (fun r => r.1.isEmpty && settledNow inJob r.2) = true := by decide +kernel

/-- KYIELD of a bound and of an unbound continuation; in handler mode and inside a loop. -/
theorem witness_yields :
    (issueReads inJob r0 []).any (fun r => r.1.isEmpty && settledNow inJob r.2 && r.2.loops.isEmpty && !r.2.handler) = true ∧
    boundAfter inJob false = false ∧ boundAfter inJob true = true ∧
    (inJob.x.cur = none ∧ { inJob.x with handler := true }.handler = true) ∧
    (inJob.x.handler = false ∧ { inJob.x with loops := [⟨0, 0, 1⟩] }.loops ≠ []) := by decide +kernel

/-- A suspending form issues, and its condition does not hold. -/
def suspends (s : State) (i : Instr) (r : Ring) (fs : List SrcF) (p : State → List (Option Src) → Bool) : Bool :=
  (issueCaptures s .P r fs).any (fun q => still q.2 && settledNow s q.2 && q.2.ws.isNone && p (issued i s q.1 q.2) q.1)

/-- A suspending WAITA for a value that memory does not hold. -/
def waitSus : WaitaF :=
  { ring := r0, t := 4, b := 5, tt := false, tb := false, dbl := true, cond := 0, sc := 0, acq := false, o := 0, te := false, sus := true, d := 6 }

theorem witness_suspensions :
    suspends inJob (.waita waitSus) r0 [.g 4 false, .g 5 false, .g 0 false] (fun u c => homeIs u needLoad (scal c 1).toNat 8 (fun l => readable u l 8 false &&
      !waitMet 0 64 (valueOf (strong 8 u l).1) ((scal c 0).toNat % 2 ^ 64) (valueOf (strong 8 u l).1) true)) = true ∧
    suspends inJob (fwait0 true) r0 [.g 0 false, .g 0 false] (fun u c => (ownFlag u (scal c 0)).any (fun e =>
      !waitMet 1 32 (flag u e).toNat ((scal c 1).setWidth 32).toNat (flag u e).toNat true)) = true ∧
    suspends (tokens .running) (.opwait ⟨r0, 2, 5, true⟩) r0 [] (fun u _ => (entry u (token u 2)).any (fun e => !e.2.state.terminal)) = true := by
  decide +kernel

/-- A suspending MLEASE. -/
def leaseSus : MLeaseF := { ring := r0, k := 3, pri := 1, b := 5, tb := false, sus := true }

/-- A state in which it waits for its token, in slot 5. -/
def leasing (st : OpState) : State :=
  { tokens st with
    tick := 100
    x := { (tokens st).x with
      cur := some { pc := 0, words := encode (.mlease leaseSus), exec := false, waited := true, caps := [some (.s 8)], cont := true, prog := 0 }
      ws := some { t0 := 10, m0 := 5, first := false } } }

theorem witness_leaseSuspensions :
    (issueCaptures inJob .M r0 [.g 5 false]).any (fun q => still q.2 && roomOp { inJob with x := q.2 } 2) = true ∧
    [OpState.done, .queued].all (fun st =>
      let s := leasing st
      !s.eside && decide (s.x.outcomes < 16) && s.x.cur.any (fun e => e.cont && e.waited && decide (e.pc = s.x.pc) &&
        decide (e.words = encode (.mlease leaseSus)) && decide (e.caps.length = 1) && e.caps.all Option.isSome) &&
      s.x.ws.any (fun w => (tok s s.cl w.m0.toNat).any (fun k => decide (k.state = st)) && decide (w.t0 + 4 ≤ s.tick)) &&
      (lease s s.cl).reserved.isNone && settledNow s s.x) = true := by decide +kernel

/-! ### Witnesses for the engines, the step and the whole machine -/

theorem witness_engineOperations :
    covers 9 copyTable meetsAccess ready (insts words_copy) = true ∧
    covers 13 fabricTable meetsAccess ready (insts words_fabric_1 ++ insts words_fabric_2) = true ∧
    covers 8 matrixTable meetsExecute ready (insts words_matrix ++ [.mlease { leaseSus with sus := false }]) = true := by decide +kernel

/-- A step that is taken from a canonical state. -/
theorem witness_memoryStaysCanonical : ready.memOk ∧ (match step ready with
    | .next _ => true
    | _ => false) = true := ⟨ready_memOk, by decide +kernel⟩

theorem witness_memoryReadAfterWrite : Memory.wf [⟨3, 1⟩, ⟨5, 2⟩] := by decide

theorem witness_encodingRoundTrip : (insts words_integer_1 ++ insts words_copy).all (fun i => program i && i.wf) = true := by decide

/-- The first clause of StepRunsDecoded. -/
theorem witness_stepRunsDecoded :
    let s := State.reset.withFetchWord 32 0x0201A041
    s.agenda = [.run] ∧ s.hub.offHot = false ∧ s.x.run = true ∧ coreStopped s = false ∧ s.x.raised = none ∧ s.x.asyncs = [] ∧ s.x.ringOv = 0 ∧
      s.x.cur = none ∧ s.x.replay = [] ∧ s.x.xfer = none ∧ s.x.pc.toNat % 4 = 0 ∧
      (match fetchWord { s with tick := s.tick + 1, agenda := [] } s.x.pc.toNat with
        | .ok w u => wordCount w ≠ 0 && decide (s.x.pc.toNat + 4 * wordCount w ≤ 2 ^ 48) &&
          (match fetchRest u (s.x.pc.toNat + 4) (wordCount w - 1) [w] with
            | .ok ws _ => (match decodeList ws with
              | .ok _ => true
              | .error _ => false)
            | _ => false)
        | _ => false) = true := by decide +kernel

/-- The second clause. -/
theorem witness_stepRunsEvent : { ready with agenda := [.ev .evPowerOn] }.agenda = [.ev .evPowerOn] ∧ ready.hub.offHot = false := ⟨rfl, rfl⟩

theorem witness_placedInstructionRuns : (decodeTableWord 32 0).isSome = true ∧ (decodeTableWord 128 0x0123456703A48000).isSome = true := by decide

theorem witness_programsKeepAuthority : program (.csrw ⟨r0, 58, 0x002⟩) = true ∧ (match exec (.csrw ⟨r0, 58, 0x002⟩) ready with
    | .next _ => true
    | _ => false) = true := by decide +kernel

/-- A state in a handler whose frame has byte `b` at 0x20, the replay count. -/
def returning (b : Byte) : State :=
  { handled with
    x := { handled.x with handler := true }
    clusters := [(0, { node := some (1, 0), pool := memWrite [] (frameOff handled + 0x20) [b] })] }

/-- Whether ERET reads a frame, whether each bound of R462 holds of it, and whether a trap would then be taken at once. -/
def returns (s : State) : Option (Bool × Bool) :=
  match readFrame (drainStores (plain .eret s s.x) s.xid) s.x.tfp.toNat 16 61952 [] with
  | .ok fb u =>
    let c := frameNat fb 0x20 8
    some (decide (c % 64 ≤ 32 ∧ c / 2 ^ 8 % 128 ≤ 64 ∧ c / 2 ^ 16 % 8 ≤ 4 ∧ (∀ k, k < 8 → frameNat fb (0x30 + k) 1 ≤ 32) ∧
      (∀ k, k < 8 → frameNat fb (0x38 + k) 1 ≤ 8) ∧ ∀ k, k < c % 64 → frameNat fb (0x0E80 + 8 * k) 8 / 2 ^ 48 % 4 ≤ 1), !trapWaits u)
  | _ => none

/-- For TrapReturn: a frame that is accepted, one that is not, and ERET outside handler mode. -/
theorem witness_trapReturn :
    returns (returning 1) = some (true, true) ∧ returns (returning 63) = some (false, true) ∧
    (let s := returning 63; s.free = true ∧ s.x.handler = true ∧ s.x.stream = [] ∧ ownShoal s s.xid = [] ∧ s.x.tvec ≠ 0) ∧
    (handled.x.cur = none ∧ handled.x.handler = false) := by decide +kernel

/-! ### Witnesses for the steps of other agents -/

/-- A step of a table is possible in a state. -/
def can (table : Instr → Option Move) (i : Instr) (s : State) : Prop := ∃ m, table i = some m ∧ m.may s

/-- A result on its way to g5. -/
def landing : Writeback := ⟨[.g 5 9], flagNone, [], false, false, 0, 0⟩

/-- A store of one byte to the page of `ready`. -/
def oneStore : PStore := ⟨.mem 0x201000, [1], 0x1000, false⟩

/-- A store in the shoal log of context 0. -/
def oneShoal : Shoal :=
  { ctx := 0, cid := 0, va := 0x1000, bytes := [1], red := none, v := 0, cmp := 0, scope := 0, order := 0, cause := 0x100, refused := false }

/-- An access of context 0 that is held for service. -/
def oneFault : Fault1 :=
  { ctx := some 0, eng := none, va := 0x8000, kind := 0, cause := 0x100, since := 0, refused := none, hostBacked := false, prg := none, seq := none, chan := none,
    grace := 1000, fn := 0, space := 0 }

/-- That access while a skerry runs its handler. -/
def inHandling : State :=
  { ready with faults := [{ oneFault with seq := some 9 }], hub := { ready.hub with skerries := [(0, ⟨1, 0, memProcSource, 0x100, 9, [], 0, false⟩, 0)] } }

/-- A state late enough for every timer. -/
def late : State := { ready with tick := 1000000 }

theorem witness_memorySteps_1 :
    can memoryMoves (.evLongLatencyWriteback 0 0) { ready with x := { full with wbs := [landing] } } ∧
    can memoryMoves (.evWriteThroughReachesHome 0 0) { ready with x := { full with stores := [oneStore] } } ∧
    can memoryMoves (.evShoalDrain 0 0) { ready with cores := [(0, { shoal := [oneShoal] })] } ∧
    can memoryMoves (.evFaultService 0 (.map [(0x300000, 1)])) { ready with faults := [oneFault] } ∧
    can memoryMoves (.evFaultService 0 (.map [(0x300000, 1)])) inHandling ∧
    can memoryMoves (.evFaultService 0 (.refuse 0x100)) inHandling := by
  refine ⟨⟨_, rfl, ?_⟩, ⟨_, rfl, ?_⟩, ⟨_, rfl, ?_⟩, ⟨_, rfl, ?_⟩, ⟨_, rfl, ?_⟩, ⟨_, rfl, ?_⟩⟩
  · exact ⟨rfl, by decide +kernel, landing, 5, 9, rfl, rfl, rfl, by decide +kernel⟩
  · exact ⟨oneStore, rfl, by decide +kernel, rfl, by decide +kernel, by decide +kernel, rfl⟩
  · exact ⟨by decide, oneShoal, _, rfl, rfl, rfl, rfl, rfl, rfl, by decide +kernel, by decide +kernel, by decide +kernel, by decide +kernel⟩
  · exact ⟨oneFault, rfl, .inl ⟨by decide, rfl⟩⟩
  · exact ⟨_, rfl, .inr ⟨9, ⟨by decide, rfl, by decide +kernel⟩, by decide +kernel⟩⟩
  · exact ⟨_, 9, 0, rfl, ⟨by decide, rfl, by decide +kernel⟩, rfl, by decide⟩

theorem witness_memorySteps_2 :
    can memoryMoves (.evTranslationHoldTimeout 0) { late with faults := [oneFault] } ∧
    can memoryMoves .evPageRequestGroupSend { late with faults := [{ oneFault with hostBacked := true }] } ∧
    can memoryMoves (.evPriResponse 3 1) { late with faults := [{ oneFault with hostBacked := true, prg := some 3 }] } ∧
    can memoryMoves (.evAtsInvalidation 0x8000 []) { ready with hub := { ready.hub with boot := .ready } } ∧
    [HostReq.read, .write, .fetchAdd, .swap, .cas].all (fun r => hostServed { ready with hub := { ready.hub with boot := .ready } } r 0x201000
      (hostBytes r [1, 2, 3, 4, 5, 6, 7, 8] (if r = .cas then 4 else 8))) = true := by
  refine ⟨⟨_, rfl, ?_⟩, ⟨_, rfl, ?_⟩, ⟨_, rfl, ?_⟩, ⟨_, rfl, ?_⟩, by decide +kernel⟩
  · exact ⟨oneFault, 0, rfl, rfl, by decide, rfl, by decide +kernel⟩
  · exact ⟨_, List.mem_singleton.mpr rfl, by decide, by decide +kernel⟩
  · trivial
  · exact ⟨rfl, by decide +kernel⟩

/-- A running state of a module that is READY. -/
def up : State := { late with hub := { late.hub with boot := .ready } }

/-- A continuation that has suspended on a wait. -/
def waitingCont : Cont := { cid := 7, bundle := 1, bound := true, state := 2, ws := some ⟨0, 0, false, 0, .entry 3 7⟩ }

/-- A trap that waits to be entered. -/
def oneTrap : Raised := { cause := 0x00A, detail := 0, faddr := 0, fpc := 0, async := false, keep := false }

theorem witness_contextSteps_1 :
    can contextMoves (.evWaitaWake 7) { late with clusters := [(0, { susp := [waitingCont] })] } ∧
    can contextMoves (.evDecouplingDeadlock 0) { late with x := { full with blockA := true, blockE := true } } ∧
    can contextMoves (.evTrapEntry 0) { late with x := { full with raised := some oneTrap } } ∧
    can contextMoves (.evTokenIssueTimeout 0) { late with x := { full with tokA := some 0, cur := some (issueEntry mzero1 late []) } } ∧
    can contextMoves (.evTokenIssueTimeout 0) { late with x := { full with tokE := some 0, stream := [.instr (issueEntry mzero1 late [])] } } ∧
    can contextMoves (.evIssuePromotion 0 false) { late with x := { full with readyA := some 5 } } ∧
    can contextMoves (.evIssuePromotion 0 true) { late with x := { full with readyE := some 5 } } := by
  refine ⟨⟨_, rfl, ?_⟩, ⟨_, rfl, ?_⟩, ⟨_, rfl, ?_⟩, ⟨_, rfl, ?_⟩, ⟨_, rfl, ?_⟩, ⟨_, rfl, ?_⟩, ⟨_, rfl, ?_⟩⟩
  · exact ⟨0, waitingCont, by decide +kernel, by decide +kernel, rfl, rfl, _, rfl, .inl (by decide +kernel)⟩
  · exact ⟨rfl, rfl, rfl, by decide +kernel, rfl, .inl rfl, by decide +kernel⟩
  · exact ⟨rfl, rfl, rfl, by decide +kernel⟩
  · exact ⟨rfl, .inr (by decide +kernel)⟩
  · exact ⟨rfl, .inl (by decide +kernel)⟩
  · exact ⟨rfl, 5, rfl, by decide +kernel⟩
  · exact ⟨rfl, 5, rfl, by decide +kernel⟩

theorem witness_contextSteps_2 : ∀ i ∈ [Instr.evDebugHalt 3 true, .evDebugStep 3, .evBreakpointArm 3 true, .evEngineFreeze 3 true, .evContextStateError 0,
    .evL1ParityDrop 0 5 true], can contextMoves i up := by
  have h : up.hub.boot = .ready ∧ muted up 0 = false := by decide +kernel
  simp only [List.mem_cons, List.not_mem_nil, or_false, forall_eq_or_imp, forall_eq]
  exact ⟨⟨_, rfl, h.1, h.2, by decide⟩, ⟨_, rfl, h.1, h.2, by decide⟩, ⟨_, rfl, h.1, h.2, by decide⟩, ⟨_, rfl, h.1, h.2, by decide⟩, ⟨_, rfl, rfl⟩,
    ⟨_, rfl, trivial⟩⟩

/-- A packet of context 0 to another die. -/
def onePacket (k : PkKind) (rel applied refused : Bool) : Packet :=
  { ctx := 0, cid := 0, src := 0, dst := 1, count := 1, release := rel, vec := [], kind := k, bundle := 0, applied := applied, refused := refused, escaped := false,
    since := 0, limit := 1000 }

/-- A state with one packet on its way, for a module with die 1. -/
def flying (k : PkKind) (rel applied refused : Bool) : State := { up with net := [onePacket k rel applied refused], dies := [(0, { podDie := 0 }), (1, { podDie := 1 })] }

theorem witness_fabricSteps :
    can fabricMoves (.evFincArrival 0) (flying (.flag 12 3 1) true false false) ∧
    can fabricMoves (.evFincRefusal 0) (flying (.flag 12 3 1) true false true) ∧
    can fabricMoves (.evRemoteWriteApply 0) (flying (.write 0x1000 [1]) false false false) ∧
    can fabricMoves (.evReleasePacketApply 0) (flying (.write 0x1000 [1]) true false false) ∧
    can fabricMoves (.evRemoteWriteAck 0) (flying (.write 0x1000 [1]) false true false) ∧
    can fabricMoves (.evMulticastRewrite 3 [1, 2]) up ∧
    can fabricMoves (.evFabricPacketArrival 2 5 48 0x1000 [1]) { up with straits := [(2, { state := .opened, keys := [5] })] } ∧
    can fabricMoves (.evEscapeMove 0) (flying (.write 0x1000 [1]) false false false) := by
  refine ⟨⟨_, rfl, ?_⟩, ⟨_, rfl, ?_⟩, ⟨_, rfl, ?_⟩, ⟨_, rfl, ?_⟩, ⟨_, rfl, ?_⟩, ⟨_, rfl, ?_⟩, ⟨_, rfl, ?_⟩, ⟨_, rfl, ?_⟩⟩
  · exact ⟨_, 12, 3, 1, 1, rfl, rfl, rfl, rfl, by decide +kernel, by decide +kernel, by decide +kernel⟩
  · exact ⟨_, rfl, rfl, rfl, rfl, rfl⟩
  · exact ⟨_, 0x1000, [1], rfl, rfl, ⟨rfl, rfl, by decide +kernel, by decide, by decide +kernel⟩, by decide +kernel⟩
  · exact ⟨_, 0x1000, [1], rfl, rfl, ⟨rfl, rfl, by decide +kernel, fun _ => by decide +kernel, by decide +kernel⟩, by decide +kernel⟩
  · exact ⟨_, rfl, rfl⟩
  · trivial
  · show _ = StraitState.opened; decide +kernel
  · exact ⟨_, rfl, rfl, rfl, rfl, by decide +kernel, by decide +kernel⟩

/-! Operations in a cluster's table. -/

/-- A state whose cluster 0 holds operation `e` in slot 5, in progress in copy engine `eng`. -/
def running (e : TokEntry) (eng : Nat) : State := { up with clusters := [(0, { toks := [(5, e)], gens := [(5, 1)], fresh := 6, active := [(eng, 5)] })] }

/-- A state whose cluster 0 holds operation `e` in slot 5, at the head of the queue of core 0 into engine `eng`. -/
def waiting (e : TokEntry) (eng : Nat) : State := { up with clusters := [(0, { toks := [(5, e)], gens := [(5, 1)], fresh := 6, queues := [(4 * eng, [5])] })] }

/-- A queued and a running operation that belong to the current continuation. -/
def queuedOp (i : Instr) : TokEntry := tokenOf i .queued (some 0) [] [] []
def runningOp (i : Instr) (gs : List Word) (hs : List HReg) (ys : List (BitVec 256)) : TokEntry := { tokenOf i .running (some 0) gs hs ys with total := 2 }

/-- A handle for the scratchpad from its start. -/
def padHandle : HReg := ⟨1#256 <<< 120 ||| 0x100000#256 <<< 64, 0⟩

/-- A lease of the array in use. -/
def leased (l : Lease) : State := { up with clusters := [(0, { lease := l })] }

/-- A request of continuation 7. -/
def oneRequest : LeaseReq := { cid := 0, pri := 1, budget := 8, tok := none, since := 0 }

/-- An operation of the sequencer can start: it is the one that is served next. -/
def mayStart (i : Instr) : Bool :=
  enginesRun (waiting (queuedOp i) 2) 0 &&
    (pickHead (waiting (queuedOp i) 2) 0 2 (fun _ e => matrixMay (waiting (queuedOp i) 2) 0 e)).any (fun h =>
      !h.2.2.state.terminal && inMatrixQueue h.2.2.op.instr)

theorem mayStart_can {i : Instr} (h : mayStart i = true) : can matrixMoves (.evMatrixOpStart 0) (waiting (queuedOp i) 2) := by
  obtain ⟨h1, h2⟩ := Bool.and_eq_true_iff.mp h
  obtain ⟨q, hq, hb⟩ := (Option.any_eq_true ..).mp h2
  obtain ⟨h3, h4⟩ := Bool.and_eq_true_iff.mp hb
  exact ⟨_, rfl, h1, q, hq, by simpa using h3, h4⟩

/-- An operation of copy engine `eng` can start. -/
def mayCopy (i : Instr) (eng : Nat) : Bool :=
  enginesRun (waiting (queuedOp i) eng) 0 && decide (eng < 2) &&
    (pickHead (waiting (queuedOp i) eng) 0 eng (fun _ e => copyMay (waiting (queuedOp i) eng) 0 eng e)).any (fun h =>
      !h.2.2.state.terminal && h.2.2.todo.isNone)

theorem mayCopy_can {i : Instr} {eng : Nat} (h : mayCopy i eng = true) : can copyMoves (.evCopyStart 0 eng) (waiting (queuedOp i) eng) := by
  simp only [mayCopy, Bool.and_eq_true, decide_eq_true_eq] at h
  obtain ⟨q, hq, hb⟩ := (Option.any_eq_true ..).mp h.2
  obtain ⟨h3, h4⟩ := Bool.and_eq_true_iff.mp hb
  exact ⟨_, rfl, h.1.1, h.1.2, q, hq, by simpa using h3, by simpa using h4⟩

/-- The running tile operation `i` can make its next step. -/
def mayTile (i : Instr) : Bool :=
  let s := running (runningOp i [] [] []) 2
  enginesRun s 0 && (tileSel s 0).any (fun q => tok s 0 q.1 == some q.2 && q.2.stop.isNone)

theorem mayTile_can {i : Instr} (h : mayTile i = true) : can matrixMoves (.evTileMoveStep 0) (running (runningOp i [] [] []) 2) := by
  simp only [mayTile, Bool.and_eq_true] at h
  obtain ⟨⟨k, e⟩, hq, hb⟩ := (Option.any_eq_true ..).mp h.2
  obtain ⟨h3, h4⟩ := Bool.and_eq_true_iff.mp hb
  exact ⟨_, rfl, h.1, k, e, hq, by simpa using h3, by simpa using h4⟩

/-- A multiplication of one row by one column over one chunk. -/
def oneMma : MmaF :=
  { ring := r0, k := 0, pri := 0, dt := false, ha := 1, hb := 2, z := true, acc := 0, ga := 1, ta := false, gb := 2, tb := false, gs := 3, ts := false,
    gsa := 4, tsa := false, gsb := 5, tsb := false, bufa := 0, bufb := 0 }

/-- The operation, with its operands in the scratchpad. -/
def mmaOp (i : Instr) : TokEntry := runningOp i [0, 0, 0, 0, 0] [padHandle, padHandle] []

theorem witness_matrixSteps :
    can matrixMoves (.evLeaseGrant 0) (leased { fifo := [oneRequest] }) ∧
    can matrixMoves (.evIdlePossessionTimeout 0) (leased { possess := some 3, fifo := [oneRequest] }) ∧
    can matrixMoves (.evLeaseRequestAging 0) (leased { possess := some 3, fifo := [oneRequest] }) ∧
    can matrixMoves (.evLeaseReservationLapse 0) (leased { reserved := some (oneRequest, 0) }) ∧
    (∀ i ∈ insts words_matrix, can matrixMoves (.evMatrixOpStart 0) (waiting (queuedOp i) 2)) ∧
    can matrixMoves (.evMatrixBlockStep 0) { up with clusters := [(0, { toks := [(5, mmaOp (.mma oneMma))], lease := { possess := some 0 } })] } ∧
    can matrixMoves (.evMmvGroupStep 0) (running (mmaOp (.mmv oneMma)) 2) ∧
    ∀ i ∈ (insts words_matrix).drop 5, can matrixMoves (.evTileMoveStep 0) (running (runningOp i [] [] []) 2) := by
  refine ⟨⟨_, rfl, ?_⟩, ⟨_, rfl, ?_⟩, ⟨_, rfl, ?_⟩, ⟨_, rfl, ?_⟩, fun i hi => mayStart_can (List.all_eq_true.mp (?_ : List.all _ mayStart = true) i hi), ⟨_, rfl, ?_⟩, ⟨_, rfl, ?_⟩,
    fun i hi => mayTile_can (List.all_eq_true.mp (?_ : List.all _ mayTile = true) i hi)⟩
  · exact ⟨rfl, rfl, by decide +kernel, rfl, by decide +kernel⟩
  · exact ⟨3, rfl, by decide +kernel, by decide +kernel, by decide +kernel⟩
  · exact ⟨oneRequest, List.mem_singleton.mpr rfl, by decide +kernel, by decide⟩
  · exact ⟨oneRequest, 0, rfl, by decide +kernel⟩
  · decide +kernel
  · exact ⟨by decide +kernel, 5, mmaOp (.mma oneMma), oneMma, by decide +kernel, rfl, rfl, rfl, by decide +kernel⟩
  · exact ⟨by decide +kernel, 5, mmaOp (.mmv oneMma), oneMma, by decide +kernel, rfl, rfl, rfl, by decide +kernel⟩
  · decide +kernel

/-- Instruction `n` of a list of words. -/
def nthOf (l : List (List IWord × Instr)) (n : Nat) : Instr := (insts l).getD n mzero1

/-- A fill of the scratchpad, a record load, a transfer, a remote addition at 0x1000, a broadcast, a barrier, a message out and one in. -/
def fillOp : TokEntry := runningOp (nthOf words_copy 4) [7, 0, 0] [padHandle] [0]
def pksetOp : TokEntry := runningOp (nthOf words_copy 8) [] [] []
def xldOp : TokEntry := runningOp (nthOf words_fabric_1 1) [0, 0, 0] [padHandle, padHandle] [0, 0]
def xamoF : XAmoF :=
  { ring := r0, k := 7, pri := 3, dt := false, h := 3, op := 0, ord := 0, sz := 0, go := 11, te := false, gv := 4, tv := false, gc := 0, tc := false, gp := 0, tp := false }
def xamoOp : TokEntry := runningOp (.xamo xamoF) [0x1000, 5, 0, 0] [⟨0x100000#256 <<< 64, 0⟩] []
def cbcOp : TokEntry := runningOp (nthOf words_fabric_1 7) [0, 0, 0, 0] [padHandle, padHandle] [0, 0]
def cbarOp : TokEntry := runningOp (nthOf words_fabric_1 8) [0] [] []
def nsendOp : TokEntry := runningOp (nthOf words_fabric_1 9) [0, 0, 0, 0] [padHandle, padHandle] [0]
def nrecvOp : TokEntry := runningOp (nthOf words_fabric_2 0) [0, 0, 0, 0, 0] [padHandle, padHandle] [0]

/-- A state in which a collective runs, as rank 1 of its communicator; rank 0 is a cluster of another module. -/
def ranked (e : TokEntry) : State :=
  { running e 1 with comms := (collForm e.op.instr).elim [] (fun q => [(q.2.comm.toNat, { ranks := [(9, 3), (0, 0)] })]) }

theorem witness_copySteps_1 :
    (∀ i ∈ insts words_copy ++ insts words_fabric_1 ++ insts words_fabric_2, can copyMoves (.evCopyStart 0 1) (waiting (queuedOp i) 1)) ∧
    can copyMoves (.evCopyStep 0 0) (running fillOp 0) ∧
    can copyMoves (.evPksetStep 0) (running pksetOp 0) ∧
    can copyMoves (.evRemoteTransferStep 0 0 false) (running xldOp 0) ∧
    can copyMoves (.evRemoteTransferStep 0 1 true) (running xamoOp 1) ∧
    can copyMoves (.evCollectiveStep 0 ⟨false, false, []⟩) (ranked cbcOp) ∧
    can copyMoves (.evCollectiveStep 0 ⟨true, false, [List.replicate 16 1, []]⟩) (ranked cbcOp) := by
  refine ⟨fun i hi => mayCopy_can (eng := 1) (List.all_eq_true.mp (?_ : List.all _ (fun i => mayCopy i 1) = true) i hi), ⟨_, rfl, ?_⟩, ⟨_, rfl, ?_⟩, ⟨_, rfl, ?_⟩, ⟨_, rfl, ?_⟩, ⟨_, rfl, ?_⟩, ⟨_, rfl, ?_⟩⟩
  · decide +kernel
  · exact ⟨5, fillOp, _, rfl, rfl, rfl, by decide +kernel, rfl, by decide, by decide +kernel, .inr (.inr (by decide +kernel))⟩
  · exact ⟨by decide +kernel, 5, pksetOp, _, rfl, rfl, rfl, rfl, by decide +kernel, by decide +kernel⟩
  · exact ⟨5, xldOp, rfl, by decide +kernel, by decide +kernel, rfl, .inr (.inr ⟨_, rfl, rfl, .inl rfl⟩)⟩
  · exact ⟨5, xamoOp, rfl, by decide +kernel, by decide +kernel, rfl, .inr (.inl ⟨xamoF, rfl, .inr ⟨rfl, by decide +kernel⟩⟩)⟩
  · exact ⟨5, cbcOp, _, rfl, by decide +kernel, rfl, rfl, rfl, rfl, by decide +kernel, .inl ⟨rfl, by decide +kernel⟩⟩
  · exact ⟨5, cbcOp, _, rfl, by decide +kernel, rfl, rfl, rfl, rfl, by decide +kernel, .inr ⟨by decide +kernel, by decide +kernel⟩⟩

/-- A state whose cluster 0 belongs to partition 1. -/
def parted (s : State) : State := { s with parts := [(1, { state := 2, share := 256, clusters := 1, vfs := 1 })] }

/-- The fields of a sealed handle below its seal are those of its body. -/
theorem field_of_append (a : BitVec 64) (b : BitVec 192) (i n : Nat) (h : i + n ≤ 192) : (a ++ b).extractLsb' i n = b.extractLsb' i n := by
  ext k hk
  simp only [BitVec.getElem_extractLsb', BitVec.getLsbD_append]
  have : i + k < 192 := by omega
  simp [this]

theorem high_of_append (a : BitVec 64) (b : BitVec 192) : (a ++ b).extractLsb' 192 64 = a := by
  ext k hk
  simp only [BitVec.getElem_extractLsb', BitVec.getLsbD_append]
  have : ¬ 192 + k < 192 := by omega
  simp [this, hk]

/-- A sealed handle with a body that is not zero has a valid seal. -/
theorem sealValid_sealed (s : State) (b : BitVec 192) (h : b ≠ 0) : sealValid s (sealed s b) = true := by
  have lo : (sealed s b).extractLsb' 0 192 = b := by
    unfold sealed
    rw [field_of_append _ _ _ _ (by decide)]
    simp
  have ne : sealed s b ≠ 0 := by
    intro e
    rw [e] at lo
    exact h (by rw [← lo]; decide)
  simp only [sealValid, lo, Bool.and_eq_true, bne_iff_ne, ne_eq, decide_eq_true_eq]
  exact ⟨ne, by simp only [hSeal, sealed, high_of_append]⟩

/-- A region of a scratchpad is open to a write that its handle and its rights allow. -/
theorem region_open {s : State} {ep rg off : Nat} {e : Endpoint} {h : BitVec 256} {r : Byte} (he : tabGet {} ep s.endpoints = e)
    (hr : tabFind rg e.regions = some (h, r)) (c : handleCheck s (spaceOf (ep / 256) e.tenant) ⟨h, 0⟩ rightW = 0) (w : r.getLsbD 1 = true)
    (x : off + 1 ≤ hExtent h) (k : hKind h = 1) (l : (hBase h).toNat + off + 1 ≤ scratchLen (getCluster s (hSlot h - 0x10)).poolpw) :
    (regionTarget s ep rg off 1 true).isSome = true := by
  simp [regionTarget, he, hr, w, k, l, x]
  first | exact c | exact ⟨c, x⟩

/-- A handle for the scratchpad of cluster 0 with right W, sealed. -/
def regionBody : BitVec 192 := handleBody 1 0x10 0 0 1 rightW 64 0
def regioned : State :=
  { up with endpoints := [(3, { regions := [(1, (sealed up regionBody, 2))] })], clusters := [(0, { poolpw := 0x01010101 })] }

theorem regioned_open : (regionTarget regioned 3 1 0 1 true).isSome = true := by
  have g (i n : Nat) (h : i + n ≤ 192) : (sealed up regionBody).extractLsb' i n = regionBody.extractLsb' i n := by
    unfold sealed
    exact field_of_append _ _ _ _ h
  have v : sealValid regioned (sealed up regionBody) = true := sealValid_sealed regioned regionBody (by decide)
  refine region_open (e := { regions := [(1, (sealed up regionBody, 2))] }) rfl rfl ?_ (by decide) ?_ ?_ ?_
  · simp only [handleCheck, v, hGen, hPart, hTenant, hSlot, hRights, g 172 20 (by decide), g 144 8 (by decide), g 128 16 (by decide),
      g 152 20 (by decide), g 112 8 (by decide)]
    decide +kernel
  · simp only [hExtent, g 64 48 (by decide)]; decide
  · simp only [hKind, g 120 8 (by decide)]; decide
  · simp only [hBase, hSlot, g 0 64 (by decide), g 152 20 (by decide)]; decide +kernel

theorem witness_copySteps_2 :
    can copyMoves (.evCbarComplete 0 true) (running cbarOp 1) ∧
    can copyMoves (.evMessageArrival 0 3 1 2 [9]) (parted up) ∧
    can copyMoves (.evRemoteRegionAccess 3 1 0 true [5] 1) regioned ∧
    can copyMoves (.evEthernetRetryExhausted 0 1) (running nsendOp 1) ∧
    can copyMoves (.evMessageAcknowledged 0 1 false []) (running nsendOp 1) ∧
    can copyMoves (.evMessageAcknowledged 0 0 true [1, 2]) (running nrecvOp 0) ∧
    can copyMoves (.evEngineHeadAging 0 1) (waiting (queuedOp (nthOf words_copy 0)) 1) := by
  refine ⟨⟨_, rfl, ?_⟩, ⟨_, rfl, ?_⟩, ⟨_, rfl, ?_⟩, ⟨_, rfl, ?_⟩, ⟨_, rfl, ?_⟩, ⟨_, rfl, ?_⟩, ⟨_, rfl, ?_⟩⟩
  · exact ⟨by decide +kernel, 5, cbarOp, _, rfl, rfl, rfl, rfl, by decide +kernel, by decide +kernel⟩
  · exact ⟨1, by decide +kernel, .inr rfl⟩
  · exact fun _ => regioned_open
  · exact ⟨5, nsendOp, by decide +kernel, rfl, .inl (by decide +kernel)⟩
  · exact ⟨by decide +kernel, 5, nsendOp, _, by decide +kernel, rfl, rfl, rfl, .inl rfl⟩
  · exact ⟨by decide +kernel, 5, nrecvOp, _, by decide +kernel, rfl, rfl, rfl, .inr (.inl ⟨rfl, by decide +kernel, by decide +kernel⟩)⟩
  · trivial

/-! Work and queues. -/

/-- A partition word with one control region, scratchpad and accumulator unit each, and two contexts a core. -/
def aWord : BitVec 32 := 0x02010101

/-- A state whose job 1 has node `n` on cluster 0, and whose current continuation belongs to node 0 of it. -/
def working (n : Node) : State :=
  { up with x := inJob.x, bundles := [(1, { aJob with nodes := [aNode, n] })], nextId := 8, clusters := [(0, { node := some (1, 1), poolpw := aWord })] }

/-- A node with groups of one. -/
def lone : Node := { aNode with group := 0, poolpw := aWord }

/-- A bound continuation of node 1 that is ready. -/
def readyCont : Cont := { cid := 9, bundle := 1, node := 1, bound := true }

/-- The same state with that continuation on its cluster's list. -/
def withReady : State := { working lone with clusters := [(0, { node := some (1, 1), poolpw := aWord, ready := [readyCont] })] }

/-- A range task of node 1 on cluster 0. -/
def aPiece : Piece := { id := 4, bundle := 1, node := 1, cur := 2, hi := 6, pc := 0x100, place := 0, claims := [] }

/-- A front-end access that goes through. -/
def done {α : Type} : FAcc α → Bool
  | .ok _ _ => true
  | _ => false

theorem done_says {α : Type} {a : FAcc α} (h : done a = true) : ∃ v u, a = .ok v u := by
  cases a with
  | ok v u => exact ⟨v, u, rfl⟩
  | hold u => cases h
  | fail u c => cases h

theorem witness_workSteps_1 :
    can workMoves (.evReadyEntryAging 0) { up with ready := [(4, readyCont)] } ∧
    can workMoves (.evReadyEntryAging 0) { up with clusters := [(0, { ready := [readyCont] })] } ∧
    can workMoves (.evWorkRequest 0) withReady ∧
    can workMoves (.evRangeTaskStart 0 0) { working lone with pieces := [aPiece] } ∧
    can workMoves (.evContinuationResume 1 9) withReady ∧
    can workMoves (.evXNodeReady 1 1 []) (working { aNode with kind := 4, ready := false }) ∧
    can workMoves (.evNodeRetire 1 1) (working aNode) ∧
    can workMoves (.evBundleRetire 1) { up with bundles := [(1, { aJob with nodes := [{ aNode with retired := true }] })] } := by
  refine ⟨⟨_, rfl, ?_⟩, ⟨_, rfl, ?_⟩, ⟨_, rfl, ?_⟩, ⟨_, rfl, ?_⟩, ⟨_, rfl, ?_⟩, ⟨_, rfl, ?_⟩, ⟨_, rfl, ?_⟩, ⟨_, rfl, ?_⟩⟩
  · exact .inl ⟨_, rfl, by decide +kernel, by decide⟩
  · exact .inr ⟨_, rfl, by decide +kernel, by decide⟩
  · exact ⟨by decide +kernel, by decide +kernel, readyCont, by decide +kernel, by decide +kernel⟩
  · exact ⟨by decide +kernel, by decide +kernel, by decide +kernel, by decide +kernel, aPiece, lone, rfl, by decide, by decide +kernel,
      by decide +kernel, by decide, by decide, by decide +kernel⟩
  · exact ⟨by decide +kernel, by decide +kernel, readyCont, by decide +kernel, rfl, by decide +kernel⟩
  · exact ⟨_, rfl, rfl, rfl, rfl⟩
  · exact ⟨aNode, by decide +kernel, rfl, rfl, rfl, by decide +kernel, by decide⟩
  · refine ⟨_, rfl, rfl, rfl, .inr ?_⟩
    have h : ∀ (s : State) (v : Bundle), done (feWrite s (queueWho s v.queue .record) v.recAddr.toNat (completionRecord s v)) = true →
        ∃ u, feWrite s (queueWho s v.queue .record) v.recAddr.toNat (completionRecord s v) = .ok () u := fun s v h =>
      (done_says h).elim (fun _ h => h)
    exact h _ _ (by decide +kernel)

/-- A skerry's handler of a function in hardware mode. -/
def handlerOf (bit key : Nat) : HubEvent × Nat := (⟨bit, 1, 0, 0, key, [], 0, false⟩, 0)

/-- A state whose queue 0 belongs to VF 1 of partition 1, with ring words `ws` at 0x1000; skerries handle its parsing, its dispatch and its
messages. -/
def queued (ws : List IWord) (q : Queue) : State :=
  { parted up with
    qmap := [(0, (1, 1))], fns := [(1, { tdisp := .run, part := 1 })], roots := [(0, 0x100000), (65536, 0x100000)], jobKeys := [(5, 1)]
    clusters := [(0, { poolpw := aWord })], mem := memWrite ready.mem 0x201000 (ws.flatMap (fun w => leBytes 4 w.toNat)), queues := [(0, q)]
    hub := { up.hub with skerries := [(0, handlerOf 0 0), (1, handlerOf 0 (dispatchKey 0)), (2, handlerOf 2 0)] } }

/-- An active queue with words announced. -/
def aQueue : Queue := { qbase := 0x1000, state := .active, widx := 64 }

/-- A launch of one node record at 0x1000. -/
def aLaunch : PLaunch :=
  { idx := 0, no := 1, addr := 0x1000, nodes := 1, key := 5, recAddr := 0x2000, gang := none, late := false, clean := true, wait := none, count := none }

/-- The node record: a V node with entry 0x2000 and end 0x3000. -/
def aRecord : List IWord := [0x00000001, 0x02010101, 0x2000, 0, 0, 0, 4, 0, 0, 0, 0, 0, 0, 0, 0x3000, 0]

/-- A launch that may become resident, with valid records. -/
def opens (s : State) (q : Nat) (places : NatPairs) (early : Bool) : Bool :=
  (launchable s q places early).any (fun r => match r.2 with
    | .ok _ => true
    | .error _ => false)

theorem opens_says {s : State} {q : Nat} {places : NatPairs} {early : Bool} (h : opens s q places early = true) :
    (resident q places early).may s := by
  obtain ⟨r, hr, _⟩ := (Option.any_eq_true ..).mp h
  show (launchable s q places early).isSome = true
  rw [hr]; rfl

theorem witness_workSteps_2 :
    can workMoves (.evBundleResident 0 [(0, 0)]) (queued aRecord { aQueue with launch := some aLaunch }) ∧
    can workMoves (.evEarlyStart 0 [(0, 0)]) { queued aRecord { aQueue with launch := some aLaunch } with bundles := [(1, { aJob with nextok := true })] } := by
  refine ⟨⟨_, rfl, ?_⟩, ⟨_, rfl, ?_⟩⟩
  · exact opens_says (by decide +kernel)
  · exact opens_says (by decide +kernel)

/-- The check for a packet that is parsed, and what it says. -/
def parsed (s : State) (q ty : Nat) (err : State → List RWord → Option Cause) (hold : State → List RWord → Bool) : Bool :=
  (packetAt s q ty).any (fun r => decide ((getQueue r.1 q).state = .active) && (err r.1 r.2.2).isNone && !hold r.1 r.2.2)

theorem parsed_says {s : State} {q ty : Nat} {err hold eff} (h : parsed s q ty err hold = true) : (parses q ty err hold eff).may s := by
  obtain ⟨⟨u, n, ws⟩, hp, hx⟩ := (Option.any_eq_true ..).mp h
  simp only [Bool.and_eq_true, decide_eq_true_eq, Bool.not_eq_true'] at hx
  exact ⟨u, n, ws, hp, hx.1.1, .inr hx.2⟩

/-- One packet of each type that parsing passes. -/
theorem witness_queueSteps_packets :
    can queueMoves (.evPad 0) (queued [0x00000000] aQueue) ∧
    can queueMoves (.evNopPacket 0) (queued [0x00000107] aQueue) ∧
    can queueMoves (.evLaunch 0) (queued [0x00070601, 0x1000, 0, 0x50001, 0x2000, 0] aQueue) ∧
    can queueMoves (.evIndirect 0) (queued [0x007F0C05, 0x1000, 0, 0x50001, 0x2000, 0, 0x3000, 0, 0x3004, 0, 0, 7] aQueue) ∧
    can queueMoves (.evGang 0) (queued [0x00010304, 100, 0] aQueue) ∧
    can queueMoves (.evSignal 0) (queued [0x00070603, 0x2000, 0, 1, 0, 1] aQueue) ∧
    can queueMoves (.evTimestamp 0) (queued [0x00010306, 0x2000, 0] aQueue) :=
  ⟨⟨_, rfl, parsed_says (by decide +kernel)⟩, ⟨_, rfl, parsed_says (by decide +kernel)⟩, ⟨_, rfl, parsed_says (by decide +kernel)⟩,
    ⟨_, rfl, parsed_says (by decide +kernel)⟩, ⟨_, rfl, parsed_says (by decide +kernel)⟩, ⟨_, rfl, parsed_says (by decide +kernel)⟩,
    ⟨_, rfl, parsed_says (by decide +kernel)⟩⟩

/-- A node count of zero is refused by LAUNCH and INDIRECT, and a counter address that is not aligned by INDIRECT. -/
theorem witness_queueSteps_refused :
    (packetAt (queued [0x00070601, 0x1000, 0, 0x50000, 0x2000, 0] aQueue) 0 1).any (fun r => launchCause r.1 0 r.2.2 = some 0x0A5) = true ∧
    (packetAt (queued [0x007F0C05, 0x1000, 0, 0x50001, 0x2000, 0, 0x3001, 0, 0x3004, 0, 0, 7] aQueue) 0 5).any (fun r =>
      decide ((word2 r.2.2 5).toNat % 4 ≠ 0)) = true := by decide +kernel

theorem witness_queueSteps_commands :
    can queueMoves (.evLaunchr 0 [64, 0, 0, 0] false) (queued [] { aQueue with widx := 0 }) ∧
    can queueMoves (.evEnable 0) (queued [] { aQueue with state := .disabled }) ∧
    (∀ i ∈ [Instr.evReset 0, .evDestroy 0, .evDestroyWithDeadline 0], can queueMoves i (queued [] aQueue)) ∧
    can queueMoves (.evDestroyDeadlineExpiry 0) (queued [] { aQueue with state := .draining, armed := true, deadline := 5 }) := by
  have o (q : Queue) : portOpen (queued [] q) 0 := ⟨rfl, by rfl⟩
  refine ⟨⟨_, rfl, o _, rfl, by decide⟩, ⟨_, rfl, o _, rfl⟩, ?_, ⟨_, rfl, rfl, rfl, by decide +kernel⟩⟩
  simp only [List.mem_cons, List.not_mem_nil, or_false, forall_eq_or_imp, forall_eq]
  exact ⟨⟨_, rfl, o _, .inl rfl⟩, ⟨_, rfl, o _, .inl rfl⟩, ⟨_, rfl, o _, .inl rfl⟩⟩

/-- The check for a FENCE packet, and what it says. -/
def fenced (s : State) (q : Nat) : Bool :=
  match headPacket s q with
  | .ok u y _ mask ws => y == 2 && inHand u 0 q && (fenceCounters 16 mask ws).all (fun c => c.1.toNat % 4 = 0 && c.2.1 ≤ 5)
  | _ => false

theorem fenced_says {s : State} {q : Nat} (h : fenced s q = true) : can queueMoves (.evFencePacket q) s := by
  unfold fenced at h
  split at h
  · rename_i u y n mask ws e
    simp only [Bool.and_eq_true, beq_iff_eq] at h
    obtain ⟨⟨rfl, h2⟩, h3⟩ := h
    exact ⟨_, rfl, u, n, mask, ws, e, h2, h3⟩
  · cases h

/-- The check for counters that are met, and what it says. -/
def counted (a : FAcc Bool) : Bool :=
  match a with
  | .ok b _ => b
  | _ => false

theorem counted_says {a : FAcc Bool} (h : counted a = true) : ∃ u, a = .ok true u := by
  cases a with
  | ok v u => cases v with
    | true => exact ⟨u, rfl⟩
    | false => cases h
  | hold u => cases h
  | fail u c => cases h

/-- A SIGNAL of each kind and a TIMESTAMP, due. -/
def anAct (op : Option Nat) : PAct := ⟨0, 1, 0x2000, 0, op⟩
def acting (op : Option Nat) : State := queued [] { aQueue with acts := [anAct op] }

theorem witness_queueSteps_waits :
    can queueMoves (.evFencePacket 0) (queued [0x00010502, 0x2000, 0, 0, 0] aQueue) ∧
    can queueMoves (.evFenceCountersMet 0) (queued [] { aQueue with hold := some ([(0x2000, 0, 0)], 5) }) ∧
    can queueMoves (.evSignalPerform 0) (acting (some 0)) ∧
    can queueMoves (.evSignalPerform 0) (acting (some 1)) ∧
    can queueMoves (.evSignalPerform 0) { acting (some 2) with hub := { (acting none).hub with causes := [(0, 0x80000)] } } ∧
    can queueMoves (.evTimestampWrite 0) (acting none) := by
  refine ⟨fenced_says (by decide +kernel), ⟨_, rfl, ?_⟩, ⟨_, rfl, ?_⟩, ⟨_, rfl, ?_⟩, ⟨_, rfl, ?_⟩, ⟨_, rfl, ?_⟩⟩
  · have h := counted_says (a := countersMet (queueWho (queued [] { aQueue with hold := some ([(0x2000, 0, 0)], 5) }) 0 .parse) [(0x2000, 0, 0)]
      (queued [] { aQueue with hold := some ([(0x2000, 0, 0)], 5) })) (by decide +kernel)
    exact h.elim (fun u h => ⟨rfl, rfl, _, 5, u, rfl, h⟩)
  · have h := done_says (a := feWrite (acting (some 0)) (queueWho (acting (some 0)) 0 .act) 0x2000 (wordBytes 8 0)) (by decide +kernel)
    exact h.elim (fun _ h => h.elim (fun u h => ⟨anAct (some 0), u, rfl, .inl ⟨rfl, h⟩⟩))
  · have h := done_says (a := feAdd (acting (some 1)) (queueWho (acting (some 1)) 0 .act) 0x2000 0) (by decide +kernel)
    exact h.elim (fun _ h => h.elim (fun u h => ⟨anAct (some 1), u, rfl, .inr (.inl ⟨rfl, h⟩)⟩))
  · exact ⟨anAct (some 2), _, rfl, .inr (.inr ⟨rfl, by decide +kernel, rfl⟩)⟩
  · have h := done_says (a := feWrite (acting none) (queueWho (acting none) 0 .act) 0x2000 (wordBytes 8 (podTick (acting none)))) (by decide +kernel)
    exact h.elim (fun _ h => h.elim (fun u h => ⟨anAct none, u, rfl, rfl, h⟩))

/-- A count that is read with no counter, and one behind a counter. -/
def counting (ctr : Word) : State := queued [] { aQueue with launch := some { aLaunch with wait := some ⟨0x3000, ctr, 0, 0⟩ } }

/-- The state that an access leaves. -/
def after {α : Type} (a : FAcc α) (s : State) : State :=
  match a with
  | .ok _ u => u
  | _ => s

theorem counted_is {a : FAcc Bool} (s : State) (h : counted a = true) : a = .ok true (after a s) := by
  obtain ⟨u, rfl⟩ := counted_says h
  rfl

theorem witness_queueSteps_launches :
    can queueMoves (.evIndirectDispatch 0) (counting 0) ∧
    can queueMoves (.evIndirectDispatch 0) (counting 0x2000) ∧
    can queueMoves (.evGangTickReached 0) (queued [] { aQueue with launch := some { aLaunch with gang := some 100 } }) ∧
    can queueMoves (.evFrontEndAccessFault 0 0x104) { queued [] aQueue with faults := [{ oneFault with ctx := none, chan := some (queueWho (queued [] aQueue) 0 .parse).mark, refused := some 0x104 }] } := by
  refine ⟨⟨_, rfl, ?_⟩, ⟨_, rfl, ?_⟩, ⟨_, rfl, ?_⟩, ⟨_, rfl, ?_⟩⟩
  · have h := done_says (a := feRead (counting 0) (queueWho (counting 0) 0 .launch) 0x3000 4) (by decide +kernel)
    exact h.elim (fun bs h => h.elim (fun u h => ⟨rfl, rfl, _, _, bs, u, rfl, rfl, rfl, .inl ⟨rfl, by decide +kernel, h⟩⟩))
  · have c := counted_is (a := counterMet (counting 0x2000) (queueWho (counting 0x2000) 0 .launch) 0x2000 0 0) (counting 0x2000) (by decide +kernel)
    have h := done_says (a := feRead (after (counterMet (counting 0x2000) (queueWho (counting 0x2000) 0 .launch) 0x2000 0 0) (counting 0x2000))
      (queueWho (counting 0x2000) 0 .launch) 0x3000 4) (by decide +kernel)
    exact h.elim (fun bs h => h.elim (fun u h => ⟨rfl, rfl, _, _, bs, u, rfl, rfl, rfl, .inr ⟨by decide, by decide +kernel, _, c, h⟩⟩))
  · exact ⟨_, 100, rfl, rfl, by decide +kernel⟩
  · exact ⟨by decide +kernel, rfl⟩

/-! The hub, the authority, power and recovery. -/

/-- An event that a skerry handles. -/
def anEvent : HubEvent := { bit := 0xFFFF, fn := 0, lock := 5000, cause := 0x0A2, source := 0, payload := [], tries := 0 }

/-- A module whose hub is changed. -/
def hubbed (f : Hub → Hub) : State := { up with hub := f up.hub }

theorem witness_hubSteps_1 :
    can hubMoves (.evSkerryTakeEvent 3) (hubbed (fun h => { h with events := [anEvent] })) ∧
    can hubMoves (.evHandlerWatchdog 3) (hubbed (fun h => { h with skerries := [(3, (anEvent, 0))], evrcfg := 0x100 })) ∧
    can hubMoves .evEventRecordWrite (hubbed (fun h => { h with skerries := [(3, (anEvent, 0))], evrcfg := 0x100 })) ∧
    can hubMoves (.evResseq 4) (hubbed (fun h => { h with posted := [(4, { anEvent with bit := 2 })] })) ∧
    can hubMoves (.evEvrridx 0) up := by
  refine ⟨⟨_, rfl, ?_⟩, ⟨_, rfl, ?_⟩, ⟨_, rfl, ?_⟩, ⟨_, rfl, ?_⟩, ⟨_, rfl, ?_⟩⟩
  · exact ⟨rfl, by decide, rfl, anEvent, List.mem_singleton.mpr rfl, by decide +kernel⟩
  · exact ⟨by decide +kernel, anEvent, 0, rfl, by decide +kernel, by decide +kernel⟩
  · exact ⟨by decide +kernel, 3, anEvent, 0, by decide +kernel, by decide +kernel⟩
  · refine ⟨rfl, by decide +kernel, fun n e h => .inr ?_⟩
    have : (4, { anEvent with bit := 2 }) = (n, e) := Option.some.inj h
    obtain ⟨-, rfl⟩ := Prod.mk.inj this
    exact ⟨by decide, by decide⟩
  · exact ⟨rfl, by decide +kernel⟩

/-- Bytes of a block of 64, by place. -/
def block (l : List (Nat × Byte)) : List Byte := (List.range 64).map (fun i => ((l.find? (fun e => e.1 = i)).map (·.2)).getD 0)

/-- A partition that stays in building, of cluster 2 and VF 3. -/
def aPartition : List Byte := block [(2, 1), (4, 16), (8, 4), (24, 4)]

theorem witness_hubSteps_2 :
    can hubMoves (.evRegisterWrite 0 2 0x2038 5000) up ∧
    can hubMoves (.evRegisterWrite 1 0 0x40 0x8000) (queued [] { aQueue with state := .disabled }) ∧
    can hubMoves (.evPartitionTableWrite 2 (aPartition.take 32)) { up with parts := [(2, { state := 1 })] } ∧
    can hubMoves (.evJobKeyRegister 1 5) up ∧
    can hubMoves (.evTdispLock 3) up ∧
    can hubMoves (.evTdispStart 3) { up with fns := [(3, { tdisp := .locked })] } ∧
    can hubMoves (.evTdispStop 3) { up with fns := [(3, { tdisp := .run })] } := by
  refine ⟨⟨_, rfl, ?_⟩, ⟨_, rfl, ?_⟩, ⟨_, rfl, ?_⟩, ⟨_, rfl, ?_⟩, ⟨_, rfl, ?_⟩, ⟨_, rfl, ?_⟩, ⟨_, rfl, ?_⟩⟩
  · exact ⟨rfl, by decide +kernel, .inl ⟨rfl, rfl, rfl⟩⟩
  · exact ⟨rfl, by decide +kernel, .inr ⟨by decide, rfl, by decide, by decide +kernel⟩⟩
  · refine ⟨rfl, by decide +kernel, by decide, by decide, by decide +kernel, rfl, by decide +kernel, by decide +kernel, by decide +kernel, ?_⟩
    exact fun _ _ _ _ => rfl
  · exact ⟨rfl, by decide +kernel, by decide, by decide⟩
  · exact ⟨rfl, by decide, by decide, rfl, by decide +kernel⟩
  · exact ⟨rfl, by decide, by decide, rfl, by decide +kernel⟩
  · exact ⟨rfl, by decide, by decide, .inl rfl, by decide +kernel⟩

/-- A state in which VF 1 of partition 1 runs, with a live slot 0x40 of kind 0 and every right, and a frame of memory at 0x1000. -/
def ruled : State :=
  { queued [] aQueue with
    fns := [(1, { tdisp := .run, part := 1, rights := 0xFFFFFFFF })]
    slots := [(slotKey 65536 0x40, { live := true, base := 0x1000, len := 0x1000, rights := 0xFF })]
    endpoints := [(259, {})] }

/-- A command that a mailbox takes. -/
def commanded (f c : Nat) (cmd : Bytes) (p : List Byte → Nat → Bool) : Bool := (commandOf ruled f c cmd).any (fun r => p r.1 r.2)

theorem commanded_says {f c : Nat} {cmd : Bytes} {p : List Byte → Nat → Bool} (h : commanded f c cmd p = true) :
    ∃ bs k, commandOf ruled f c cmd = some (bs, k) ∧ p bs k = true := by
  obtain ⟨⟨bs, k⟩, h, e⟩ := (Option.any_eq_true ..).mp h
  exact ⟨bs, k, h, e⟩

/-- A command that the authority acts on. -/
theorem acted_says {f c : Nat} {cmd : Bytes} {p : List Byte → Nat → Bool} (h : (Claims.commanded ruled f c cmd).any (fun r => p r.1 r.2) = true) :
    ∃ bs k, Claims.commanded ruled f c cmd = some (bs, k) ∧ p bs k = true := by
  obtain ⟨⟨bs, k⟩, h, e⟩ := (Option.any_eq_true ..).mp h
  exact ⟨bs, k, h, e⟩

/-- ALLOC of 16 bytes and of none; REVOKE and FREE of the slot; EPSET of a peer; ROTATE of a domain that is not one. -/
def allocCmd (n : Byte) : Bytes := block [(16, n)]
def mintCmd (dest extent rights : Byte) : Bytes := block [(8, 0x40), (17, 0x10), (24, extent), (30, rights), (32, dest), (33, 0x20)]

theorem witness_authoritySteps_commands :
    can authorityMoves (.evAlloc 1 (allocCmd 16)) ruled ∧ can authorityMoves (.evAlloc 1 (allocCmd 0)) ruled ∧
    can authorityMoves (.evMint 1 (mintCmd 0 16 1)) ruled ∧
    can authorityMoves (.evRevoke 1 (block [(8, 0x40)])) ruled ∧ can authorityMoves (.evFree 1 (block [(8, 0x40)])) ruled ∧
    can authorityMoves (.evRotate 1 (block [(8, 2)])) ruled ∧ can authorityMoves (.evEpset 1 (block [(8, 3), (12, 7), (16, 9)])) ruled := by
  refine ⟨⟨_, rfl, ?_⟩, ⟨_, rfl, ?_⟩, ⟨_, rfl, ?_⟩, ⟨_, rfl, ?_⟩, ⟨_, rfl, ?_⟩, ⟨_, rfl, ?_⟩, ⟨_, rfl, ?_⟩⟩
  · obtain ⟨bs, k, h, _⟩ := acted_says (f := 1) (c := 1) (cmd := allocCmd 16) (p := fun _ _ => true) (by decide +kernel)
    exact ⟨bs, k, h⟩
  · obtain ⟨bs, k, h, _⟩ := acted_says (f := 1) (c := 1) (cmd := allocCmd 0) (p := fun _ _ => true) (by decide +kernel)
    exact ⟨bs, k, h⟩
  · show _ = true; decide +kernel
  · show _ = true; decide +kernel
  · show _ = true; decide +kernel
  · obtain ⟨bs, k, h, e⟩ := acted_says (f := 1) (c := 5) (cmd := block [(8, 2)]) (p := fun bs _ => decide (cmdNat bs 8 2 < 4096)) (by decide +kernel)
    exact ⟨bs, k, h, of_decide_eq_true e⟩
  · obtain ⟨bs, k, h, e⟩ := acted_says (f := 1) (c := 6) (cmd := block [(8, 3), (12, 7), (16, 9)]) (p := fun bs k =>
      decide ((tabGet {} (endpointOf ruled k bs) ruled.endpoints).tenant = (getFn ruled k).tenant ∧
          (tabFind (endpointOf ruled k bs) ruled.endpoints).isSome = true)) (by decide +kernel)
    exact ⟨bs, k, h, .inr (of_decide_eq_true e)⟩

/-- The clauses for MINT: a destination that is not aligned, a tenant that does not run, arguments that are refused, and a handle that is written. -/
theorem witness_authoritySteps_mint :
    commanded 1 2 (mintCmd 1 16 1) (fun bs _ => cmdNat bs 32 8 % 32 ≠ 0) = true ∧
    fnRuns { ruled with fns := [(1, { tdisp := .locked, part := 1 })] } 1 = false ∧
    commanded 1 2 (mintCmd 0 0 1) (fun bs k => cmdNat bs 32 8 % 32 = 0 && fnRuns ruled k && mintStatus ruled (spaceFor ruled k) k (mintReq bs) != 0) = true ∧
    commanded 1 2 (mintCmd 0 16 1) (fun bs k => cmdNat bs 32 8 % 32 = 0 && fnRuns ruled k && mintStatus ruled (spaceFor ruled k) k (mintReq bs) == 0 &&
      done (feWrite (modAuth ruled 1 (fun a => { a with mail := bs, cmd := bs })) (mintWho ruled 1 k) (cmdNat bs 32 8)
        (leBytes 32 (mintBits ruled (spaceFor ruled k) (mintReq bs)).toNat))) = true := by decide +kernel

/-- The clauses for EPSET: a peer, a region with a handle of kind 0, and one with a handle of kind 2. -/
theorem witness_authoritySteps_epset :
    commanded 1 6 (block [(8, 3), (12, 7), (16, 9)]) (fun bs _ => epsetGood bs) = true ∧
    commanded 1 6 (block [(8, 3), (10, 1), (12, 7), (16, 9)]) (fun bs _ => epsetGood bs) = true ∧
    commanded 1 6 (block [(8, 3), (10, 1), (12, 7), (31, 2)]) (fun bs _ => !epsetGood bs) = true := by decide +kernel

/-- A cluster whose work has gone and whose tenant's queues are disabled. -/
def vacating : State :=
  { ruled with x := { full with run := false }, clusters := [(0, { owner := some (0, 1), poolpw := aWord })], queues := [(0, { aQueue with state := .disabled })] }

theorem witness_authoritySteps_rest :
    can authorityMoves (.evRevocationTablesDone 1) { ruled with auths := [(1, { phase := 1 })] } ∧
    can authorityMoves (.evRevocationComplete 1) { ruled with auths := [(1, { phase := 2, swept := true })] } ∧
    can authorityMoves (.evRotationWalkerStep 2 3) { ruled with
      domains := [(2, { state := 2 })], hub := { ruled.hub with skerries := [(0, handlerOf 5 35)] } } ∧
    can authorityMoves (.evContextSwitchScrub 0) vacating := by
  refine ⟨⟨_, rfl, ?_⟩, ⟨_, rfl, ?_⟩, ⟨_, rfl, ?_⟩, ⟨_, rfl, ?_⟩⟩
  · show _ = 1; decide +kernel
  · exact ⟨rfl, rfl, by decide +kernel⟩
  · exact ⟨rfl, by decide, by decide, by decide +kernel⟩
  · exact ⟨(0, 1), rfl, by decide +kernel, by decide +kernel⟩

/-- A strait in a state, on a module whose configuration names it. -/
def strait (st : StraitState) : State := { hubbed (fun h => { h with straitMask := 8 }) with straits := [(3, { state := st })] }

/-- A module whose dies are 1 to 4 of the pod. -/
def second : State := { strait .opened with dies := (List.range 4).map (fun d => (d, { podDie := d + 1 })) }

/-- A boot record that is accepted. -/
def bootRecord : Memory := memWrite [] 0 (leBytes 4 0x46435A49 ++ leBytes 4 1 ++ List.replicate 20 0 ++ leBytes 4 2000)

theorem witness_powerSteps_1 :
    (∀ i ∈ [Instr.evBandwidthRefill 0, .evPowerFloorWrite 1 100, .evOverCurrentWarning 0, .evThermalThrottle 0, .evThermalStop 0], can powerMoves i up) ∧
    (∀ i ∈ [Instr.evPowerInterval [(1, 5)], .evThermalPowerOff, .evPowerOn, .evPfReset], can powerMoves i up) := by
  simp only [List.mem_cons, List.not_mem_nil, or_false, forall_eq_or_imp, forall_eq]
  exact ⟨⟨⟨_, rfl, by decide⟩, ⟨_, rfl, rfl, by decide⟩, ⟨_, rfl, Nat.zero_lt_succ _⟩, ⟨_, rfl, Nat.zero_lt_succ _⟩, ⟨_, rfl, by decide⟩⟩,
    ⟨_, rfl, trivial⟩, ⟨_, rfl, trivial⟩, ⟨_, rfl, trivial⟩, ⟨_, rfl, trivial⟩⟩

/-- A hub that has enrolled another operator's key. -/
def otherOperator : Hub := { up.hub with operator := some (operatorHash up.hub + 1) }

theorem witness_powerSteps_operator : operatorOk up.hub = true ∧ operatorOk otherOperator = false := by
  have h (x : BitVec 384) : decide (x + 1 = x) = false := by simp
  exact ⟨rfl, h (operatorHash up.hub)⟩

theorem witness_powerSteps_2 :
    can powerMoves (.evBootlen 100) (hubbed (fun h => { h with boot := .waitImg })) ∧
    can powerMoves (.evBootlen 4096) (hubbed (fun h => { h with boot := .config })) ∧
    can powerMoves (.evImageCheck true true) (hubbed (fun h => { h with boot := .rom })) ∧
    can powerMoves (.evImageCheck true true) (hubbed (fun h => { h with boot := .check })) ∧
    can powerMoves (.evRecordCheck true) (hubbed (fun h => { h with boot := .config, verify := true })) ∧
    recordOk { up.hub with record := bootRecord } = true ∧ recordOk up.hub = false :=
  ⟨⟨_, rfl, .inl rfl⟩, ⟨_, rfl, .inr rfl⟩, ⟨_, rfl, .inl rfl⟩, ⟨_, rfl, .inr rfl⟩, ⟨_, rfl, rfl, rfl⟩, by decide +kernel, by decide +kernel⟩

theorem witness_powerSteps_3 :
    can powerMoves (.evStraitTraining 3) (strait .down) ∧ can powerMoves (.evStraitTraining 3) (strait .training) ∧
    can powerMoves (.evStraitAttest 3 ⟨true, 0, 5, [5]⟩) (strait .attesting) ∧
    can powerMoves (.evKeyUpdate 3) (strait .opened) ∧ can powerMoves (.evStraitGroupFailure 3) (strait .opened) ∧
    can powerMoves (.evStraitClose 3) (strait .opened) ∧ can powerMoves (.evPodTickSync 2000000) second :=
  ⟨⟨_, rfl, by decide, rfl, by decide⟩, ⟨_, rfl, by decide, rfl, by decide⟩, ⟨_, rfl, trivial, rfl⟩, ⟨_, rfl, rfl⟩, ⟨_, rfl, rfl⟩,
    ⟨_, rfl, trivial, rfl⟩, ⟨_, rfl, by decide +kernel, ⟨_, List.mem_singleton.mpr rfl, rfl⟩, by decide +kernel, by decide, by decide +kernel⟩⟩

theorem low_of_policy (a : BitVec 384) : (a ++ 0#16 : BitVec (384 + 16)).extractLsb' 0 16 = 0#16 := by
  ext k hk
  simp only [BitVec.getElem_extractLsb', BitVec.getLsbD_append]
  simp only [Nat.zero_add, hk, if_true]
  rfl

theorem high_of_policy (a : BitVec 384) : (a ++ 0#16 : BitVec (384 + 16)).extractLsb' 16 384 = a := by
  ext k hk
  simp only [BitVec.getElem_extractLsb', BitVec.getLsbD_append]
  simp [hk]

/-- A peer that the pod policy accepts, and one that has not been authenticated. -/
theorem witness_powerSteps_peer :
    peerOk { up.hub with podPol := measurement (leBytes 48 5) ++ 0#16 } ⟨true, 0, 5, [5]⟩ = true ∧ peerOk up.hub ⟨false, 0, 5, [5]⟩ = false := by
  refine ⟨?_, rfl⟩
  have m : [(5 : BitVec 384)].flatMap (fun m => leBytes 48 m.toNat) = leBytes 48 5 := rfl
  simp only [peerOk, m, low_of_policy, high_of_policy, decide_true, Bool.and_true]
  decide

/-- The module with VF 1's job resident on cluster 0, its continuation running or not, and a planner window. -/
def planned (run : Bool) (p : Planner) : State :=
  { ruled with
    x := { inJob.x with run := run }, bundles := [(1, aJob)], clusters := [(0, { node := some (1, 0), poolpw := aWord, owner := some (0, 1) })]
    planners := [(1, p)] }

/-- A pre-emption of cluster 0 with 1 GiB of buffer, and an eviction. -/
def aPreempt : Preempt := { mask := 1, base := 0x10000000, len := 0x40000000, used := 0, since := 0, grace := 1000, kill := 2000, stage := 2 }
def anEvict : Evict := { deadline := 1000, bw := 1, bound := 200000, base := 0, len := 0, used := 0, since := 0, grace := 1000, kill := 2000 }

/-- PREEMPT of cluster 0; EVICT at a tick past the notice; RESTORE to cluster 0. -/
def preemptCmd : Bytes := block [(8, 1)]
def evictCmd : Bytes := block [(12, 1)]

/-- An image of a cluster without work, of no bytes. -/
def anImage : Image :=
  { bytes := [], plain := [], queue := 0, part := 1, tenant := 0, q := aQueue, bundles := [], pieces := [], ready := [], clusters := [(2, { pool := [(5, 7)], poolpw := aWord })], saved := [] }

/-- RESTORE of that image to cluster 0. -/
def restoreCmd : Bytes := block [(8, 1)]

theorem planOf_isSome {s : State} {c : Nat} {cmd : Bytes} {p : List Byte → Bool} (h : (planOf s c cmd).any p = true) :
    ∃ bs, planOf s c cmd = some bs ∧ p bs = true := (Option.any_eq_true ..).mp h

theorem witness_recoverySteps_commands :
    can recoveryMoves (.evPreempt 1 preemptCmd) (planned true {}) ∧ can recoveryMoves (.evPreempt 1 preemptCmd) (planned true { preempt := some aPreempt }) ∧
    can recoveryMoves (.evEvict 1 evictCmd) (planned true {}) ∧
    can recoveryMoves (.evRestore 1 restoreCmd) { ruled with images := [anImage] } := by
  refine ⟨⟨_, rfl, ?_⟩, ⟨_, rfl, ?_⟩, ⟨_, rfl, ?_⟩, ⟨_, rfl, ?_⟩⟩
  · obtain ⟨bs, h, e⟩ := planOf_isSome (s := planned true {}) (c := 1) (cmd := preemptCmd) (p := fun bs => decide (cmdNat bs 8 8 < 2 ^ 48)) (by decide +kernel)
    exact ⟨bs, h, of_decide_eq_true e⟩
  · obtain ⟨bs, h, e⟩ := planOf_isSome (s := planned true { preempt := some aPreempt }) (c := 1) (cmd := preemptCmd)
      (p := fun bs => decide (cmdNat bs 8 8 < 2 ^ 48)) (by decide +kernel)
    exact ⟨bs, h, of_decide_eq_true e⟩
  · show _ = true; decide +kernel
  · obtain ⟨bs, h, e⟩ := planOf_isSome (s := { ruled with images := [anImage] }) (c := 3) (cmd := restoreCmd) (p := fun bs =>
      decide (findImage { ruled with images := [anImage] } (cmdNat bs 32 8) (cmdNat bs 40 8) = some anImage ∧ cmdNat bs 8 8 < 2 ^ 48 ∧ anImage.part = 1 ∧
        (targetsOf bs).length = anImage.clusters.length ∧ (getFn ruled (queueOwner ruled anImage.queue).1).tenant = anImage.tenant ∧
        imageLive ruled anImage = false ∧
        ∀ cl ∈ targetsOf bs, (tabGet {} 1 ruled.parts).clusters.getLsbD cl = true ∧ (getCluster ruled cl).owner = none ∧
          (getCluster ruled cl).node = none ∧ (getCluster ruled cl).switch = false ∧ aWord = (getCluster ruled cl).poolpw))
      (by decide +kernel)
    obtain ⟨e1, e2, e3, e4, e5, e6, e7⟩ := of_decide_eq_true e
    exact ⟨bs, anImage, h, e1, e2, e3, e4, e5, e6, fun cl hc =>
      ⟨(e7 cl hc).1, (e7 cl hc).2.1, (e7 cl hc).2.2.1, (e7 cl hc).2.2.2.1, .inr ⟨_, rfl, (e7 cl hc).2.2.2.2⟩⟩⟩

/-- The refused and accepted outcomes of EVICT, as the partition's state and its notice give them. -/
theorem witness_recoverySteps_evict :
    (planOf (planned true {}) 2 evictCmd).any (fun bs => (podTick (planned true {})).toNat + 2000000 ≤ cmdNat bs 8 8 && cmdNat bs 24 8 = 0) = true ∧
    (tabGet {} 1 (planned true {}).parts).state = 2 ∧ (getPlanner (planned true {}) 1).evict = none := by decide +kernel

theorem witness_recoverySteps_planner :
    can recoveryMoves (.evGraceTimerExpiry 1) (planned true { preempt := some aPreempt }) ∧
    can recoveryMoves (.evKillTimerExpiry 1) (planned true { preempt := some aPreempt }) ∧
    can recoveryMoves (.evKillTimerExpiry 1) (planned true { evict := some anEvict, plans := [(0, { decision := 2, state := 1 })] }) ∧
    can recoveryMoves (.evCheckpointWrite 1 0) (planned false { preempt := some aPreempt }) ∧
    can recoveryMoves (.evPlannerPass 1) { planned true { evict := some anEvict } with
      hub := { ruled.hub with skerries := [(0, handlerOf 3 1)] } } ∧
    can recoveryMoves (.evEvictionKillTime 1) (planned true { evict := some anEvict }) := by
  refine ⟨⟨_, rfl, ?_⟩, ⟨_, rfl, ?_⟩, ⟨_, rfl, ?_⟩, ⟨_, rfl, ?_⟩, ⟨_, rfl, ?_⟩, ⟨_, rfl, ?_⟩⟩
  · exact ⟨aPreempt, rfl, by decide +kernel⟩
  · exact ⟨0, by decide +kernel, .inl ⟨rfl, aPreempt, rfl, by decide +kernel, by decide +kernel⟩⟩
  · exact ⟨0, by decide +kernel, .inr ⟨anEvict, rfl, rfl, rfl, rfl, by decide +kernel, by decide +kernel⟩⟩
  · have w : (writeImage (planned false { preempt := some aPreempt }) 1 0 (covered (planned false { preempt := some aPreempt }) aPreempt.mask 0) aPreempt.base
        aPreempt.len aPreempt.used).isSome = true := by decide +kernel
    obtain ⟨⟨u, n⟩, h⟩ := Option.isSome_iff_exists.mp w
    exact ⟨aPreempt, u, n, rfl, rfl, by decide +kernel, by decide +kernel, h⟩
  · exact ⟨anEvict, rfl, rfl, by decide +kernel, by decide +kernel⟩
  · exact ⟨anEvict, rfl, rfl, by decide +kernel⟩

/-- Function-level reset in each of its states. -/
theorem witness_recoverySteps_reset :
    (∀ n ∈ [0, 1, 2, 5, 6], can recoveryMoves (.evFlr 1) { ruled with fns := [(1, { reset := n })] }) ∧
    can recoveryMoves (.evFlrDrainBound 1) { ruled with fns := [(1, { reset := 3 })] } :=
  ⟨fun _ _ => ⟨_, rfl, rfl, by decide, by decide⟩, ⟨_, rfl, rfl⟩⟩

end Sys2Proof.Tests
end

section
/-! ### Memory: what a read gives back after a write

A write cuts memory at the two ends of the range it covers, so which part lists a byte after the write is decided by its address alone. -/

namespace Sys2Proof.Machine

/-- A search of two tables in a row takes the first table's entry where there is one. -/
theorem tabFind_append {α : Type} (k : Nat) (t u : Tab α) : tabFind k (t ++ u) = (tabFind k t).or (tabFind k u) := by
  induction t with
  | nil => rfl
  | cons e t ih =>
    obtain ⟨j, v⟩ := e
    by_cases hj : j = k
    · simp [tabFind, hj]
    · simpa [tabFind, hj] using ih

/-- A table filtered by unit keeps the first entry of every unit that passes and lists no other. -/
theorem tabFind_filter {α : Type} (p : Nat → Bool) (k : Nat) (t : Tab α) :
    tabFind k (t.filter (fun e => p e.1)) = if p k then tabFind k t else none := by
  induction t with
  | nil => simp [tabFind]
  | cons e t ih =>
    obtain ⟨j, v⟩ := e
    by_cases hj : j = k
    · subst hj
      cases hp : p j <;> simp [tabFind, hp, ih]
    · cases hp : p j <;> simp [tabFind, hp, hj, ih]

/-- A unit that differs from every listed one is not found. -/
theorem tabFind_eq_none {α : Type} {k : Nat} {t : Tab α} (h : ∀ e ∈ t, e.1 ≠ k) : tabFind k t = none := by
  cases hf : tabFind k t with
  | none => rfl
  | some v => exact absurd rfl (tabFind_all h hf)

/-- The cells of a write list nothing outside its range. -/
theorem tabFind_memCells_outside {a k : Nat} {bs : List Byte} (h : k < a ∨ a + bs.length ≤ k) : tabFind k (memCells a bs) = none :=
  tabFind_eq_none fun c hc hk => by
    obtain ⟨hlo, hhi, -⟩ := memCells_bounds bs a c hc
    omega

/-- The first byte of a write reads back from its cells, whether it is listed or left out as empty. -/
theorem memByte_memCells_head (a : Nat) (b : Byte) (bs : List Byte) : memByte (memCells a (b :: bs)) a = b := by
  unfold memByte tabGet memCells
  split
  · next hb => rw [tabFind_memCells_outside (.inl (Nat.lt_succ_self a)), hb]; rfl
  · simp [tabFind]

/-- Behind its first byte, a write lists what the write of its other bytes lists. -/
theorem memByte_memCells_tail {a k : Nat} (b : Byte) (bs : List Byte) (h : a < k) :
    memByte (memCells a (b :: bs)) k = memByte (memCells (a + 1) bs) k := by
  simp only [memByte, tabGet, memCells]
  split
  · rfl
  · simp [tabFind, Nat.ne_of_lt h]

/-- Two memories that agree on the bytes of a range give the same read of it. -/
theorem memRead_congr {m m' : Memory} {a n : Nat} (h : ∀ k, a ≤ k → k < a + n → memByte m k = memByte m' k) :
    memRead m a n = memRead m' a n := by
  induction n generalizing a with
  | zero => rfl
  | succ n ih =>
    have head : memByte m a = memByte m' a := h a (Nat.le_refl a) (by omega)
    have tail : memRead m (a + 1) n = memRead m' (a + 1) n := ih fun k hlo hhi => h k (by omega) (by omega)
    simp only [memRead, head, tail]

/-- The cells of a write read back as the bytes written. -/
theorem memRead_memCells (a : Nat) (bs : List Byte) : memRead (memCells a bs) a bs.length = bs := by
  induction bs generalizing a with
  | nil => rfl
  | cons b bs ih =>
    have tail : memRead (memCells a (b :: bs)) (a + 1) bs.length = bs :=
      (memRead_congr fun k hk _ => memByte_memCells_tail b bs hk).trans (ih (a + 1))
    simp only [List.length_cons, memRead, memByte_memCells_head, tail]

/-- A search of a written memory looks below the written range, then in the cells of the write, then above the range. -/
theorem tabFind_memWrite (m : Memory) (a k : Nat) (bs : List Byte) :
    tabFind k (memWrite m a bs) =
      ((if k < a then tabFind k m else none).or (tabFind k (memCells a bs))).or (if a + bs.length ≤ k then tabFind k m else none) := by
  simp only [memWrite, tabFind_append, tabFind_filter (fun j => decide (j < a)), tabFind_filter (fun j => decide (a + bs.length ≤ j)),
    decide_eq_true_eq]

/-- Within the range of a write, a byte reads as the cells of the write give it. -/
theorem memByte_memWrite_inside (m : Memory) {a k : Nat} {bs : List Byte} (hlo : a ≤ k) (hhi : k < a + bs.length) :
    memByte (memWrite m a bs) k = memByte (memCells a bs) k := by
  simp [memByte, tabGet, tabFind_memWrite, Nat.not_lt.2 hlo, Nat.not_le.2 hhi]

/-- Outside the range of a write, a byte reads as before. -/
theorem memByte_memWrite_outside (m : Memory) {a k : Nat} {bs : List Byte} (h : k < a ∨ a + bs.length ≤ k) :
    memByte (memWrite m a bs) k = memByte m k := by
  unfold memByte tabGet
  rw [tabFind_memWrite, tabFind_memCells_outside h]
  rcases h with below | above
  · have notAbove : ¬ a + bs.length ≤ k := by omega
    simp [below, notAbove]
  · have notBelow : ¬ k < a := by omega
    simp [above, notBelow]

/-- A read of the range just written gives the bytes written. -/
theorem memRead_memWrite_same (m : Memory) (a : Nat) (bs : List Byte) : memRead (memWrite m a bs) a bs.length = bs :=
  (memRead_congr fun _ hlo hhi => memByte_memWrite_inside m hlo hhi).trans (memRead_memCells a bs)

/-- A read of a range that does not meet the written one gives what it gave before. -/
theorem memRead_memWrite_disjoint (m : Memory) {a b n : Nat} {bs : List Byte} (h : b + n ≤ a ∨ a + bs.length ≤ b) :
    memRead (memWrite m a bs) b n = memRead m b n :=
  memRead_congr fun k hlo hhi => memByte_memWrite_outside m (by omega)

/-- Settles O4. The two halves hold of every memory, so the canonical form is not used: a write keeps or drops cells by address alone, and a
search takes the first cell of an address. -/
theorem memoryReadAfterWrite : Obligations.MemoryReadAfterWrite := by
  intro m a bs _
  exact ⟨memRead_memWrite_same m a bs, fun _ _ h => memRead_memWrite_disjoint m h⟩

end Sys2Proof.Machine
end

section
/-! ### Lane-by-lane instructions: the lanes of a vector, and what a lane loop writes (R189, R193) -/

namespace Sys2Proof.Machine

open Sys2Proof.Claims (Lanes LanesOk laneAt activeLanes calm was)

/-- The unit just put is found with its new entry, every other one as before. -/
theorem tabFind_tabPut {α : Type} (k j : Nat) (v : α) (t : Tab α) : tabFind k (tabPut j v t) = if j = k then some v else tabFind k t := by
  induction t with
  | nil => rfl
  | cons e t ih =>
    obtain ⟨i, w⟩ := e
    by_cases before : j < i
    · simp [tabPut, before, tabFind]
    · by_cases same : i = j
      · subst same
        by_cases hk : i = k <;> simp [tabPut, tabFind, hk]
      · by_cases hk : i = k
        · have differ : j ≠ k := fun h => same (hk.trans h.symm)
          rw [tabPut, if_neg before, if_neg same]
          simp [tabFind, hk, differ]
        · simp [tabPut, before, same, tabFind, hk, ih]

/-- The number that `lanesVec` makes of its lanes, each of `b` bits. -/
def packedLanes (b : Nat) (l : List Nat) : Nat := l.foldr (fun v acc => v % 2 ^ b + acc * 2 ^ b) 0

theorem lanesVec_eq (w : Nat) (l : List Nat) : lanesVec w l = BitVec.ofNat 2048 (packedLanes (8 * w) l) := rfl

theorem packedLanes_cons (b v : Nat) (l : List Nat) : packedLanes b (v :: l) = v % 2 ^ b + packedLanes b l * 2 ^ b := rfl

theorem packedLanes_lt (b : Nat) (l : List Nat) : packedLanes b l < 2 ^ (b * l.length) := by
  induction l with
  | nil => simp [packedLanes]
  | cons v l ih =>
    have low : v % 2 ^ b < 2 ^ b := Nat.mod_lt _ (Nat.two_pow_pos b)
    calc packedLanes b (v :: l) < 2 ^ b + packedLanes b l * 2 ^ b := by rw [packedLanes_cons]; omega
      _ = (packedLanes b l + 1) * 2 ^ b := by rw [Nat.succ_mul, Nat.add_comm]
      _ ≤ 2 ^ (b * l.length) * 2 ^ b := Nat.mul_le_mul_right _ ih
      _ = 2 ^ (b * (v :: l).length) := by rw [← Nat.pow_add, List.length_cons, Nat.mul_succ]

/-- A lane of the packed number is the entry of the list, cut to the width of a lane. -/
theorem packedLanes_lane (b : Nat) {l : List Nat} {k : Nat} (hk : k < l.length) : packedLanes b l / 2 ^ (b * k) % 2 ^ b = l[k] % 2 ^ b := by
  induction l generalizing k with
  | nil => exact absurd hk (Nat.not_lt_zero k)
  | cons v l ih =>
    rw [packedLanes_cons]
    cases k with
    | zero => simp
    | succ k =>
      have high : (v % 2 ^ b + packedLanes b l * 2 ^ b) / 2 ^ b = packedLanes b l := by
        rw [Nat.add_mul_div_right _ _ (Nat.two_pow_pos b), Nat.div_eq_of_lt (Nat.mod_lt _ (Nat.two_pow_pos b)), Nat.zero_add]
      rw [Nat.mul_succ, Nat.add_comm (b * k) b, Nat.pow_add, ← Nat.div_div_eq_div_mul, high, ih (Nat.lt_of_succ_lt_succ hk), List.getElem_cons_succ]

/-- The claims' lane is the model's. -/
theorem laneNat_eq : laneNat = Claims.lane := by
  funext w v k
  rw [laneNat, bitsOf, Nat.shiftRight_eq_div_pow, Claims.lane]

theorem lane_lt (w : Nat) (v : Vec) (k : Nat) : Claims.lane w v k < 2 ^ (8 * w) := Nat.mod_lt _ (Nat.two_pow_pos _)

/-- A lane of a vector made of lanes that fit it. -/
theorem lane_lanesVec {w : Nat} {l : List Nat} {k : Nat} (hl : w * l.length ≤ 256) (hk : k < l.length) :
    Claims.lane w (lanesVec w l) k = l[k] % 2 ^ (8 * w) := by
  have fits : 8 * w * l.length ≤ 2048 := by rw [Nat.mul_assoc]; omega
  rw [Claims.lane, lanesVec_eq, BitVec.toNat_ofNat,
    Nat.mod_eq_of_lt (Nat.lt_of_lt_of_le (packedLanes_lt (8 * w) l) (Nat.pow_le_pow_right Nat.two_pos fits)), packedLanes_lane _ hk]

theorem contBytes_pos (ty : Nat) : 0 < contBytes ty := by unfold contBytes; split <;> decide

theorem contBytes_mul_laneCount (ty : Nat) : contBytes ty * laneCount ty = 256 := by unfold laneCount contBytes; split <;> rfl

/-! #### What a lane loop computes -/

/-- The bits that lane `k` gets: the result where it is computed, else what the destination held. -/
def laneCode (x : Context) (vs : List Src) (f : Lanes) (k : Nat) : Nat :=
  if f.on x k then (laneAt x vs f k).get.1 else Claims.lane (contBytes (f.type x)) (was x f.dest) k

/-- The vector that a lane-by-lane instruction writes. -/
def laneVec (x : Context) (vs : List Src) (f : Lanes) : Vec :=
  lanesVec (contBytes (f.type x)) ((List.range (laneCount (f.type x))).map (laneCode x vs f))

/-- The flags of the lanes `ks` joined to `fl`. -/
def laneFlags (x : Context) (vs : List Src) (f : Lanes) (ks : List Nat) (fl : Flags) : Flags :=
  ks.foldl (fun g k => g ||| (laneAt x vs f k).get.2) fl

/-- Whether the lanes that are computed step their rounding state (R131). -/
def stepsLanes (x : Context) (f : Lanes) : Bool := f.draws (f.type x) && f.mode x = 2

/-- The lane states after the lanes `ks` have been computed. -/
def laneStates (x : Context) (f : Lanes) (ks : List Nat) (ls : Tab (BitVec 32)) : Tab (BitVec 32) :=
  ks.foldl (fun ls k => if stepsLanes x f then tabPut k (lfsrStep (x.lane k)) ls else ls) ls

/-- The context with the lane states of the lanes that are computed stepped. -/
def stepped (x : Context) (f : Lanes) : Context := { x with lanes := laneStates x f (activeLanes x f) x.lanes }

theorem tabFind_laneStates (x : Context) (f : Lanes) (ks : List Nat) (ls : Tab (BitVec 32)) (k : Nat) :
    tabFind k (laneStates x f ks ls) = if stepsLanes x f && ks.contains k then some (lfsrStep (x.lane k)) else tabFind k ls := by
  unfold laneStates
  induction ks generalizing ls with
  | nil => simp
  | cons j ks ih =>
    rw [List.foldl_cons, ih]
    cases stepsLanes x f with
    | false => simp
    | true =>
      by_cases hj : j = k
      · subst hj; simp [tabFind_tabPut]
      · simp [tabFind_tabPut, hj, Ne.symm hj]

/-- Only computed lanes step their state. -/
theorem stepped_lane (x : Context) (f : Lanes) (k : Nat) :
    (stepped x f).lane k = if stepsLanes x f && (activeLanes x f).contains k then lfsrStep (x.lane k) else x.lane k := by
  have found : (stepped x f).lane k =
      (tabFind k (laneStates x f (activeLanes x f) x.lanes)).getD (seedLane (x.seed.setWidth 32) k) := rfl
  rw [found, tabFind_laneStates]
  split <;> rfl

/-- The vector, the flags and the lane states of the loop are those that R193 gives. -/
theorem laneVec_lanesOk (x : Context) (vs : List Src) (f : Lanes) :
    LanesOk x vs f (laneVec x vs f) (laneFlags x vs f (activeLanes x f) flagNone) (stepped x f) := by
  refine ⟨fun k hk => ?_, rfl, rfl, stepped_lane x f⟩
  have fits : contBytes (f.type x) * ((List.range (laneCount (f.type x))).map (laneCode x vs f)).length ≤ 256 :=
    Nat.le_of_eq (by rw [List.length_map, List.length_range, contBytes_mul_laneCount])
  rw [laneVec, lane_lanesVec fits (by simpa using hk), List.getElem_map, List.getElem_range, laneCode]
  split
  · rfl
  · exact Nat.mod_eq_of_lt (lane_lt _ _ _)

section
variable {x : Context} {w : Nat} {draws : Bool} {mode ovf : BitVec 2} {p : Pred} {f : Nat → Rnd → Coded} {old : Nat → Nat} {k : Nat}
  {ks acc : List Nat} {fl : Flags} {ls : Tab (BitVec 32)}

/-- The loop gives an inactive lane its old bits. -/
theorem laneLoop_off (off : laneOn w p k = false) :
    laneLoop x w draws mode ovf p f old (k :: ks) acc fl ls = laneLoop x w draws mode ovf p f old ks (old k :: acc) fl ls :=
  if_neg (Bool.eq_false_iff.1 off)

/-- The loop gives an active lane its result, with its flags and its stepped state. -/
theorem laneLoop_on {code : Nat} {g : Flags} (on : laneOn w p k = true)
    (result : f k ⟨mode, ovf, if draws && mode = 2 then lfsrStep (x.lane k) else 0⟩ = .ok code g) :
    laneLoop x w draws mode ovf p f old (k :: ks) acc fl ls = laneLoop x w draws mode ovf p f old ks (code :: acc) (fl ||| g)
      (if draws && mode = 2 then tabPut k (lfsrStep (x.lane k)) ls else ls) := by
  refine (if_pos on).trans ?_
  cases hs : (draws && mode = 2) <;> simp only [hs, if_true, if_false, Bool.false_eq_true] at result ⊢ <;> rw [result]

end

/-- A lane loop in which no computed lane raises a cause runs through its lanes: `y` is a context with the lane states of `x`, and `g`
agrees with the row `f` on the lanes. -/
theorem laneLoop_runs {x y : Context} {vs : List Src} {f : Lanes} {p : Pred} {g : Nat → Rnd → Coded} {ks : List Nat} (hy : y.lane = x.lane)
    (hon : ∀ k, f.on x k = laneOn (contBytes (f.type x)) p k) (hg : ∀ k ∈ ks, g k = f.lane x vs k)
    (hc : ∀ k ∈ ks, f.on x k = true → ∃ code fl, laneAt x vs f k = .ok code fl) (acc : List Nat) (fl : Flags) (ls : Tab (BitVec 32)) :
    laneLoop y (contBytes (f.type x)) (f.draws (f.type x)) (f.mode x) (f.ovf x) p g
        (Claims.lane (contBytes (f.type x)) (was x f.dest)) ks acc fl ls =
      .ok (acc.reverse ++ ks.map (laneCode x vs f), laneFlags x vs f (ks.filter (f.on x)) fl, laneStates x f (ks.filter (f.on x)) ls) := by
  induction ks generalizing acc fl ls with
  | nil => rw [List.map_nil, List.append_nil]; rfl
  | cons k ks ih =>
    have ih := ih (fun j hj => hg j (List.mem_cons_of_mem k hj)) fun j hj => hc j (List.mem_cons_of_mem k hj)
    cases on : f.on x k with
    | false =>
      have code : laneCode x vs f k = Claims.lane (contBytes (f.type x)) (was x f.dest) k := if_neg (Bool.eq_false_iff.1 on)
      rw [laneLoop_off ((hon k).symm.trans on), ih, List.filter_cons_of_neg (Bool.eq_false_iff.1 on), List.map_cons, code, List.reverse_cons,
        List.append_assoc, List.singleton_append]
    | true =>
      obtain ⟨code, raised, hk⟩ := hc k List.mem_cons_self on
      have codes : laneCode x vs f k = code := (if_pos on).trans (congrArg (·.get.1) hk)
      have flags : laneFlags x vs f (k :: ks.filter (f.on x)) fl = laneFlags x vs f (ks.filter (f.on x)) (fl ||| raised) :=
        congrArg (fun c : Coded => laneFlags x vs f (ks.filter (f.on x)) (fl ||| c.get.2)) hk
      have result : g k ⟨f.mode x, f.ovf x, if f.draws (f.type x) && f.mode x = 2 then lfsrStep (y.lane k) else 0⟩ = .ok code raised := by
        rw [hy, hg k List.mem_cons_self]; exact hk
      rw [laneLoop_on ((hon k).symm.trans on) result, ih, List.filter_cons_of_pos on, flags, List.map_cons, codes, List.reverse_cons,
        List.append_assoc, List.singleton_append, hy]
      rfl

theorem calm_ok {x : Context} {vs : List Src} {f : Lanes} (h : calm x vs f = true) :
    ∀ k ∈ List.range (laneCount (f.type x)), f.on x k = true → ∃ code g, laneAt x vs f k = .ok code g := by
  intro k hk on
  have hk := List.all_eq_true.1 h k (List.mem_filter.2 ⟨hk, on⟩)
  cases hl : laneAt x vs f k with
  | ok code g => exact ⟨code, g, rfl⟩
  | trap c => rw [hl] at hk; exact absurd hk Bool.false_ne_true

/-! #### The destination -/

theorem wroteV_over (x c : Context) (d : BitVec 5) (w : Vec) : wroteV (x.upon c) d w = (wroteV x d w).upon c := by
  unfold wroteV; split <;> rfl

/-- A destination with room is a full register, or a queue that takes another entry. -/
theorem roomV_cases {x : Context} {d : BitVec 5} (h : roomV x d = true) :
    d.toNat < 28 ∧ x.vfull d.toNat = true ∨
      ¬ d.toNat < 28 ∧ pendingQv x true (d.toNat - 28) = false ∧ (vecGet x.vEA (d.toNat - 28) []).length < vectorRoom := by
  unfold roomV at h
  by_cases hr : d.toNat < 28
  · rw [if_pos hr] at h
    exact .inl ⟨hr, h⟩
  · simp only [if_neg hr, Bool.and_eq_true, Bool.not_eq_true', decide_eq_true_eq] at h
    exact .inr ⟨hr, h⟩

theorem readyV_of_roomV {x : Context} {d : BitVec 5} (h : roomV x d = true) : readyV x d = true := by
  rcases roomV_cases h with ⟨-, full⟩ | ⟨queue, -, -⟩
  · exact Bool.or_eq_true_iff.2 (.inr full)
  · exact Bool.or_eq_true_iff.2 (.inl (decide_eq_true (Nat.le_of_not_lt queue)))

theorem writeVDst_room {x : Context} {d : BitVec 5} (w : Vec) (h : roomV x d = true) : writeVDst x d w = .ok (wroteV x d w) := by
  rcases roomV_cases h with ⟨register, full⟩ | ⟨queue, pending, room⟩
  · simp [writeVDst, wroteV, register, full, Context.setV]
  · simp [writeVDst, wroteV, queue, pending, pushV, room]

theorem putVec_written {s : State} {d : BitVec 5} {v : Vec} {fl : Flags} {ls : Tab (BitVec 32)} {y : Context}
    (h : writeVDst { s.x with lanes := ls } d v = .ok y) : putVec s d v fl ls = .ok { s with x := y } fl := by
  rw [putVec, h]

/-- A lane-by-lane instruction whose destination can be read writes what its lane loop gives. -/
theorem laneOp_ready {s : State} {d : BitVec 5} (h : readyV s.x d = true) (ty : Nat) (draws : Bool) (mode ovf : BitVec 2) (p : Pred)
    (g : Nat → Rnd → Coded) : laneOp s d ty draws mode ovf p g = putLanes s d (contBytes ty) (laneLoop s.x (contBytes ty) draws mode ovf p g
      (Claims.lane (contBytes ty) (was s.x d)) (List.range (laneCount ty)) [] flagNone s.x.lanes) := by
  rw [laneOp, h, laneNat_eq]
  rfl

/-- What a lane-by-lane instruction does when no lane traps and its destination has room, wherever fetch stands. -/
theorem laneOp_calm {x : Context} {vs : List Src} {f : Lanes} {p : Pred} {g : Nat → Rnd → Coded}
    (hon : ∀ k, f.on x k = laneOn (contBytes (f.type x)) p k) (hg : ∀ k < laneCount (f.type x), g k = f.lane x vs k)
    (hc : calm x vs f = true) (hroom : roomV x f.dest = true) (u : State) (z : Context) :
    laneOp { u with x := x.upon z } f.dest (f.type x) (f.draws (f.type x)) (f.mode x) (f.ovf x) p g =
      .ok { u with x := (wroteV (stepped x f) f.dest (laneVec x vs f)).upon z } (laneFlags x vs f (activeLanes x f) flagNone) := by
  have ready : readyV (x.upon z) f.dest = true := readyV_of_roomV (x := x.upon z) hroom
  have loop := laneLoop_runs (x := x) (y := x.upon z) rfl hon (fun k hk => hg k (List.mem_range.1 hk)) (calm_ok hc) [] flagNone x.lanes
  have write : writeVDst ((stepped x f).upon z) f.dest (laneVec x vs f) = .ok ((wroteV (stepped x f) f.dest (laneVec x vs f)).upon z) := by
    rw [writeVDst_room _ (show roomV ((stepped x f).upon z) f.dest = true from hroom), wroteV_over]
  rw [laneOp_ready ready]
  exact (congrArg (putLanes _ _ _) loop).trans (putVec_written write)

end Sys2Proof.Machine
end

section
/-! ### M instructions: joining the execute stream, and completing in either place (R83) -/

namespace Sys2Proof.Machine

open Sys2Proof.Claims (sent joins mReads MDone)

theorem preCaps_eq_sent (x : Context) (fs : List SrcF) : preCaps x fs = sent x fs := by
  unfold preCaps sent
  refine List.map_congr_left fun f _ => ?_
  cases f with
  | v r te => rfl
  | run r n te => rfl
  | skip => rfl
  | g r te =>
    by_cases h0 : r = 0
    · subst h0; rfl
    · have hn : r.toNat ≠ 0 := fun e => h0 (BitVec.eq_of_toNat_eq e)
      simp only [h0, if_false, Context.gval, hn]

/-- What the access side does with an M instruction that the execute side cannot execute yet: the instruction joins the stream. -/
theorem issueLate_joins {i : Instr} {fs : List SrcF} {engine : Bool} {late : Entry → State → Option DoneM}
    {body : List (Option Src) → State → DoneM} (hs : sources i = fs) (hx : ∀ s, exec i s = .next (issueLate i engine late body s)) :
    joins i fs := by
  intro s hc he behind hroom hfw
  simp only [Claims.streamRoom, Bool.and_eq_true, decide_eq_true_eq] at hroom
  obtain ⟨⟨outcomes, entries⟩, slots⟩ := hroom
  generalize hE : ({ pc := s.x.pc, words := encode i, exec := true, waited := false, caps := preCaps s.x fs, cont := false, prog := 0 } : Entry) = e
  generalize hC : ({ s.x.moved s.tick with stream := s.x.stream ++ [EItem.instr e] } : Context).advance e = C
  have hent : accessEntry i s.x = { pc := s.x.pc, words := encode i, exec := false, waited := false, caps := [], cont := false, prog := 0 } := by
    simp [accessEntry, hc]
  have notFirst : (s.x.stream.isEmpty && !s.lag) = false := by
    rcases behind with hl | hl <;> simp [hl]
  have joined : issueLate i engine late body s = stepHalt { s with x := C } := by
    unfold issueLate
    rw [if_neg (by simp [he])]
    simp only [hent]
    rw [if_neg (by simp only [Bool.or_eq_true, decide_eq_true_eq]; omega)]
    simp only [hs, capture_pre hfw, notFirst, Bool.false_eq_true, if_false, hE, hC]
  obtain ⟨upon, cur, loops, stream, fetch⟩ := advance_spec ({ s.x.moved s.tick with stream := s.x.stream ++ [EItem.instr e] } : Context) e
  rw [hC] at upon cur loops stream fetch
  have pc : e.pc = s.x.pc := by rw [← hE]
  have next : e.next = s.x.pc.setWidth 64 + 4 * BitVec.ofNat 64 (encode i).length := by rw [← hE]; rfl
  rw [pc] at loops
  rw [pc, next] at stream fetch
  refine ⟨_, e, hx s, pc, by rw [← hE], by rw [← hE, preCaps_eq_sent], by rw [← hE], ?_⟩
  rw [joined, stepHalt_x]
  refine ⟨rfl, upon, cur, loops, fetch rfl, stream.trans ?_⟩
  rw [if_neg (by simp)]
  rfl

theorem headReads_keeps {s : State} {r : Ring} {fs : List SrcF} {caps cs : List (Option Src)} {x : Context}
    (h : headReads s r fs caps = some (cs, x)) : x = x.upon s.x := by
  obtain ⟨z, hz, h⟩ := Option.bind_eq_some_iff.1 h
  rcases hc : capture true false fs caps z with ⟨c, y, o⟩
  rw [hc] at h
  cases o with
  | ok =>
    simp only [Option.some.injEq, Prod.mk.injEq] at h
    rw [← h.2, capture_keeps hc, ringWait_keeps hz]; rfl
  | wait q => exact absurd h (by simp)
  | trap c => exact absurd h (by simp)

/-- An M instruction whose body answers `ok` on what it reads, wherever fetch stands, completes where it gets its sources. -/
theorem issueM_done {head : Bool} {caps : List (Option Src)} {s : State} {i : Instr} {fs : List SrcF} {vs : List Src} {x y : Context}
    {fl : Flags} {body : List (Option Src) → State → DoneM} (hs : sources i = fs) (h : mReads head caps i s (ringOf i) fs vs x)
    (hy : y = y.upon x)
    (hb : ∀ (u : State) (z : Context), body (vs.map some) { u with x := x.upon z } = .ok { u with x := y.upon z } fl) :
    MDone head { s with x := y } i (sigsOf s .M (ringOf i)) fl (issueM i false body s) := by
  cases head with
  | true =>
    obtain ⟨atHead, reads⟩ : s.atHead i caps ∧ headReads s (ringOf i) fs caps = some (vs.map some, x) := h
    have keeps : y = y.upon s.x := by rw [hy, headReads_keeps reads]; rfl
    have hb := hb s x
    rw [over_self, ← hy] at hb
    exact issueM_executed atHead (hs ▸ reads) keeps hb
  | false =>
    have reads : executeReads s (ringOf i) fs = some (vs, x) := h
    exact issueM_retired hs reads (by rw [hy, executeReads_keeps reads]; rfl) hb

end Sys2Proof.Machine

namespace Sys2Proof.Claims

open Sys2Proof.Machine

/-- What `resultsLanes` says of one instruction and its row `f`. -/
def CompletesLanes (i : Instr) (f : Lanes) : Prop :=
  joins i f.reads ∧ ∀ (head : Bool) (caps : List (Option Src)) (s : State) (vs : List Src) (x : Context),
    mReads head caps i s f.ring f.reads vs x → f.takes (f.type x) = true → calm x vs f = true → roomV x f.dest = true →
    ∃ t v fl y, exec i s = .next t ∧ LanesOk x vs f v fl y ∧
      MDone head { s with x := wroteV y f.dest v } i (sigsOf s .M f.ring) fl t

theorem resultsLanes_iff (table : Instr → Option Lanes) : resultsLanes table ↔ ∀ i f, table i = some f → CompletesLanes i f := Iff.rfl

/-- An instruction whose body is a lane loop that agrees with its row on the lanes completes as the row says. -/
theorem completesLanes_of_laneOp {i : Instr} {f : Lanes} {body : List (Option Src) → State → DoneM} {p : BitVec 3}
    {g : Context → List Src → Nat → Rnd → Coded} (hx : ∀ s, exec i s = .next (issueM i false body s)) (hs : sources i = f.reads)
    (hr : ringOf i = f.ring) (hon : ∀ x, f.on x = active (contBytes (f.type x)) (pred x p))
    (hg : ∀ x vs, ∀ k < laneCount (f.type x), g x vs k = f.lane x vs k)
    (hb : ∀ (vs : List Src) (x z : Context) (u : State), f.takes (f.type x) = true → body (vs.map some) { u with x := x.upon z } =
      laneOp { u with x := x.upon z } f.dest (f.type x) (f.draws (f.type x)) (f.mode x) (f.ovf x) (pred x p) (g x vs)) :
    CompletesLanes i f := by
  refine ⟨issueLate_joins hs hx, fun head caps s vs x reads takes calm room => ?_⟩
  have on : ∀ k, f.on x k = laneOn (contBytes (f.type x)) (pred x p) k := congrFun (hon x)
  rw [← hr] at reads ⊢
  refine ⟨_, laneVec x vs f, _, stepped x f, hx s, laneVec_lanesOk x vs f, issueM_done hs reads ?_ fun u z => ?_⟩
  · rw [← wroteV_over]; rfl
  · rw [hb vs x z u takes, laneOp_calm on (hg x vs) calm room]

end Sys2Proof.Claims
end

section
/-! ### Bitwise functions, shifts, signs and classes on container bits (R104, R211, R218) -/

namespace Sys2Proof.Claims

open Sys2Proof.Machine

/-! #### The function of a lane, as the rules say it -/

theorem lane_testBit (w : Nat) (v : Vec) (k j : Nat) : (lane w v k).testBit j = (decide (j < 8 * w) && v.getLsbD (8 * w * k + j)) := by
  rw [lane, Nat.testBit_mod_two_pow, Nat.testBit_div_two_pow, BitVec.testBit_toNat, Nat.add_comm]

/-- The complement of a lane is the lane of the complement. -/
theorem lane_not {w k : Nat} (v : Vec) (hk : 8 * w * (k + 1) ≤ 2048) : 2 ^ (8 * w) - 1 - lane w v k = lane w (~~~v) k := by
  rw [Nat.sub_sub, Nat.add_comm 1]
  refine Nat.eq_of_testBit_eq fun j => ?_
  rw [Nat.testBit_two_pow_sub_succ (lane_lt w v k), lane_testBit, lane_testBit, BitVec.getLsbD_not]
  by_cases hj : j < 8 * w
  · have inside : 8 * w * k + j < 2048 := by rw [Nat.mul_succ] at hk; omega
    simp [hj, inside]
  · simp [hj]

/-- The model's sign extension is the balanced residue. -/
theorem signed_eq_bmod {n : Nat} (hn : 0 < n) (a : Nat) : Machine.signed n a = (a : Int).bmod (2 ^ n) := by
  obtain ⟨m, rfl⟩ : ∃ m, n = m + 1 := ⟨n - 1, by omega⟩
  have half : (2 ^ (m + 1) + 1) / 2 = 2 ^ m := by rw [Nat.pow_succ]; omega
  have residue : (a : Int) % (2 ^ (m + 1) : Nat) = (a % 2 ^ (m + 1) : Nat) := (Int.natCast_emod _ _).symm
  have test : ((a % 2 ^ (m + 1) : Nat) : Int) < (((2 ^ (m + 1) : Nat) : Int) + 1) / 2 ↔ a % 2 ^ (m + 1) < 2 ^ m := by omega
  rw [Machine.signed, Int.bmod, residue, if_neg (Nat.succ_ne_zero m), Nat.add_sub_cancel]
  simp only [test]

theorem signed_contBytes (ty a : Nat) : Machine.signed (8 * contBytes ty) a = (a : Int).bmod (2 ^ (8 * contBytes ty)) :=
  signed_eq_bmod (by have := contBytes_pos ty; omega) a

/-- The magnitude of a signed lane fits the lane. -/
theorem natAbs_bmod_lt {n : Nat} (hn : 0 < n) (a : Int) : (a.bmod (2 ^ n)).natAbs < 2 ^ n := by
  obtain ⟨m, rfl⟩ : ∃ m, n = m + 1 := ⟨n - 1, by omega⟩
  have low := Int.le_bmod (x := a) (Nat.two_pow_pos (m + 1))
  have high := Int.bmod_lt (x := a) (Nat.two_pow_pos (m + 1))
  rw [Nat.pow_succ] at low high ⊢
  omega

theorem unsigned_natAbs {n : Nat} {v : Int} (h : v.natAbs < 2 ^ n) : unsigned n (if v < 0 then -v else v) = v.natAbs := by
  have magnitude : (if v < 0 then -v else v) = v.natAbs := by split <;> omega
  rw [unsigned, magnitude, ← Int.natCast_emod, Int.toNat_natCast, Nat.mod_eq_of_lt h]

/-- VABS clears the sign (R104, R211). -/
theorem signLane_abs (ty a : Nat) : signLane false ty (contBytes ty) a = match floatFmt ty with
    | some g => withSign g a false
    | none => ((a : Int).bmod (2 ^ (8 * contBytes ty))).natAbs := by
  unfold signLane withSign
  cases floatFmt ty with
  | some g => simp
  | none =>
    have fits := natAbs_bmod_lt (show 0 < 8 * contBytes ty by have := contBytes_pos ty; omega) a
    simpa [signed_contBytes] using unsigned_natAbs fits

/-- VNEG inverts the sign (R104, R211). -/
theorem signLane_neg (ty a : Nat) : signLane true ty (contBytes ty) a = match floatFmt ty with
    | some g => withSign g a (!a.testBit (g.ebits + g.mbits))
    | none => (-(a : Int).bmod (2 ^ (8 * contBytes ty)) % (2 ^ (8 * contBytes ty) : Nat)).toNat := by
  unfold signLane withSign
  cases floatFmt ty with
  | some g =>
    have bit : bitsOf a (g.ebits + g.mbits) 1 = (a.testBit (g.ebits + g.mbits)).toNat := by
      rw [bitsOf, Nat.shiftRight_eq_div_pow, Nat.pow_one, Nat.toNat_testBit]
    cases hb : a.testBit (g.ebits + g.mbits) <;> simp [bit, hb]
  | none => simp [signed_contBytes, unsigned]

/-! #### The instructions -/

theorem srcV_some (vs : List Src) (j : Nat) : srcV (vs.map some) j = vec vs j := by
  unfold srcV vec
  rw [List.getD_eq_getElem?_getD, List.getElem?_map]
  cases vs[j]? <;> rfl

theorem pval_eq_pred (x : Context) (p : BitVec 3) : x.pval p.toNat = pred x p := by
  have zero : p.toNat = 0 ↔ p = 0 := ⟨fun h => BitVec.eq_of_toNat_eq h, fun h => by rw [h]; rfl⟩
  simp only [Context.pval, pred, zero]

/-- A VX function on container bits does what its row says, when its function agrees with the row's on every lane. -/
theorem vxBits_completes {i : Instr} (f : VXF) {ok : Nat → Bool} {fn : Nat → Nat → Nat → Nat} {takes : Nat → Bool} {reads : List SrcF}
    {g : List Src → Nat → Nat → Nat} {L : Lanes}
    (hL : bits f.ring reads f.vd f.p (fun _ => f.st.toNat) takes (fun _ vs w k => g vs w k) = some L)
    (hx : ∀ s, exec i s = .next (vxBits i f ok fn s)) (hs : sources i = reads) (hr : ringOf i = f.ring)
    (hok : ∀ ty, takes ty = true → ok ty = true)
    (hfn : ∀ vs, ∀ k < laneCount f.st.toNat,
      fn (contBytes f.st.toNat) (lane (contBytes f.st.toNat) (vec vs 0) k) (lane (contBytes f.st.toNat) (vec vs 1) k) =
        g vs (contBytes f.st.toNat) k) : CompletesLanes i L := by
  obtain rfl := Option.some.inj hL
  refine completesLanes_of_laneOp (g := fun _ vs k _ => .ok (fn (contBytes f.st.toNat) (lane (contBytes f.st.toNat) (vec vs 0) k)
    (lane (contBytes f.st.toNat) (vec vs 1) k)) flagNone) hx hs hr (fun _ => rfl) (fun _ vs k hk => ?_) fun vs x z u accepted => ?_
  · rw [hfn vs k hk]
  · have accepts : ok (sTy f) = true := hok _ accepted
    simp only [accepts, Bool.not_true, Bool.false_eq_true, if_false, pval_eq_pred, srcV_some, laneNat_eq]
    rfl

theorem anyCode_anyType (ty : Nat) (h : anyCode ty = true) : anyType ty = true := by
  simp only [anyCode, anyType, decide_eq_true_eq] at h ⊢; omega

theorem signed_signType (ty : Nat) (h : signed ty = true) : signType ty = true :=
  (by decide : ∀ ty ∈ [1, 2, 3, 4, 5, 6, 7, 8, 9, 13, 14], signType ty = true) ty (List.contains_iff_mem.1 h)

/-- A lane lies within the vector. -/
theorem lane_inside {ty k : Nat} (hk : k < laneCount ty) : 8 * contBytes ty * (k + 1) ≤ 2048 := by
  have whole := contBytes_mul_laneCount ty
  have upTo : contBytes ty * (k + 1) ≤ contBytes ty * laneCount ty := Nat.mul_le_mul_left _ hk
  rw [Nat.mul_assoc]
  omega

end Sys2Proof.Claims

namespace Sys2Proof.Machine

open Sys2Proof.Claims

/-- Settles O19. Each instruction is a lane loop over the container bits of its sources (`vxBits_completes`); what is left of it is that its
function of a lane is the one that R211 and R218 state. -/
theorem laneBits : Obligations.LaneBits := by
  refine (resultsLanes_iff vxBitTable).2 fun i L hL => ?_
  unfold vxBitTable at hL
  cases i with
  | vand f => exact vxBits_completes f hL (fun _ => rfl) rfl rfl anyCode_anyType fun _ _ _ => rfl
  | vor f => exact vxBits_completes f hL (fun _ => rfl) rfl rfl anyCode_anyType fun _ _ _ => rfl
  | vxor f => exact vxBits_completes f hL (fun _ => rfl) rfl rfl anyCode_anyType fun _ _ _ => rfl
  | vnot f => exact vxBits_completes f hL (fun _ => rfl) rfl rfl anyCode_anyType fun vs _ hk => lane_not (vec vs 0) (lane_inside hk)
  | vshl f => exact vxBits_completes f hL (fun _ => rfl) rfl rfl anyCode_anyType fun _ _ _ => Nat.shiftLeft_eq _ _
  | vshr f => exact vxBits_completes f hL (fun _ => rfl) rfl rfl anyCode_anyType fun _ _ _ => Nat.shiftRight_eq_div_pow _ _
  | vsra f =>
    exact vxBits_completes f hL (fun _ => rfl) rfl rfl anyCode_anyType fun _ _ _ => by rw [signed_contBytes]; rfl
  | vabs f => exact vxBits_completes f hL (fun _ => rfl) rfl rfl signed_signType fun _ _ _ => signLane_abs _ _
  | vneg f => exact vxBits_completes f hL (fun _ => rfl) rfl rfl signed_signType fun _ _ _ => signLane_neg _ _
  | vclass f => exact vxBits_completes f hL (fun _ => rfl) rfl rfl (fun _ h => h) fun _ _ _ => rfl
  | _ => exact absurd hL (Option.some_ne_none L).symm

end Sys2Proof.Machine
end
